-- ==== Sys2Proof/Word.lean ====
section
/-! DEFINITION. The word types of the model. -/

namespace Sys2Proof

/-- One byte. -/
abbrev Byte := BitVec 8
/-- A 64-bit scalar register or register-map word. -/
abbrev Word := BitVec 64
/-- One vector lane. -/
abbrev Lane := BitVec 32

end Sys2Proof
end

