-- ==== Sys2Proof/OperandTypes.lean ====
section
/-! DEFINITION. The operand types of the commands. opcode_table.json gives its rows no operands; each operand is what the rule of its row
reads. Units are named by index (`Nat`), registers and fields by bit vectors. -/

namespace Sys2Proof

/-- The three streams of a tile, coded 0, 1, 2 (R118). -/
inductive StreamId where | F | B | U
  deriving DecidableEq, Repr

def StreamId.code : StreamId → Nat | .F => 0 | .B => 1 | .U => 2

/-- Host ports A and B (R359). -/
inductive HostPort where | A | B
  deriving DecidableEq, Repr

def HostPort.idx : HostPort → Nat | .A => 0 | .B => 1

/-- The fields of a 128-bit instruction word but its OPCODE, which the constructor gives (Table 07-1, R148). -/
structure IWord where
  guard : BitVec 3 := 0
  gneg  : Bool := false
  func  : BitVec 4 := 0
  dst   : BitVec 8 := 0xFF
  srca  : BitVec 8 := 0xFF
  srcb  : BitVec 8 := 0xFF
  imm   : BitVec 24 := 0
  ext   : BitVec 64 := 0
  deriving DecidableEq, Repr

/-- What the silicon does while an instruction or delivery runs: the errors its checkers meet. All empty on fault-free silicon. -/
structure Hw where
  /-- local-store words read with a single-bit error (R186) -/
  lsCorr   : List Nat := []
  /-- local-store words that fail SECDED beyond correction (R186) -/
  lsUncorr : List Nat := []
  /-- stack-homed lines read with a corrected symbol (R203) -/
  memCorr  : List Nat := []
  /-- stack-homed lines read uncorrectable (R203) -/
  memUncorr : List Nat := []
  /-- main lanes whose result is wrong: lane, flipped bits; for VRED the lane in which a wrong tree node is formed and the bits it flips in the
  result (R334) -/
  mainErr  : List (Nat × Lane) := []
  /-- shadow lanes whose result is wrong: shadow lane, flipped bits (R334) -/
  shadowErr : List (Nat × Lane) := []
  /-- consecutive disagreements of the conversion pair (R333) -/
  convErr  : Nat := 0
  /-- bank rows whose content an array fault changed before read-out: row, column, added units (R59) -/
  bankErr  : List (Nat × Nat × Int) := []
  deriving DecidableEq, Repr

/-- One instruction at issue: the tile (576 of them, n = 144·die + 12·row + column), the stream, the word the fetch buffer delivers at its PC. -/
structure Issue where
  tile   : Nat
  stream : StreamId
  word   : IWord := {}
  hw     : Hw := {}
  deriving DecidableEq, Repr

/-- Whose brew's lines are written home: a stream of a tile, or an update engine with the journal slot of its record (R215, R226). -/
inductive BrewOwner where | tile (t : Nat) (s : StreamId) | engine (die l slot : Nat)
  deriving DecidableEq, Repr

/-- Who sends a message (R371, R401, R463). -/
inductive Sender where | port (p : HostPort) | mgmt | i3c
  deriving DecidableEq, Repr

/-- Authentication trailer of a management message (R401). -/
structure Trailer where
  nonce : BitVec 128
  sig   : List Byte
  deriving DecidableEq, Repr

/-- Message header of Table 14-7 with its payload bytes; TYPE is the constructor's. -/
structure MsgHdr where
  src     : Sender
  slot    : Nat := 0
  major   : Byte := 1
  minor   : Byte := 0
  part    : Byte := 0xFF
  length  : BitVec 32 := 0
  seq     : BitVec 32 := 0
  crc     : BitVec 32 := 0
  cookie  : Word := 0
  payload : List Byte := []
  trailer : Option Trailer := none
  deriving DecidableEq, Repr

/-- The effective step of a staged message: its payload's bytes 0 to 3 (R6, R371). -/
def MsgHdr.eff (h : MsgHdr) : BitVec 32 := BitVec.ofNat 32 ((h.payload.take 4).foldr (fun b n => b.toNat + 256 * n) 0)

/-- A 256-byte flit (R264): the 96-bit header, the payload, the CRC-32C, and whether its codeword was marked uncorrectable (R265). -/
structure Flit where
  hdr     : BitVec 96
  payload : List Byte
  crc     : BitVec 32
  fecBad  : Bool := false
  deriving DecidableEq, Repr

/-- A Hyirdan frame (R413). -/
structure Frame where
  stream : Nat
  streamSeq : Nat
  modSeq : Nat
  payload : List Byte
  ack    : Nat
  crcOk  : Bool
  deriving DecidableEq, Repr

/-- A unit that changes partition (Table 14-13). -/
inductive PartUnit where | tile (n : Nat) | granule (stack g : Nat) | pair (n : Nat)
  deriving DecidableEq, Repr

/-- One granule of a PART_ADD or PART_REMOVE with its pitch code. -/
structure GranSpec where
  stack : Nat
  g     : Nat
  pitch : BitVec 4 := 0
  deriving DecidableEq, Repr

/-- Payload of PART_SET (Table 14-10, Table 14-11). -/
structure PartSetArgs where
  owner     : HostPort
  orphan    : BitVec 2
  orphanN   : BitVec 16
  lease     : BitVec 16
  boardMask : Byte
  quota     : BitVec 13
  deriving DecidableEq, Repr

/-- One descriptor of a LOAF_WRITE: index, word 0 and the bytes from byte 8 on (Table 02-8, R35). -/
structure LoafArg where
  index : Nat
  word0 : Word
  body  : List Byte
  deriving DecidableEq, Repr

/-- Collective message header of Table 12-3 with its data (R302), as delivered whole by a port (R266). -/
structure CollMsg where
  tag    : Word
  step   : BitVec 32
  group  : BitVec 16
  op     : Byte
  flags  : Byte
  seq    : BitVec 32
  lane   : BitVec 16
  src    : BitVec 16
  shape  : BitVec 32
  tensor : BitVec 32
  offset : Word
  data   : List Byte
  deriving DecidableEq, Repr

/-- A remote board-address request of one 64-byte line (R193). -/
structure BoardReq where
  tag   : Word
  addr  : BitVec 48
  write : Option (List Byte)
  deriving DecidableEq, Repr

/-- What a lane showed over a 1 s window (R282). -/
structure LaneStat where
  symbols  : Nat
  bitErrs  : Nat
  lostLock : Bool
  deriving DecidableEq, Repr

/-- The registers a REGISTER_WRITE may name: those whose field has no behaviour of its own (R5). -/
inductive RegTarget where
  /-- IOD_APSEL of a host port (Table 14-4) -/
  | apsel (p : HostPort)
  /-- byte of the emulated request area (Table 14-8) -/
  | emuReq (p : HostPort) (off : Nat)
  /-- EMU_CTRL (Table 14-8): GO is the message's own row and EVT_NEXT a row of the table; what is left is reserved -/
  | emuCtrl (p : HostPort)
  /-- byte of a host-to-device slot the host owns (R367) -/
  | slotByte (p : HostPort) (slot off : Nat)
  /-- MSI-X table entry word (Table 14-3) -/
  | msix (p : HostPort) (entry word : Nat)
  /-- any other BAR0 offset: reserved (R361) -/
  | bar0Rsv (p : HostPort) (off : Nat)
  /-- firmware: TILE_VTRIM of a physical tile (R32) -/
  | vtrim (die m : Nat)
  /-- firmware: TILE_ARR_CTRL.DMARGIN of a physical tile (R63) -/
  | arrCtrl (die m : Nat)
  /-- firmware: TILE_ARR_REPAIR of a physical tile (R44, R65) -/
  | arrRepair (die m : Nat)
  /-- firmware: PWR_GATE enables (R431) -/
  | gate (die i : Nat)
  /-- board management: SLEW over I3C (R455) -/
  | slew
  /-- firmware: CLK_SSC -/
  | clkSsc
  /-- firmware: CLK_DOM SET_MHZ -/
  | clkDom (i : Nat)
  deriving DecidableEq, Repr

/-- The hardened inputs of Table 17-7. -/
inductive HardIn where | pkgRst | throttle | perstA | perstB | trst | slot0 | slot1 | slot2
  deriving DecidableEq, Repr

def HardIn.bit : HardIn → Nat
  | .pkgRst => 0 | .throttle => 1 | .perstA => 2 | .perstB => 3 | .trst => 4 | .slot0 => 5 | .slot1 => 6 | .slot2 => 7

/-- A cold-reset cause of Table 17-2. -/
inductive RailCause where | vinLow | vinHigh | vauxRange | vinOver
  deriving DecidableEq, Repr

/-- An image header as the ROM reads it (Table 15-4), the three section hashes found in the flash, and whether it reads at all. -/
structure ImageInfo where
  magicOk   : Bool
  keySlot   : BitVec 2
  svn       : Nat
  fwMajor   : BitVec 16
  fwMinor   : BitVec 16
  hver      : BitVec 16
  iodLo     : Byte
  iodHi     : Byte
  cdLo      : Byte
  cdHi      : Byte
  pubKey    : List Byte
  header    : List Byte
  sig       : List Byte
  fsHash    : BitVec 256
  mfHash    : BitVec 256
  dataHash  : BitVec 256
  firstStage : List Byte
  firmware  : List Byte
  data      : List Byte
  deriving DecidableEq, Repr

/-- A job's program region: address, length in bytes (R299). -/
structure Region where
  addr : BitVec 48
  len  : Nat
  deriving DecidableEq, Repr

/-- The records of the IOD error queue: unit kind and indices (Table 13-12), class, syndrome, detail (R337). -/
structure UnitId where
  kind : Nat
  idx  : List Nat := []
  deriving DecidableEq, Repr

end Sys2Proof
end

