-- ==== Sys2Proof/Syntax.lean ====
section
/-! DEFINITION. The commands of the block: `Instr` has one constructor per row of spec/opcode_table.json, in the table's order, those without
operands last (Lean's compiler numbers at most 245 constructors that have fields); each docstring is the row's rule and summary. Dies are numbered 0–3, 4 is the IOD where a unit may lie on it. -/

namespace Sys2Proof

/-- The commands (opcode_table.json). -/
inductive Instr where
  /-- NOP, R160: CT instruction that has no effect and occupies issue for one token. -/
  | nop (i : Issue)
  /-- END, R161: Ends the stream's program once every earlier instruction has completed and its writes are visible. -/
  | end_ (i : Issue)
  /-- BR, R160: Branches by a signed instruction offset. -/
  | br (i : Issue)
  /-- BRDEC, R160: Decrements a scalar register and branches if the result is non-zero. -/
  | brdec (i : Issue)
  /-- LDI, R160: Loads a 64-bit immediate from EXT into a scalar register. -/
  | ldi (i : Issue)
  /-- SALU, R160: Scalar ALU operation selected by FUNC, modulo 2^64. -/
  | salu (i : Issue)
  /-- SCMP, R160: Scalar compare selected by FUNC, writing a predicate. -/
  | scmp (i : Issue)
  /-- PLOG, R160: Predicate logic or SET selected by FUNC. -/
  | plog (i : Issue)
  /-- SGET, R154: Writes the special value chosen by the IMM selector to a scalar register. -/
  | sget (i : Issue)
  /-- SLD, R160: Loads 8 bytes from local store into a scalar register. -/
  | sld (i : Issue)
  /-- SST, R160: Stores a scalar register as 8 bytes to local store. -/
  | sst (i : Issue)
  /-- BRAID_SET, R135: Loads a new braid table and LAST; the table takes effect at the next grant point. -/
  | braidSet (i : Issue)
  /-- WAIT, R128: Waits until a signal counter reaches n, then subtracts n in one indivisible action. -/
  | wait (i : Issue)
  /-- WAIT_PEEK, R128: Waits until a signal counter reaches n, without subtracting. -/
  | waitPeek (i : Issue)
  /-- SIGNAL, R130: Adds an amount to a counter of a tile or loaf of the partition, after earlier writes are visible. -/
  | signal (i : Issue)
  /-- SIGNAL_SET, R128: Writes a value to a counter of the issuing tile and clears its OVF bit. -/
  | signalSet (i : Issue)
  /-- PIN, R162: Adds 1 to a shard's pin count and returns its version. -/
  | pin (i : Issue)
  /-- UNPIN, R162: Subtracts 1 from a shard's pin count. -/
  | unpin (i : Issue)
  /-- STEP, R120: After every earlier instruction completes, adds 1 to the stream's step number. -/
  | step (i : Issue)
  /-- FENCE, R163: Completes once every earlier instruction of the stream has completed and its writes are visible. -/
  | fence (i : Issue)
  /-- MMA_F, R45: One fill and 128 waves accumulating the forward read into a bank. -/
  | mmaF (i : Issue)
  /-- MMA_X, R45: One fill and 128 waves accumulating the crossed read into a bank. -/
  | mmaX (i : Issue)
  /-- WAVE_COMMIT, R55: A checked wave is added into its bank row and the row tally is updated. -/
  | waveCommit (t : Nat) (errs : List (Nat × Int)) (chkErr : Nat)
  /-- MMA_COMPLETE, R49: All 128 waves of an MMA are committed and its scoreboard entry is released. -/
  | mmaComplete (t : Nat)
  /-- ARRAY_GRANT, R136: At a grant point the array chooses the next stream's MMA under the braid table. -/
  | arrayGrant (t : Nat)
  /-- ACC_ZERO, R89: Zeroes a bank, its marks, FILLS and tallies, and sets its anchor. -/
  | accZero (i : Issue)
  /-- ACC_OUT, R92: Checks row tallies, then converts a bank's contents into a slice with one rounding. -/
  | accOut (i : Issue)
  /-- ACC_MERGE, R91: Adds a W96 slice from local store into a bank exactly. -/
  | accMerge (i : Issue)
  /-- ACC_ACQ, R133: Takes ownership of a bank, waiting if another stream owns it. -/
  | accAcq (i : Issue)
  /-- ACC_REL, R133: Frees an owned bank once earlier operations on it have completed. -/
  | accRel (i : Issue)
  /-- EXPSCAN, R90: Scans two slice ranges for their largest exponents and writes an anchor. -/
  | expscan (i : Issue)
  /-- VFP, R93: FP32 per-lane add, subtract, multiply, divide, minimum or maximum. -/
  | vfp (i : Issue)
  /-- VFMA, R93: FP32 per-lane fused multiply-add with one rounding. -/
  | vfma (i : Issue)
  /-- VFUN, R93: FP32 per-lane square root, reciprocal square root, exp2, log2, abs or negate. -/
  | vfun (i : Issue)
  /-- VINT, R169: 32-bit integer per-lane arithmetic, logic or shift. -/
  | vint (i : Issue)
  /-- VCMP, R169: Per-lane FP32 or integer comparison writing a mask. -/
  | vcmp (i : Issue)
  /-- VSEL, R169: Per-lane select between two vector registers by a mask. -/
  | vsel (i : Issue)
  /-- VBCAST, R169: Broadcasts a scalar value to every lane. -/
  | vbcast (i : Issue)
  /-- VIOTA, R169: Writes a scalar base plus the lane index to every lane. -/
  | viota (i : Issue)
  /-- VEXT, R169: Extracts one lane into a scalar register. -/
  | vext (i : Issue)
  /-- VRED, R94: Reduces n vector registers by the reference tree into a scalar. -/
  | vred (i : Issue)
  /-- VCVT, R166: Narrows FP32 lanes into a packed format, or widens packed elements to FP32. -/
  | vcvt (i : Issue)
  /-- VLD, R169: Loads 512 bytes of local store into a vector register. -/
  | vld (i : Issue)
  /-- VST, R169: Stores a vector register as 512 bytes of local store. -/
  | vst (i : Issue)
  /-- VLDS, R167: Loads one row or column of a slice, widened to FP32. -/
  | vlds (i : Issue)
  /-- VSTS, R168: Stores one row or column of a slice, converted from FP32. -/
  | vsts (i : Issue)
  /-- COPY_IN, R184: Copies a run of slices from external memory into the local store of a tile or loaf. -/
  | copyIn (i : Issue)
  /-- COPY_OUT, R184: Copies a run of slices from the local store of a tile or loaf to external memory. -/
  | copyOut (i : Issue)
  /-- COPY_TT, R201: Copies slices from this tile's local store to another tile or loaf. -/
  | copyTt (i : Issue)
  /-- COPY_COMPLETE, R172: A copy's slices have landed and are visible; its queue entry frees and its completion signal is sent. -/
  | copyComplete (t : Nat) (k : Nat) (hw : Hw)
  /-- GATHER, R173: Hands a gather descriptor to the collectives engine to fetch and widen shards. -/
  | gather (i : Issue)
  /-- GATHER_COMPLETE, R316: A GATHER completes, writing the stamped version and sending its completion signal. -/
  | gatherComplete (op : Nat)
  /-- DEFERRED_FAULT, R157: A fault detected after its instruction issued is recorded against its PC and halts the stream. -/
  | deferredFault (t : Nat)
  /-- BREW_OPEN, R174: Opens a brew or raises the nesting depth, setting the resume point at depth 0. -/
  | brewOpen (i : Issue)
  /-- BREW_POUR, R215: Lowers the depth, or at depth 1 runs the check, lock and record phases of a pour. -/
  | brewPour (i : Issue)
  /-- BREW_ABORT, R174: Spills the open brew with code 6 and a user code. -/
  | brewAbort (i : Issue)
  /-- BREW_COMMIT, R217: The COMMIT word is acknowledged; the brew's effects become permanent and held signals are sent. -/
  | brewCommit (t : Nat) (s : StreamId)
  /-- BREW_WRITEBACK_DONE, R215: The last staged line is written home and DONE is written in the journal slot. -/
  | brewWritebackDone (o : BrewOwner)
  /-- BREW_CONFLICT_SPILL, R214: Another agent's write to a brew's line spills the brew with code 1 at the next instruction boundary. -/
  | brewConflictSpill (t : Nat) (s : StreamId)
  /-- BREW_SPILL_TIMEOUT, R373: A brew still open 1 ms after a park or partition change spills with code 4. -/
  | brewSpillTimeout (t : Nat) (s : StreamId)
  /-- CL_ISSUE, R178: Issues a collective operation named by a descriptor. -/
  | clIssue (i : Issue)
  /-- UP_ISSUE, R244: Issues an update of shards named by a descriptor. -/
  | upIssue (i : Issue)
  /-- SIGNAL_ARRIVE, R128: A signal reaches its counter, satisfying waiting WAITs in order. -/
  | signalArrive (k : Nat)
  /-- HEALTH_FLUSH_ARRIVE, R105: A tile's health entry flush is added into the partition's accumulation record. -/
  | healthFlushArrive (t : Nat)
  /-- STEP_CLOSE, R106: A partition step closes; staged changes take effect and the health reduction is issued. -/
  | stepClose (p : Nat)
  /-- BLEND_DECIDE, R110: After the health reduction of a closed step, the blend engine decides each row's format and advances CHAIN. -/
  | blendDecide (p : Nat)
  /-- UPDATE_SHARD_START, R245: With its guard settled and pins at zero, the engine sets TARGET and begins a shard's slice updates. -/
  | updateShardStart (die l : Nat) (dir : Nat) (hw : Hw)
  /-- UPDATE_SLICE_COMMIT, R246: An engine slice brew commits new weights, moments, META and digest. `slot` is the journal slot of the brew. -/
  | updateSliceCommit (die l slot : Nat) (hw : Hw) (lockstep : Bool)
  /-- ENGINE_BREW_RETRY, R226: After 1 µs the engine retries a slice brew that spilled with code 1. -/
  | engineBrewRetry (die l slot : Nat)
  /-- UPDATE_SHARD_COMPLETE, R245: A shard's digest is formed, VERSION set to TARGET and held pins and gathers released. -/
  | updateShardComplete (die l : Nat) (hw : Hw)
  /-- PIN_WAIT, R251: A shard update has waited over 1 s for pins; a crumb is emitted. -/
  | pinWait (die l : Nat)
  /-- GUARD_REDUCE_COMPLETE, R318: The guard partials of every rank arrive and n2 is formed. -/
  | guardReduceComplete (op : Nat)
  /-- DIGEST_EXCHANGE, R253: After the close of step v−1 the engine exchanges a shard's version, digest and CHAIN in its group. -/
  | digestExchange (die l : Nat) (dir : Nat)
  /-- COLLECTIVE_MESSAGE_RECEIVE, R305: A collective message is matched to its local operation and checked for step, tag and shape. `pairErr` holds the
  adder pairs that disagree while its data is reduced, with how often in a row (R327). -/
  | collectiveMessageReceive (port : Nat) (p : Nat) (m : CollMsg) (pairErr : List (Nat × Nat))
  /-- CL_ABORT_RECEIVE, R306: An ABORT message ends the operation with its code. -/
  | clAbortReceive (port : Nat) (p : Nat) (m : CollMsg)
  /-- COLLECTIVE_COMPLETE, R178: A collective ends; its status word is written and its completion signal sent. -/
  | collectiveComplete (op : Nat)
  /-- COLLECTIVE_RESEND, R325: A message lost on a port is resent on another port of the group's path. -/
  | collectiveResend (port : Nat) (k : Nat)
  /-- PEER_LOST_TIMEOUT, R325: No route exists for a lost message within 1 s; the operation ends PEER_LOST or FENCED. -/
  | peerLostTimeout (op : Nat)
  /-- CL_STALL, R324: A VC's head message has been unmatched for 1 s; a crumb is emitted. -/
  | clStall (port : Nat) (vc : Nat) (p : Nat)
  /-- KNEAD_SHARD_MOVE, R322: The last chunk of a SHARD move lands and the destination directory entry takes over the shard. -/
  | kneadShardMove (op : Nat) (move : Nat)
  /-- REFEREE_REPLAY, R341: A referee tile replays a disputed MMA or VX group and the original tile settles by Table 13-5. -/
  | refereeReplay (t : Nat) (result : List (Nat × Int)) (selfFail : Bool)
  /-- REFEREE_WAIT_TIMEOUT, R340: No referee array is released within 1 ms; the event is settled as a second referee failure. -/
  | refereeWaitTimeout (t : Nat)
  /-- BENCH_MOVE, R26: After containment of a C2 event, a fenced tile's logical tile moves onto a bench tile, or the tile becomes absent. -/
  | benchMove (die m : Nat)
  /-- ROTATION_MIGRATION, R344: At a tile step boundary, logical tile NEXT migrates onto the oldest bench tile and the vacated tile starts proving. -/
  | rotationMigration (die : Nat)
  /-- MIGRATION_SKIP, R29: Migration conditions are not met within 1 ms of the boundary; the migration is skipped. -/
  | migrationSkip (die : Nat)
  /-- MIGRATION_COMPLETE, R30: A migration's state copy finishes, the map entry switches and held deliveries are released. -/
  | migrationComplete (t : Nat) (tallyOk : Bool)
  /-- PROVING_SEGMENT_END, R345: A proving segment's duration expires and its output signature is compared. -/
  | provingSegmentEnd (die m : Nat) (signature : BitVec 64) (dmPassed : Nat) (fault : Option (Nat))
  /-- PROVING_RUN_END, R346: A proving run ends with an outcome of Table 13-7. -/
  | provingRunEnd (die m : Nat)
  /-- OVEN_TARGET_REACHED, R347: The oven pattern raises the tile to its target temperature and the segment's pattern starts. -/
  | ovenTargetReached (die m : Nat) (dt : Nat)
  /-- WINDOW_PROVE, R348: At a tile step boundary, a die without rotation holds a tile's streams and runs the window schedule. -/
  | windowProve (die : Nat) (sigs : List (BitVec 64)) (fault : Option Nat)
  /-- LOCALISATION_RUN, R65: A localisation run names the faulty array line of an out-of-service tile. -/
  | localisationRun (die m : Nat) (row col : Option Nat)
  /-- FUSE_WRITTEN, R67: Programming of a field-fuse record completes. -/
  | fuseWritten (die i : Nat)
  /-- LINK_MARGIN_CHECK, R349: The 10-minute non-destructive margining of a lane compares its eye with its training value. -/
  | linkMarginCheck (u : UnitId) (eye trainEye : Nat)
  /-- TILE_SELF_TEST, R68: The array self-test of a die's tiles completes; failing tiles are fenced. -/
  | tileSelfTest (die : Nat) (failing : List Nat)
  /-- TILE_RELEASE, R41: Firmware maps healthy tiles, creates bench loaves and releases the die's tiles. -/
  | tileRelease (die : Nat)
  /-- SCRUB_LINE, R204: The patrol scrub reads, corrects and writes back the next line of a stack. -/
  | scrubLine (stack : Nat) (badSymbols : Nat)
  /-- ROW_REPAIR, R205: Firmware applies soft post-package repair to a DRAM row, holding its bank. -/
  | rowRepair (stack row : Nat) (uncorr : List Nat)
  /-- PITCH_APPLY, R191: With no access in flight, the memory controller applies a granule's new pitch. -/
  | pitchApply (stack g : Nat)
  /-- HOST_COMPLETION_RECEIVE, R195: A PCIe completion for a host-window read arrives. -/
  | hostCompletionReceive (p : HostPort) (tag : Nat) (ok : Bool) (data : List Byte)
  /-- HOST_DMA_TIMEOUT, R195: A host-window read sees no completion within 10 ms; the copy ends with MEM_UNCORR. -/
  | hostDmaTimeout (p : HostPort) (tag : Nat)
  /-- BOARD_REQUEST_RECEIVE, R193: A remote board-address request is applied or refused. -/
  | boardRequestReceive (port : Nat) (r : BoardReq)
  /-- BOARD_RESPONSE_RECEIVE, R193: A board-address response or refusal returns to the issuing copy. -/
  | boardResponseReceive (port : Nat) (tag : Nat) (refused : Bool) (data : List Byte)
  /-- BOARD_NO_ROUTE, R290: No port of a board route becomes ACTIVE within 300 ms; the copy ends with MEM_UNCORR. -/
  | boardNoRoute (tag : Nat)
  /-- FLIT_TRANSMIT, R269: The transmitter fills a flit slot by resend, NAK, DATA round-robin or IDLE. -/
  | flitTransmit (n : Nat)
  /-- FLIT_DATA_RECEIVE, R266: A DATA flit is checked, accepted in sequence and delivered toward its engine. -/
  | flitDataReceive (n : Nat) (f : Flit)
  /-- FLIT_IDLE_RECEIVE, R264: An IDLE flit delivers its acknowledgement and credit return. -/
  | flitIdleReceive (n : Nat) (f : Flit)
  /-- FLIT_HELLO_RECEIVE, R277: A HELLO flit is recorded and drives discovery or resumption. -/
  | flitHelloReceive (n : Nat) (f : Flit)
  /-- FLIT_NAK_RECEIVE, R271: A NAK rewinds the transmitter to resend every held flit after ACK. -/
  | flitNakReceive (n : Nat) (f : Flit) (lanes : List LaneStat) (codewords : List Nat)
  /-- FLIT_DARK_RECEIVE, R288: A DARK flit from the peer starts the dark procedure on the port. -/
  | flitDarkReceive (n : Nat) (f : Flit)
  /-- NAK_REPEAT, R271: After 10 µs without the expected SEQ the receiver repeats its NAK. -/
  | nakRepeat (n : Nat)
  /-- ACK_TIMER, R271: 0.5 µs elapse and the receiver sends an acknowledgement. -/
  | ackTimer (n : Nat)
  /-- HELLO_TIMER, R277: The 10 µs or 1 ms HELLO interval expires and a HELLO is sent. -/
  | helloTimer (n : Nat)
  /-- HELLO_TIMEOUT, R276: No valid HELLO within 100 ms of training; the port trains again or goes DOWN. -/
  | helloTimeout (n : Nat)
  /-- TRAINING_COMPLETE, R276: A port's lane training completes and HELLO exchange begins. -/
  | trainingComplete (n : Nat) (signal ok : Bool) (lanesOk : BitVec 4)
  /-- DOWN_RETRY_TIMER, R276: Every 10 s firmware retries a DOWN port. -/
  | downRetryTimer (n : Nat)
  /-- LANE_EVAL_WINDOW, R282: At the end of a 1 s window firmware judges each lane of an ACTIVE port. -/
  | laneEvalWindow (n : Nat) (lanes : List LaneStat) (codewords : List Nat)
  /-- LANE_LOSS_OF_LOCK, R282: A lane loses lock and is acted on at once. -/
  | laneLossOfLock (n lane : Nat)
  /-- RETRAIN_COMPLETE, R283: Stored-equalisation retraining completes and the port resumes. -/
  | retrainComplete (n : Nat) (signal ok : Bool) (lanesOk : BitVec 4)
  /-- LINK_LOSS, R286: Every lane loses lock; the port holds in RETRAIN for 300 ms. -/
  | linkLoss (n : Nat)
  /-- LINK_HOLD_EXPIRY, R287: The 300 ms hold expires; the port goes DOWN and its messages are reported lost. -/
  | linkHoldExpiry (n : Nat)
  /-- DARK, R288: Message that quiesces named ports for a planned dark period. -/
  | dark (h : MsgHdr) (mask : Word)
  /-- DARK_ENTERED, R288: Both DARK flits are exchanged and the port enters DARK. -/
  | darkEntered (n : Nat)
  /-- RELIGHT, R288: Message that retrains named dark ports. -/
  | relight (h : MsgHdr) (mask : Word)
  /-- PEER_TRAINING_SIGNAL, R288: A training signal from the peer relights a dark port. -/
  | peerTrainingSignal (n : Nat)
  /-- DARK_TIMEOUT, R289: A port stays DARK beyond DARK_MAX and goes DOWN. -/
  | darkTimeout (n : Nat)
  /-- LINK_QUALITY, R331: An hourly check finds a port's flit failure ratio above 10^-12. -/
  | linkQuality (n : Nat)
  /-- ANCHOR_LOSS_OF_LOCK, R427: The anchor port loses lock; the fabric reference holds over and falls back to local. -/
  | anchorLossOfLock (n : Nat)
  /-- D2D_FRAME_RECEIVE, R415: A Hyirdan frame is checked and accepted in sequence, or NAKed. -/
  | d2dFrameReceive (die k : Nat) (f : Frame)
  /-- D2D_NAK_RECEIVE, R415: A module transmitter goes back N from the last acknowledged frame. -/
  | d2dNakReceive (die k : Nat) (ack : Nat)
  /-- D2D_RETRAIN, R416: A module retrains after CRC failures or loss of lock, repairing or narrowing lanes. -/
  | d2dRetrain (die k : Nat) (txFail rxFail : List Nat)
  /-- LEASE_RENEW, R379: Reloads the lease countdown of the named partitions. -/
  | leaseRenew (h : MsgHdr) (mask : Byte)
  /-- LEASE_RELEASE, R379: The owner gives up its partitions, which become ORPHAN. -/
  | leaseRelease (h : MsgHdr) (mask : Byte)
  /-- LEASE_EXPIRY, R379: LEASE_LEFT reaches 0; the partition becomes ORPHAN and its policy applies. -/
  | leaseExpiry (p : Nat)
  /-- ORPHAN_STALL_TIMEOUT, R379: An orphaned stream completes no STEP for 60 s and stops at its next safe point. -/
  | orphanStallTimeout (t : Nat) (s : StreamId)
  /-- START, R372: Starts a program on a stream of every member tile of a loaf. -/
  | start (h : MsgHdr) (loaf : BitVec 16) (s : StreamId) (entry : BitVec 48) (step : BitVec 32)
  /-- STOP, R373: Ends the named streams of every member tile at the next instruction boundary. -/
  | stop (h : MsgHdr) (loaf : BitVec 16) (streams : BitVec 3)
  /-- PARK, R373: Stops every stream of the partition at its safe point. -/
  | park (h : MsgHdr)
  /-- IDLE_CLEAR, R142: Clears the idle counters of a loaf's tiles at a named step boundary. -/
  | idleClear (h : MsgHdr) (loaf : BitVec 16) (step : BitVec 32)
  /-- PIN_CLEAR, R162: Sets the pin counts of named shards to 0. -/
  | pinClear (h : MsgHdr) (tensor : BitVec 20) (first : BitVec 32) (count : Nat)
  /-- PART_SET, R375: Sets a partition's owner, orphan policy, lease, board mask and quota. -/
  | partSet (h : MsgHdr) (a : PartSetArgs)
  /-- PART_ADD, R377: Adds tiles, granules and port pairs to a partition. -/
  | partAdd (h : MsgHdr) (change : BitVec 32) (tiles : List Nat) (grans : List GranSpec) (pairs : BitVec 32)
  /-- PART_REMOVE, R376: Removes tiles, granules and port pairs from a partition, each switching at its safe point. -/
  | partRemove (h : MsgHdr) (change : BitVec 32) (tiles : List Nat) (grans : List GranSpec) (pairs : BitVec 32)
  /-- PART_UNIT_SWITCH, R376: A unit reaches its safe point and switches owner. -/
  | partUnitSwitch (p : Nat) (u : PartUnit)
  /-- PITCH_SET, R191: Sets a granule's pitch code. -/
  | pitchSet (h : MsgHdr) (stack g : Nat) (code : BitVec 4)
  /-- LOAF_WRITE, R35: Validates and writes loaf descriptors, allocating continuations. -/
  | loafWrite (h : MsgHdr) (entries : List LoafArg)
  /-- LOAF_DELETE, R35: Deletes a loaf descriptor and frees its continuations. -/
  | loafDelete (h : MsgHdr) (index : Nat)
  /-- HWIN_WRITE, R194: Writes a host window descriptor. -/
  | hwinWrite (h : MsgHdr) (w : Nat) (w0 w1 : Word)
  /-- BAR2_MAP, R363: Maps a BAR2 segment to partition memory. -/
  | bar2Map (h : MsgHdr) (k : Nat) (word : Word)
  /-- JBASE_WRITE, R224: Sets a partition's brew journal region. -/
  | jbaseWrite (h : MsgHdr) (word : Word)
  /-- SLOT_WRITE, R103: Stages health slot map entries. -/
  | slotWrite (h : MsgHdr) (entries : List (Nat × BitVec 32))
  /-- ROW_WRITE, R109: Stages blend row thresholds. -/
  | rowWrite (h : MsgHdr) (rows : List (Nat × BitVec 256))
  /-- PCTRL_WRITE, R108: Stages BLD_PCTRL for a partition. -/
  | pctrlWrite (h : MsgHdr) (word : Word)
  /-- SHARD_DEFINE, R236: Defines or changes a shard directory entry. -/
  | shardDefine (h : MsgHdr) (die l entry : Nat) (w0 w1 w2 w3 w4 w7 : Word)
  /-- SHARD_DELETE, R236: Deletes a shard directory entry. -/
  | shardDelete (h : MsgHdr) (die l entry : Nat)
  /-- ROLLBACK, R255: Copies each slice's crust back into its weights and resets the shard's version. -/
  | rollback (h : MsgHdr) (tensor : BitVec 20) (shards : List (BitVec 32))
  /-- DIGCTRL_WRITE, R254: Stages the digest interval D and ACTION. -/
  | digctrlWrite (h : MsgHdr) (d : BitVec 16) (action : Bool)
  /-- JOB_START, R374: Writes the job seed, validates the map and programs, and loads the job. -/
  | jobStart (h : MsgHdr) (map : BitVec 48) (seed : Word) (regions : List Region)
  /-- JOB_END, R371: Unloads the partition's job. -/
  | jobEnd (h : MsgHdr)
  /-- MAP_STAGE, R300: Stages a new job map with an effective step. -/
  | mapStage (h : MsgHdr) (map : BitVec 48)
  /-- GROUP_WRITE, R301: Stages a group's CUTS mask. -/
  | groupWrite (h : MsgHdr) (g : Nat) (valid : Bool) (cuts : BitVec 5)
  /-- PLAN_WRITE, R278: Writes a port's planned peer. -/
  | planWrite (h : MsgHdr) (port : Nat) (w0 w1 : Word)
  /-- PLANCTL_WRITE, R278: Writes a partition's plan control. -/
  | planctlWrite (h : MsgHdr) (word : Word)
  /-- BROUTE_WRITE, R290: Writes the board route mask for a package index. -/
  | brouteWrite (h : MsgHdr) (index : Nat) (mask : Word)
  /-- PORT_CNT_CLEAR, R274: Clears every counter of the named ports in one LCLK cycle. -/
  | portCntClear (h : MsgHdr) (mask : Word)
  /-- PORT_RESET, R276: Fully retrains the named ports and restores anchor reference. -/
  | portReset (h : MsgHdr) (mask : Word)
  /-- PORT_UNFENCE, R306: Unfences the named logical ports for the partition. -/
  | portUnfence (h : MsgHdr) (mask : Word)
  /-- PROVING_CTRL, R349: Sets ROT_EN, WINDOW_EN and OVEN_MAX of a die. -/
  | provingCtrl (h : MsgHdr) (die : Nat) (rotEn windowEn : Bool) (ovenMax : BitVec 8)
  /-- MAINTENANCE_ENTER, R349: Puts an unowned stack into maintenance mode for destructive margin tests. -/
  | maintenanceEnter (h : MsgHdr) (stack : Nat)
  /-- MAINTENANCE_LEAVE, R349: Returns a stack from maintenance mode. -/
  | maintenanceLeave (h : MsgHdr) (stack : Nat)
  /-- PACK_OFFER, R358: Opens a starter-pack transfer with its length and hash. -/
  | packOffer (h : MsgHdr) (xfer : BitVec 32) (len : BitVec 32) (hash : BitVec 256)
  /-- PACK_CHUNK, R358: Carries up to 1,024 bytes of a starter pack. -/
  | packChunk (h : MsgHdr) (xfer off : BitVec 32) (bytes : List Byte)
  /-- PACK_DONE, R356: Ends a pack transfer; the pack is checked and accepted or refused. -/
  | packDone (h : MsgHdr) (xfer : BitVec 32)
  /-- CHALLENGE, R401: Returns a management nonce. -/
  | challenge (h : MsgHdr)
  /-- NONCE_EXPIRY, R401: A nonce reaches 60 s and becomes invalid. -/
  | nonceExpiry (k : Nat)
  /-- IDENTITY, R402: Returns the revision, serial, identity, boot, fuse and slot values. -/
  | identity (h : MsgHdr)
  /-- MR_READ, R396: Returns the measurement registers and optionally log entries. -/
  | mrRead (h : MsgHdr) (log : Bool) (fromCtr : BitVec 32)
  /-- MR_EXTEND, R396: Extends MR6 or MR7 with a digest. -/
  | mrExtend (h : MsgHdr) (reg : Nat) (digest : BitVec 256)
  /-- ATTEST, R400: Signs and returns a quote over a nonce and measurements. -/
  | attest (h : MsgHdr) (nonce : BitVec 256) (mask : Byte)
  /-- CERT_READ, R398: Returns an epoch's certificate. -/
  | certRead (h : MsgHdr) (epoch : Nat)
  /-- CONFIG_WRITE, R391: Checks a configuration block and writes it over the older copy. -/
  | configWrite (h : MsgHdr) (block : List Byte)
  /-- ENROLL_OWNER, R394: Fuses the hash of the owner public key. -/
  | enrollOwner (h : MsgHdr)
  /-- KEY_REVOKE, R393: Permanently revokes a vendor key slot. -/
  | keyRevoke (h : MsgHdr) (k : Nat) (signer : Nat) (pub stmt sig : List Byte)
  /-- IMAGE_OFFER, R403: Opens a firmware image transfer into the inactive slot. -/
  | imageOffer (h : MsgHdr) (xfer : BitVec 32) (len : BitVec 32) (hash : BitVec 256)
  /-- IMAGE_CHUNK, R403: Carries a chunk of a firmware image. -/
  | imageChunk (h : MsgHdr) (xfer off : BitVec 32) (bytes : List Byte)
  /-- IMAGE_DONE, R403: Ends an image transfer; the image is verified and written to the inactive slot. -/
  | imageDone (h : MsgHdr) (xfer : BitVec 32)
  /-- HANDOFF, R404: Starts a live firmware update: the old image writes the handoff record and the ROM starts the new image. -/
  | handoff (h : MsgHdr)
  /-- HANDOFF_ACCEPT, R406: The new image accepts or refuses the handoff record. -/
  | handoffAccept (knownSections : List Nat) (crcOk : Bool)
  /-- DEVICE_SLOT_RETURN, R367: The host returns a device-to-host slot and a queued event may fill it. -/
  | deviceSlotReturn (p : HostPort) (slot : Nat)
  /-- EVT_NEXT, R370: Moves the oldest queued event into the emulated event area. -/
  | evtNext (p : HostPort)
  /-- APERTURE_READ, R362: Reads a register through the BAR0 aperture, waiting out a migration. -/
  | apertureRead (p : HostPort) (off : BitVec 23) (bytes : Nat)
  /-- APERTURE_WRITE, R362: An aperture write is ignored and counted in AP_WR. -/
  | apertureWrite (p : HostPort) (off : BitVec 23)
  /-- BAR2_READ, R363: Host read through a BAR2 segment, checked for mapping and ownership. -/
  | bar2Read (p : HostPort) (off : BitVec 39) (len : Nat)
  /-- BAR2_WRITE, R363: Host write through a BAR2 segment, checked for mapping and ownership. -/
  | bar2Write (p : HostPort) (off : BitVec 39) (bytes : List Byte)
  /-- PCIE_CONFIG_REQUEST, R359: A configuration request to a host port, answered with retry status before readiness. -/
  | pcieConfigRequest (p : HostPort) (write : Option (BitVec 32)) (reg : BitVec 12)
  /-- FLR, R380: Function Level Reset returns a port's state to reset values and orphans its partitions. -/
  | flr (p : HostPort)
  /-- HOT_RESET, R379: A hot reset of a host port loses its partitions' owner. -/
  | hotReset (p : HostPort)
  /-- HOST_LINK_DOWN, R379: A host port goes to DL_Down and its partitions become ORPHAN. -/
  | hostLinkDown (p : HostPort)
  /-- REGISTER_WRITE, R5: Write to a register field that has no behaviour of its own. -/
  | registerWrite (r : RegTarget) (val : Word)
  /-- CRUMB_FETCH, R354: A collector's UDP fetch request is answered with crumbs from the ring. -/
  | crumbFetch (first : Word) (count : Nat)
  /-- CRUMB_READ, R462: An I3C read of the CRUMB index removes the head crumb once fully read. -/
  | crumbRead (bytes : Nat)
  /-- CRUMB_COALESCE_WINDOW, R352: A one-second coalescing window ends and a crumb with REPEAT is sent. -/
  | crumbCoalesceWindow (syn : Nat) (u : UnitId)
  /-- ERROR_RECORD_HANDLE, R337: Firmware takes the next record from the IOD error queue and handles it. -/
  | errorRecordHandle (fatal : Bool)
  /-- ENTDAA, R461: I3C CCC assigning a dynamic address. -/
  | entdaa (addr : BitVec 7)
  /-- SETDASA, R461: I3C CCC setting the dynamic address from the static address. -/
  | setdasa (addr : BitVec 7)
  /-- ENEC, R461: I3C CCC enabling target events such as IBI. -/
  | enec (events : Byte)
  /-- DISEC, R461: I3C CCC disabling target events. -/
  | disec (events : Byte)
  /-- DEEP_EXIT_COMPLETE, R434: PLLs relock, modules retrain, stacks leave self-refresh, self-test reruns and ports relight. -/
  | deepExitComplete (failing : List (Nat × Nat))
  /-- JOURNAL_REPLAY, R229: After a warm reset firmware replays every committed, unfinished journal record. -/
  | journalReplay (unreadable : List Nat)
  /-- PKG_RST_N_DEASSERT, R383: PKG_RST_N deasserts with rails good and cold boot begins. -/
  | pkgRstNDeassert (slot : BitVec 3) (unstable : Bool)
  /-- FIRST_STAGE_START, R389: The ROM verifies an image slot and starts its first stage. -/
  | firstStageStart (flashErrA flashErrB : Bool) (failed : List Nat)
  /-- PERST_ASSERT, R384: PERST# of a host port asserted holds that port in reset. -/
  | perstAssert (p : HostPort)
  /-- PERST_DEASSERT, R426: PERST# deasserts; the port measures REFCLK, chooses clocking and trains. -/
  | perstDeassert (p : HostPort) (refKHz : Option Nat)
  /-- BOARD_SLOT_CHANGE, R458: A BOARD_SLOT level changes, marking the sample unstable or changing the I3C address. -/
  | boardSlotChange (level : BitVec 3) (near : Bool)
  /-- INPUT_CHATTER, R457: More than 16 edges in 1 ms latch an input's chatter flag. -/
  | inputChatter (i : HardIn)
  /-- CHATTER_RELEASED, R457: An input has been quiet for 100 ms and deasserted, and its releasing agent clears the flag. -/
  | chatterReleased (i : HardIn)
  /-- THROTTLE_RELEASE, R439: THROTTLE_N released lets the rails rise under the power loop. -/
  | throttleRelease (heldMs : Nat)
  /-- VIN_LOW_END, R450: VIN has stayed at or above 5.75 V for 1 ms and VIN_LOW ends. -/
  | vinLowEnd (heldMs : Nat)
  /-- RAIL_RESET, R449: VIN low, VIN high, VAUX out of range or VIN overcurrent forces a cold reset. -/
  | railReset (cause : RailCause)
  /-- POWER_LOOP_STEP, R437: Every 20 µs the power controller lowers or raises all column rails. -/
  | powerLoopStep (mean1ms mean100us : Nat)
  /-- THERMAL_PACE_STEP, R438: Every 100 µs a hot tile's trim, or its column rail, is lowered 5 mV. -/
  | thermalPaceStep (die m tj : Nat)
  /-- THERMAL_WITHDRAW_STEP, R438: Every 1 ms a cooled column's thermal offset, then a tile's trim, is withdrawn 5 mV. -/
  | thermalWithdrawStep (die col : Nat) (tjs : List (Nat × Nat))
  /-- PWR_THERMTRIP, R438: A tile reads 98 °C or more; C3 and THERMTRIP_N asserted. -/
  | pwrThermtrip (die m tj : Nat)
  /-- THERMAL_SHUTDOWN, R459: With VIN still on after thermtrip, a tile reads 105 °C and every VIN-fed regulator switches off. -/
  | thermalShutdown (die m tj : Nat)
  /-- OE_HOT, R469: An optical engine reads 85 °C or more. -/
  | oeHot (k temp : Nat)
  /-- TELEM_UPDATE, R451: PWR_TELEM is updated with 1 ms means. -/
  | telemUpdate (vinMv vinDa vauxMv vauxMa pinW : Nat)
  /-- LASER_LIT, R467: A laser input stays at or above +16.0 dBm for 10 ms and is declared lit. -/
  | laserLit (k input : Nat) (power : Int)
  /-- LASER_DARK, R467: A laser input stays below +15.0 dBm for 10 µs; both its ports go DOWN NO_LIGHT. -/
  | laserDark (k input : Nat) (power : Int)
  /-- CRYSTAL_EDGE_MISSING, R423: 16 RC cycles pass without a crystal edge and the judge restarts its count. -/
  | crystalEdgeMissing (rcCycles : Nat)
  /-- CRYSTAL_STABLE, R423: 131,072 crystal cycles fall within tolerance and the crystal is judged stable. -/
  | crystalStable (rcCycles : Nat)
  /-- PLL_LOCK, R425: The IOD reference PLL or a compute die PLL locks and its clocks start. -/
  | pllLock (pll : Nat)
  /-- CLK_PLL_UNLOCK, R430: A compute die PLL or the IOD reference PLL loses lock. -/
  | clkPllUnlock (pll : Nat)
  /-- REFERENCE_TICK, R140: Each 10 ns die-reference tick charges idle and wait counters by cause, accrues PACE fractions and advances REFTICK. -/
  | referenceTick (die : Nat)
  /-- ILLEGAL, R150: An instruction word whose opcode is not defined reaches issue and raises ILLEGAL, halting the stream. -/
  | illegal (i : Issue) (opcode : Byte)
  /-- BAD_TYPE, R368: A host or management request whose TYPE is not in Table 14-10 is answered with status BAD_TYPE and takes no effect. -/
  | badType (h : MsgHdr) (type : BitVec 16)
  /-- HOST_LINK_UP, R359: A host port's PCIe link completes training at x16, x8 or x4, setting its clocking and width status and emitting HOST_WIDTH when narrower. -/
  | hostLinkUp (p : HostPort) (width : Nat)
  /-- CLOCK_GATE, R431: A gateable unit with RUN_EN set is clock-gated after 1 µs without work and reports it in PWR_GATE.NOW. -/
  | clockGate (die unit : Nat)
  /-- AUTO_NEGOTIATION, R460: Clause 37 auto-negotiation on the management Ethernet port completes and the port runs 1000BASE-X or SGMII according to the partner's answer. -/
  | autoNegotiation (sgmii : Bool)
  /-- TCK, R465: A TCK edge advances the IEEE 1149.1 TAP, shifting instruction, IDCODE or boundary-scan data. -/
  | tck (tms tdi : Bool)
  /-- PACK_ACK_TIMER, R358: 10 ms pass during a transfer and the package sends an ACK. -/
  | packAckTimer
  /-- PACK_TRANSFER_TIMEOUT, R356: No chunk arrives for 10 s; the transfer is refused TIMEOUT. -/
  | packTransferTimeout
  /-- HANDOFF_TIMEOUT, R405: No acceptance by 150 ms; the ROM restarts the old image. -/
  | handoffTimeout
  /-- IBI_REPEAT, R461: 100 ms after the last crumb read with the FIFO non-empty, the target raises another IBI. -/
  | ibiRepeat
  /-- CRUMB_FLASH_WRITE, R352: Every 20 ms firmware writes the next queued crumb to the flash ring. -/
  | crumbFlashWrite
  /-- RSTDAA, R461: I3C CCC resetting the dynamic address. -/
  | rstdaa
  /-- GETPID, R461: I3C CCC returning the provisioned ID. -/
  | getpid
  /-- GETBCR, R461: I3C CCC returning the BCR. -/
  | getbcr
  /-- GETDCR, R461: I3C CCC returning the DCR. -/
  | getdcr
  /-- GETSTATUS, R461: I3C CCC returning target status. -/
  | getstatus
  /-- GETMXDS, R461: I3C CCC returning maximum data speed. -/
  | getmxds
  /-- ALERT_RESPONSE, R461: A read of the SMBus Alert Response Address returns the static address. -/
  | alertResponse
  /-- SLEEP, R433: I3C command requesting sleep; new copies and operations stop issuing. -/
  | sleep
  /-- SLEEP_ENTRY, R433: Once no write-back, update or operation remains and arrays are idle, streams freeze and the package sleeps. -/
  | sleepEntry
  /-- SLEEP_ABANDON, R433: Sleep conditions do not hold within 100 ms; the request is abandoned. -/
  | sleepAbandon
  /-- DEEP, R434: I3C command requesting deep sleep; every partition is parked. -/
  | deep
  /-- DEEP_ENTRY, R434: Conditions met, health tables flush, ports go dark and units power off. -/
  | deepEntry
  /-- DEEP_ABANDON, R434: Deep sleep conditions do not hold within 1 s; the request is abandoned. -/
  | deepAbandon
  /-- WAKE, R434: I3C command leaving sleep or running the deep-sleep exit. -/
  | wake
  /-- WARM_RESET, R444: I3C command running the warm reset sequence. -/
  | warmReset
  /-- MANAGEMENT_WATCHDOG, R442: Firmware fails to serve the watchdog for 2 s and a warm reset runs. -/
  | managementWatchdog
  /-- COLD_RESET, R443: I3C command causing a cold reset. -/
  | coldReset
  /-- VAUX_POWER_ON, R442: VAUX power-on resets the package cold and starts the RC oscillator. -/
  | vauxPowerOn
  /-- PKG_RST_N_ASSERT, R442: PKG_RST_N asserted holds the package in cold reset. -/
  | pkgRstNAssert
  /-- RAILS_GOOD, R448: Both rails have stayed in range for 10 ms and a held boot starts. -/
  | railsGood
  /-- FIRMWARE_READY, R383: Firmware sets READY on both ports and STAGE 3. -/
  | firmwareReady
  /-- TRST_N_ASSERT, R457: TRST_N asserted puts the TAP in Test-Logic-Reset. -/
  | trstNAssert
  /-- THROTTLE_ASSERT, R439: THROTTLE_N asserted brings every column rail to 0.60 V. -/
  | throttleAssert
  /-- THROTTLE_HELD_TIMER, R439: THROTTLE_N has been held 1 s; PWR_THROTTLE_HELD is emitted. -/
  | throttleHeldTimer
  /-- VIN_LOW, R450: VIN below 5.70 V for 10 µs starts VIN_LOW pacing. -/
  | vinLow
  /-- OVERCURRENT_CLAMP, R437: VIN current over 440 A for 5 µs brings every rail to 0.60 V. -/
  | overcurrentClamp
  /-- OVERCURRENT_HOLD_END, R437: The 100 µs overcurrent hold ends and the power loop resumes. -/
  | overcurrentHoldEnd
  /-- PACE_WINDOW, R441: A 10 s window ends; PWR_PACE_SUSTAINED is emitted if limit pacing held for over half of it. -/
  | paceWindow
  /-- CLK_XTAL_FAIL, R424: The judge reaches its 50 ms count without a stable result; the package runs on the RC oscillator. -/
  | clkXtalFail
  /-- CLK_XTAL_LOST, R430: A running crystal's edges are missing for 1 µs; the PLL holds over and the event is C3. -/
  | clkXtalLost
  /-- HOLDOVER_END, R430: Crystal hold-over of 10 ms ends and unanchored fabric ports go DOWN. -/
  | holdoverEnd
  deriving DecidableEq, Repr

end Sys2Proof
end

