-- ==== Sys2Proof/Decode.lean ====
section
/-! DEFINITION. The 128-bit instruction word (R148, Tables 07-1 and 07-2) and the command each OPCODE byte names; and the command a table word spells:
opcode_table.json gives no row any bits, so no table word spells one. -/

namespace Sys2Proof

/-- The fields of an instruction word but its OPCODE (Table 07-1). -/
def wordFields (w : BitVec 128) : IWord :=
  { func := w.extractLsb' 8 4, guard := w.extractLsb' 12 3, gneg := w.getLsbD 15, dst := w.extractLsb' 16 8, srca := w.extractLsb' 24 8
    srcb := w.extractLsb' 32 8, imm := w.extractLsb' 40 24, ext := w.extractLsb' 64 64 }

/-- The word that holds an OPCODE and these fields. -/
def wordOf (op : BitVec 8) (f : IWord) : BitVec 128 :=
  f.ext ++ f.imm ++ f.srcb ++ f.srca ++ f.dst ++ BitVec.ofBool f.gneg ++ f.guard ++ f.func ++ op

/-- The command of an OPCODE byte (the opcode tables of chapter 07); none where the byte is not defined, which is ILLEGAL at issue (R150). -/
def opcodeCommand (op : Nat) (i : Issue) : Option Instr :=
  match op with
  | 0x00 => some (.nop i) | 0x01 => some (.end_ i) | 0x02 => some (.br i) | 0x03 => some (.brdec i) | 0x04 => some (.ldi i) | 0x05 => some (.salu i)
  | 0x06 => some (.scmp i) | 0x07 => some (.plog i) | 0x08 => some (.sget i) | 0x09 => some (.sld i) | 0x0A => some (.sst i) | 0x0B => some (.braidSet i)
  | 0x10 => some (.wait i) | 0x11 => some (.waitPeek i) | 0x12 => some (.signal i) | 0x13 => some (.signalSet i) | 0x14 => some (.pin i)
  | 0x15 => some (.unpin i) | 0x16 => some (.step i) | 0x17 => some (.fence i)
  | 0x20 => some (.mmaF i) | 0x21 => some (.mmaX i) | 0x22 => some (.accZero i) | 0x23 => some (.accOut i) | 0x24 => some (.accMerge i)
  | 0x25 => some (.accAcq i) | 0x26 => some (.accRel i) | 0x27 => some (.expscan i)
  | 0x30 => some (.vfp i) | 0x31 => some (.vfma i) | 0x32 => some (.vfun i) | 0x33 => some (.vint i) | 0x34 => some (.vcmp i) | 0x35 => some (.vsel i)
  | 0x36 => some (.vbcast i) | 0x37 => some (.viota i) | 0x38 => some (.vext i) | 0x39 => some (.vred i) | 0x3A => some (.vcvt i) | 0x3B => some (.vld i)
  | 0x3C => some (.vst i) | 0x3D => some (.vlds i) | 0x3E => some (.vsts i)
  | 0x60 => some (.copyIn i) | 0x61 => some (.copyOut i) | 0x62 => some (.copyTt i) | 0x63 => some (.gather i)
  | 0x70 => some (.brewOpen i) | 0x71 => some (.brewPour i) | 0x72 => some (.brewAbort i) | 0x80 => some (.clIssue i) | 0x90 => some (.upIssue i)
  | _ => none

/-- The command that an instruction word is as it reaches issue on a stream of a tile. -/
def decodeWord (tile : Nat) (st : StreamId) (hw : Hw) (w : BitVec 128) : Option Instr :=
  opcodeCommand (w.extractLsb' 0 8).toNat { tile := tile, stream := st, word := wordFields w, hw := hw }

/-- The bytes of a word as memory holds them, lowest address first (R148, R6). -/
def wordBytes (w : BitVec 128) : List (BitVec 8) := (List.range 16).map fun k => w.extractLsb' (8 * k) 8

/-- The command the table's bits spell: the table gives none (log 6). -/
def decodeTableWord (_nbits _w : Nat) : Option Instr := none

end Sys2Proof
end

