-- ==== Sys2Proof/Machine/Bits.lean ====
section
/-! DEFINITION. Byte order (R6), checksums and hashes named by the spec (CRC-32C, CRC-64/ECMA-182, SHA-256), the generator of R79. -/

namespace Sys2Proof.Machine

/-- The number a little-endian byte list holds (R6). -/
def leNat : List Byte → Nat
  | [] => 0
  | b :: bs => b.toNat + 256 * leNat bs

/-- The low `k` bytes of `n`, little-endian. -/
def natLe : Nat → Nat → List Byte
  | 0, _ => []
  | k + 1, n => BitVec.ofNat 8 n :: natLe k (n / 256)

/-- The low `k` bytes of `n`, most significant first. -/
def natBe (k n : Nat) : List Byte := (natLe k n).reverse

/-- `n` bytes of `l` from offset `o`, zero where the list ends. -/
def slice (l : List Byte) (o n : Nat) : List Byte := (List.range n).map fun i => l.getD (o + i) 0

/-- The little-endian number in bytes `o` to `o + n − 1`. -/
def field (l : List Byte) (o n : Nat) : Nat := leNat (slice l o n)

/-- Bits `hi` to `lo` of a number. -/
def bits (n hi lo : Nat) : Nat := (n / 2 ^ lo) % 2 ^ (hi + 1 - lo)

/-- A flag as a number. -/
def b2n (b : Bool) : Nat := if b then 1 else 0

/-- Sign extension of the low `w` bits of `n`. -/
def sext (w n : Nat) : Int := (BitVec.ofNat w n).toInt

/-- The smaller value not above `hi` and not below `lo`. -/
def clampInt (lo hi x : Int) : Int := if x < lo then lo else if hi < x then hi else x

/-- `n` rounded up to a multiple of `k`. -/
def roundUp (n k : Nat) : Nat := (n + k - 1) / k * k

/-- One bit of a reflected 32-bit CRC. -/
def crcBit (poly c : Nat) : Nat := if c % 2 = 1 then (c / 2) ^^^ poly else c / 2

/-- `k` bits of a reflected CRC. -/
def crcBits (poly : Nat) : Nat → Nat → Nat
  | 0, c => c
  | k + 1, c => crcBits poly k (crcBit poly c)

/-- CRC-32C (Castagnoli, reflected polynomial 0x82F63B78, initial and final value all ones). -/
def crc32c (bs : List Byte) : BitVec 32 :=
  BitVec.ofNat 32 ((bs.foldl (fun c b => crcBits 0x82F63B78 8 (c ^^^ b.toNat)) 0xFFFFFFFF) ^^^ 0xFFFFFFFF)

/-- One bit of CRC-64/ECMA-182, most significant bit first. -/
def crc64Bit (c : Nat) : Nat :=
  if 2 ^ 63 ≤ c then (c * 2 % 2 ^ 64) ^^^ 0x42F0E1EBA9EA3693 else c * 2

def crc64Bits : Nat → Nat → Nat
  | 0, c => c
  | k + 1, c => crc64Bits k (crc64Bit c)

/-- CRC-64/ECMA-182 (initial value and final value 0). -/
def crc64 (bs : List Byte) : Word :=
  BitVec.ofNat 64 (bs.foldl (fun c b => crc64Bits 8 (c ^^^ (b.toNat * 2 ^ 56))) 0)

/-- The mixing function of R79. -/
def mix (x : Word) : Word :=
  let x := x ^^^ (x >>> 33)
  let x := x * 0xA3B195E44C2FD1C7
  let x := x ^^^ (x >>> 29)
  let x := x * 0x6E1D2B98F3470A55
  x ^^^ (x >>> 32)

/-- The generator of R79 for a seed, tensor id, step and element index. -/
def gen (seed : Word) (tensor : Nat) (step : BitVec 32) (index : Word) : Word :=
  mix (mix (seed ^^^ mix (BitVec.ofNat 64 (tensor % 2 ^ 20 * 2 ^ 32 + step.toNat))) ^^^ index)

/-- The element index of Table 04-4. -/
def elemIndex (purpose node index : Nat) : Word :=
  BitVec.ofNat 64 (purpose % 16 * 2 ^ 60 + node % 2 ^ 14 * 2 ^ 46 + index % 2 ^ 46)

/-- The 16 bits SR compares (R81). -/
def genTop (seed : Word) (tensor : Nat) (step : BitVec 32) (index : Word) : Nat := (gen seed tensor step index).toNat / 2 ^ 48

/-- The residue of a·2^e modulo 2^31 − 1 (R53). -/
def residue (a e : Int) : Nat :=
  ((a % 2147483647).toNat * 2 ^ ((e % 31).toNat)) % 2147483647

/-! ## SHA-256 (FIPS 180-4)

The standard takes its constants from prime numbers; so does this text. The eight working variables are kept as the last four values of two sequences: the
fresh `a` and the fresh `e` of each round become `b`, `c`, `d` and `f`, `g`, `h` of the rounds that follow. -/

/-- The primes below 312, of which the standard uses 64. -/
def shaPrimes : List Nat := (List.range 312).filter fun n => decide (2 ≤ n) && (List.range 18).all fun d => decide (d < 2 ∨ n ≤ d ∨ n % d ≠ 0)

/-- The largest `r` of at most `b` bits above `r0` with `r ^ k ≤ n`, found bit by bit. -/
def rootFrom (k n : Nat) : Nat → Nat → Nat
  | 0, r0 => r0
  | b + 1, r0 => rootFrom k n b (if (r0 + 2 ^ b) ^ k ≤ n then r0 + 2 ^ b else r0)

/-- The first 32 bits of the fraction of the `k`-th root of `p`. -/
def rootFraction (k p : Nat) : Lane := BitVec.ofNat 32 (rootFrom k (p * 2 ^ (32 * k)) 37 0)

/-- The round constants, from cube roots, and the initial value, from square roots. -/
def shaRounds : List Lane := shaPrimes.map (rootFraction 3)
def shaStart : List Lane := (shaPrimes.take 8).map (rootFraction 2)

/-- The exclusive or of rotations. -/
def rotXor (by_ : List Nat) (x : Lane) : Lane := by_.foldl (fun y n => y ^^^ x.rotateRight n) 0

/-- The hash between rounds: the last four values of each sequence, newest first, and the sixteen schedule words to come. -/
structure ShaSt where
  up    : List Lane
  down  : List Lane
  words : List Lane

/-- One round with its constant; the schedule grows by one word as it is used. -/
def ShaSt.next (h : ShaSt) (k : Lane) : ShaSt :=
  let a := fun i => h.up.getD i 0
  let e := fun i => h.down.getD i 0
  let w := fun i => h.words.getD i 0
  let t := e 3 + rotXor [6, 11, 25] (e 0) + (e 2 ^^^ (e 0 &&& (e 1 ^^^ e 2))) + k + w 0
  let fresh := w 0 + (rotXor [7, 18] (w 1) ^^^ (w 1 >>> 3)) + w 9 + (rotXor [17, 19] (w 14) ^^^ (w 14 >>> 10))
  { up := (t + rotXor [2, 13, 22] (a 0) + ((a 0 &&& a 1) ||| (a 2 &&& (a 0 ||| a 1)))) :: h.up.take 3
    down := (a 3 + t) :: h.down.take 3
    words := h.words.drop 1 ++ [fresh] }

/-- A block of sixteen words is added to the eight words of the hash. -/
def shaAdd (h : List Lane) (words : List Lane) : List Lane :=
  let z := shaRounds.foldl ShaSt.next { up := h.take 4, down := h.drop 4, words := words }
  List.zipWith (· + ·) h (z.up ++ z.down)

/-- The padded message as big-endian words. -/
def shaWords (m : List Byte) : List Lane :=
  let full := roundUp (m.length + 9) 64
  let bytes := m ++ (0x80 : Byte) :: (natBe (full - m.length - 1) (8 * m.length))
  (List.range (full / 4)).map fun i => BitVec.ofNat 32 (leNat (slice bytes (4 * i) 4).reverse)

/-- SHA-256, as a big-endian 256-bit number. -/
def sha256 (m : List Byte) : BitVec 256 :=
  let ws := shaWords m
  let h := (List.range (ws.length / 16)).foldl (fun h i => shaAdd h ((ws.drop (16 * i)).take 16)) shaStart
  BitVec.ofNat 256 (h.foldl (fun n w => n * 2 ^ 32 + w.toNat) 0)

/-- A 256-bit value as 32 bytes, most significant first. -/
def hashBytes (h : BitVec 256) : List Byte := natBe 32 h.toNat

end Sys2Proof.Machine
end

