-- ==== Sys2Proof/Machine/Num.lean ====
section
/-! DEFINITION. Arithmetic reference (chapter 04): element formats, exact values, conversions with one rounding, MX blocks, FP32 operations. -/

namespace Sys2Proof.Machine

/-- An exact value: NaN, an infinity, or (−1)^neg · m · 2^e; zero keeps its sign. -/
inductive Val where
  | nan | inf (neg : Bool) | fin (neg : Bool) (m : Nat) (e : Int)
  deriving DecidableEq, Repr

/-- Element width in bits of format codes 0–10 (Table 04-1). -/
def fmtWidth : Nat → Nat
  | 0 => 32 | 1 => 16 | 2 => 16 | 3 => 8 | 4 => 8 | 5 => 8 | 6 => 8 | 7 => 6 | 8 => 6 | 9 => 4 | 10 => 8 | 11 => 128 | _ => 16

/-- Exponent bits, mantissa bits and bias (Table 04-1); code 10 has none. -/
def fmtParams : Nat → Nat × Nat × Int
  | 0 => (8, 23, 127) | 1 => (8, 7, 127) | 2 => (5, 10, 15) | 3 => (4, 3, 7) | 4 => (5, 2, 15) | 5 => (4, 3, 7) | 6 => (5, 2, 15)
  | 7 => (3, 2, 3) | 8 => (2, 3, 1) | 9 => (2, 1, 1) | _ => (0, 0, 0)

/-- Formats with a block scale (R73). -/
def isMx (f : Nat) : Bool := 5 ≤ f && f ≤ 10

/-- Whether the all-ones exponent holds infinity and NaN. -/
def fmtIeee : Nat → Bool
  | 0 => true | 1 => true | 2 => true | 4 => true | 6 => true | _ => false

/-- The exact value of an element without its scale (R71). -/
def decodeElem (f : Nat) (x : Nat) : Val :=
  if f = 10 then
    let n := sext 8 x
    .fin (decide (n < 0)) n.natAbs (-6)
  else
    let (eb, mb, bias) := fmtParams f
    let neg := decide (bits x (eb + mb) (eb + mb) = 1)
    let ex := bits x (eb + mb - 1) mb
    let mt := x % 2 ^ mb
    if fmtIeee f && decide (ex = 2 ^ eb - 1) then (if mt = 0 then .inf neg else .nan)
    else if (decide (f = 3) || decide (f = 5)) && decide (ex = 2 ^ eb - 1) && decide (mt = 2 ^ mb - 1) then .nan
    else if ex = 0 then .fin neg mt (1 - bias - mb)
    else .fin neg (2 ^ mb + mt) (ex - bias - mb)

/-- Applies an E8M0 block scale (R73). -/
def scaleVal (s : Nat) : Val → Val
  | .fin n m e => if s = 255 then .nan else .fin n m (e + s - 127)
  | v => if s = 255 then .nan else v

/-- floor(log₂ |v|) of a finite non-zero value. -/
def topExp (m : Nat) (e : Int) : Int := (Nat.log2 m : Int) + e

/-- Rounding modes: code 0 RNE, 1 RTZ, 2 SR (R74). -/
inductive Rnd where | rne | rtz | sr
  deriving DecidableEq, Repr

def Rnd.ofCode : Nat → Rnd | 1 => .rtz | 2 => .sr | _ => .rne

/-- m·2^e rounded to a whole number of units 2^q; `r` is the SR comparison value (R74, R81). -/
def roundUnits (md : Rnd) (r : Nat) (m : Nat) (e q : Int) : Nat :=
  if q ≤ e then m * 2 ^ (e - q).toNat
  else
    let sh := (q - e).toNat
    let lo := m / 2 ^ sh
    let rem := m % 2 ^ sh
    match md with
    | .rtz => lo
    | .sr => if r < rem * 65536 / 2 ^ sh then lo + 1 else lo
    | .rne => if 2 * rem < 2 ^ sh then lo else if 2 ^ sh < 2 * rem then lo + 1 else if lo % 2 = 0 then lo else lo + 1

/-- Largest finite magnitude as (m, e) (Table 04-1). -/
def maxFin : Nat → Nat × Int
  | 0 => (2 ^ 24 - 1, 104) | 1 => (255, 120) | 2 => (2047, 5) | 3 => (14, 5) | 4 => (7, 13) | 5 => (14, 5) | 6 => (7, 13)
  | 7 => (7, 2) | 8 => (15, -1) | 9 => (3, 1) | _ => (127, -6)

/-- a·2^x > b·2^y. -/
def magGt (a : Nat) (x : Int) (b : Nat) (y : Int) : Bool :=
  if x ≤ y then decide (b * 2 ^ (y - x).toNat < a) else decide (b < a * 2 ^ (x - y).toNat)

/-- The encoding of k units of 2^q in format `f`. -/
def encodeUnits (f : Nat) (neg : Bool) (k : Nat) (q : Int) : Nat :=
  if f = 10 then (if neg then (256 - k) % 256 else k)
  else
    let (eb, mb, bias) := fmtParams f
    b2n neg * 2 ^ (eb + mb) + (q - (1 - bias - mb)).toNat * 2 ^ mb + k

/-- The encoding of ±max. -/
def encodeMax (f : Nat) (neg : Bool) : Nat :=
  let (m, e) := maxFin f
  if f = 10 then encodeUnits 10 neg 127 (-6)
  else encodeUnits f neg m e

/-- The canonical NaN (R72); MX element formats without NaN never take it. -/
def canonNan : Nat → Nat
  | 0 => 0x7FC00000 | 1 => 0x7FC0 | 2 => 0x7E00 | 3 => 0x7F | 4 => 0x7E | 5 => 0x7F | 6 => 0x7E | _ => 0

/-- The encoding of ±∞; formats without it give NaN (Table 04-2). -/
def encodeInf (f : Nat) (neg : Bool) : Nat :=
  if fmtIeee f then
    let (eb, mb, _) := fmtParams f
    b2n neg * 2 ^ (eb + mb) + (2 ^ eb - 1) * 2 ^ mb
  else canonNan f

/-- Health counters by index of Table 05-1. -/
def hZero : Nat := 1
def hUnder : Nat := 2
def hSat : Nat := 3
def hNonfin : Nat := 4
def hLoss : Nat := 5
def hSh43 : Nat := 6
def hSh52 : Nat := 7

/-- The unit exponent of format `f` at magnitude m·2^e. -/
def unitExp (f : Nat) (m : Nat) (e : Int) : Int :=
  if f = 10 then -6
  else
    let (_, mb, bias) := fmtParams f
    max (topExp m e) (1 - bias) - mb

/-- A finite value converted to format `f` (R74, R75): encoding and events. RTZ and an MX element set to ±max raise SAT (R75, R76). -/
def convFin (f : Nat) (md : Rnd) (sat : Bool) (r : Nat) (neg : Bool) (m : Nat) (e : Int) : Nat × List Nat :=
  if m = 0 then (if f = 10 then 0 else encodeUnits f neg 0 (unitExp f 0 (-100000)), [hZero])
  else
    let q := unitExp f m e
    let k := roundUnits md r m e q
    let (mm, me) := maxFin f
    let beyond := magGt k q mm me
    if (decide (md = .rtz) || isMx f) && magGt m e mm me then (encodeMax f neg, [hSat])
    else if beyond then
      if sat then (encodeMax f neg, [hSat]) else (encodeInf f neg, [hNonfin])
    else (encodeUnits f neg k q, if k = 0 then [hZero, hUnder] else [])

/-- One element converted to a format without block scale (R74, R75, R78, Table 04-2). -/
def convElem (f : Nat) (md : Rnd) (sat : Bool) (r : Nat) : Val → Nat × List Nat
  | .nan => (canonNan f, [hNonfin])
  | .inf neg => if sat then (encodeMax f neg, [hSat, hNonfin]) else (encodeInf f neg, [hNonfin])
  | .fin neg m e => convFin f md sat r neg m e

def Val.nonfinite : Val → Bool
  | .fin .. => false
  | _ => true

/-- emax of R76. -/
def mxEmax : Nat → Int
  | 5 => 8 | 6 => 15 | 7 => 4 | 8 => 2 | 9 => 2 | _ => 0

/-- The largest top exponent of the non-zero values, none where all are zero. -/
def maxTop : List Val → Option Int
  | [] => none
  | .fin _ m e :: vs =>
    if m = 0 then maxTop vs
    else match maxTop vs with
      | none => some (topExp m e)
      | some x => some (max (topExp m e) x)
  | _ :: vs => maxTop vs

/-- A block converted to an MX format (R76): scale byte, element codes, events per element. -/
def convBlock (f : Nat) (md : Rnd) (rs : List Nat) (vs : List Val) : Nat × List Nat × List (List Nat) :=
  if vs.any Val.nonfinite then (255, vs.map fun _ => 0, vs.map fun _ => [hNonfin])
  else match maxTop vs with
    | none => (0, vs.map fun _ => 0, vs.map fun _ => [hZero])
    | some t =>
      let x := clampInt (-127) 127 (t - mxEmax f)
      let rs' := vs.zip rs |>.map fun p =>
        match p.1 with
        | .fin n m e => convFin f md true p.2 n m (e - x)
        | _ => (0, [])
      ((x + 127).toNat, rs'.map (·.1), rs'.map (·.2))

/-- The histogram counter of a value (R101). -/
def histIdx (histBase : Int) : Val → List Nat
  | .fin _ m e => if m = 0 then [] else [8 + (clampInt 0 31 (topExp m e - histBase)).toNat]
  | _ => []

/-! ## FP32 operations (R93) -/

def f32 (x : Lane) : Val := decodeElem 0 x.toNat

/-- RNE into FP32. -/
def toF32 (v : Val) : Lane := BitVec.ofNat 32 (convElem 0 .rne false 0 v).1

/-- The signed integer a value holds in units of 2^e, for a finite value with exponent at least e. -/
def Val.units (e : Int) : Val → Int
  | .fin n m x => let k : Int := m * 2 ^ (x - e).toNat; if n then -k else k
  | _ => 0

def Val.expo : Val → Int
  | .fin _ _ e => e
  | _ => 0

/-- An integer in units of 2^e; zero is positive. -/
def Val.ofInt (k e : Int) : Val := .fin (decide (k < 0)) k.natAbs e

def Val.negate : Val → Val
  | .nan => .nan
  | .inf n => .inf !n
  | .fin n m e => .fin (!n) m e

/-- The exact sum; opposite infinities give NaN, and a zero sum is −0 only where both are −0 (IEEE 754, RNE). -/
def Val.add (a b : Val) : Val :=
  match a, b with
  | .nan, _ => .nan
  | _, .nan => .nan
  | .inf x, .inf y => if x = y then .inf x else .nan
  | .inf x, _ => .inf x
  | _, .inf y => .inf y
  | .fin x m e, .fin y n d =>
    if m = 0 ∧ n = 0 then .fin (x && y) 0 0
    else
      let q := min e d
      Val.ofInt (Val.units q (.fin x m e) + Val.units q (.fin y n d)) q

/-- The exact product. -/
def Val.mul (a b : Val) : Val :=
  match a, b with
  | .nan, _ => .nan
  | _, .nan => .nan
  | .inf x, .inf y => .inf (x != y)
  | .inf x, .fin y n _ => if n = 0 then .nan else .inf (x != y)
  | .fin x m _, .inf y => if m = 0 then .nan else .inf (x != y)
  | .fin x m e, .fin y n d => .fin (x != y) (m * n) (e + d)

/-- A quotient with enough bits and a sticky bit for one correct rounding. -/
def Val.div (a b : Val) : Val :=
  match a, b with
  | .nan, _ => .nan
  | _, .nan => .nan
  | .inf _, .inf _ => .nan
  | .inf x, .fin y _ _ => .inf (x != y)
  | .fin x _ _, .inf y => .fin (x != y) 0 0
  | .fin x m e, .fin y n d =>
    if n = 0 then (if m = 0 then .nan else .inf (x != y))
    else if m = 0 then .fin (x != y) 0 0
    else
      let k := m * 2 ^ 64 / n
      .fin (x != y) (2 * k + b2n (decide (m * 2 ^ 64 % n ≠ 0))) (e - d - 65)

/-- floor(√n), one bit of the result per step from bit `k` down. -/
def isqrtBits (n : Nat) : Nat → Nat → Nat
  | 0, r => r
  | k + 1, r => isqrtBits n k (if (r + 2 ^ k) * (r + 2 ^ k) ≤ n then r + 2 ^ k else r)

def isqrt (n : Nat) : Nat := isqrtBits n (Nat.log2 n / 2 + 1) 0

def Val.sqrt : Val → Val
  | .nan => .nan
  | .inf false => .inf false
  | .inf true => .nan
  | .fin n m e =>
    if m = 0 then .fin n 0 0
    else if n then .nan
    else
      let (m, e) := if e % 2 = 0 then (m, e) else (2 * m, e - 1)
      let k := isqrt (m * 2 ^ 64)
      .fin false (2 * k + b2n (decide (k * k ≠ m * 2 ^ 64))) (e / 2 - 33)

def Val.rsqrt : Val → Val
  | .nan => .nan
  | .inf false => .fin false 0 0
  | .inf true => .nan
  | .fin n m e =>
    if m = 0 then .inf n
    else if n then .nan
    else
      let (m, e) := if e % 2 = 0 then (m, e) else (2 * m, e - 1)
      let k := isqrt (2 ^ 160 / m)
      .fin false (2 * k + b2n (decide (k * k * m ≠ 2 ^ 160))) (-(e / 2) - 81)

/-- 2^(0.b₁b₂…) of the fraction bits, from the highest: product of successive square roots of 2, `root` in units of 2^−200. -/
def exp2Frac : List Bool → Nat → Nat → Nat
  | [], _, acc => acc
  | b :: bs, root, acc => exp2Frac bs (isqrt (root * 2 ^ 200)) (if b then acc * root / 2 ^ 200 else acc)

/-- 2^v. The lower bound carries an error below 2^−180, far below the distance of any exp2 of an FP32 value from a rounding boundary (log 7). -/
def Val.exp2 : Val → Val
  | .nan => .nan
  | .inf false => .inf false
  | .inf true => .fin false 0 0
  | .fin n m e =>
    if m = 0 then .fin false 1 0
    else if topExp m e < -26 then .fin false (2 ^ 60 + 1 - 2 * b2n n) (-60)
    else if 8 ≤ topExp m e then .fin false 1 (if n then -1000 else 1000)
    else
      let u := Val.units (-60) (.fin n m e)
      let i := u / 2 ^ 60
      let f := (u % 2 ^ 60).toNat
      if f = 0 then .fin false 1 i
      else
        let fb := (List.range 60).map fun k => f.testBit (59 - k)
        let a := exp2Frac fb (isqrt (2 * 2 ^ 400)) (2 ^ 200)
        .fin false (2 * (a / 2 ^ 100) + 1) (i - 101)

/-- Bits of log₂ of x/2^300 in [1, 2) by repeated squaring. -/
def log2Bits : Nat → Nat → Nat → Nat
  | 0, _, acc => acc
  | k + 1, x, acc =>
    let y := x * x / 2 ^ 300
    if 2 ^ 301 ≤ y then log2Bits k (y / 2) (2 * acc + 1) else log2Bits k y (2 * acc)

/-- log₂ v, to 120 fraction bits and a sticky bit (log 7). -/
def Val.log2 : Val → Val
  | .nan => .nan
  | .inf false => .inf false
  | .inf true => .nan
  | .fin n m e =>
    if m = 0 then .inf true
    else if n then .nan
    else
      let t := topExp m e
      let l := Nat.log2 m
      if m = 2 ^ l then Val.ofInt t 0
      else
        let b : Nat := log2Bits 120 (m * 2 ^ (300 - l)) 0
        Val.ofInt (2 * (t * 2 ^ 120 + b) + 1) (-121)

/-- Exact order of two values that are not NaN: −1, 0, 1; zeros are equal. -/
def Val.cmp (a b : Val) : Int :=
  match a, b with
  | .inf x, .inf y => if x = y then 0 else if x then -1 else 1
  | .inf x, _ => if x then -1 else 1
  | _, .inf y => if y then 1 else -1
  | a, b =>
    let q := min a.expo b.expo
    (Val.units q a - Val.units q b).sign

def Val.isNan : Val → Bool
  | .nan => true
  | _ => false

def Val.isNeg : Val → Bool
  | .fin n _ _ => n
  | .inf n => n
  | .nan => false

/-- −0 below +0 (R93). -/
def Val.lt (a b : Val) : Bool :=
  if Val.cmp a b = 0 then a.isNeg && !b.isNeg else decide (Val.cmp a b < 0)

def canonF32 : Lane := 0x7FC00000#32

def fAdd (a b : Lane) : Lane := toF32 ((f32 a).add (f32 b))
def fSub (a b : Lane) : Lane := toF32 ((f32 a).add (f32 b).negate)
def fMul (a b : Lane) : Lane := toF32 ((f32 a).mul (f32 b))
def fDiv (a b : Lane) : Lane := toF32 ((f32 a).div (f32 b))
def fFma (a b c : Lane) : Lane := toF32 (((f32 a).mul (f32 b)).add (f32 c))
def fMin (a b : Lane) : Lane :=
  if (f32 a).isNan || (f32 b).isNan then canonF32 else if (f32 b).lt (f32 a) then b else a
def fMax (a b : Lane) : Lane :=
  if (f32 a).isNan || (f32 b).isNan then canonF32 else if (f32 a).lt (f32 b) then b else a
def fSqrt (a : Lane) : Lane := toF32 (f32 a).sqrt
def fRsqrt (a : Lane) : Lane := toF32 (f32 a).rsqrt
def fExp2 (a : Lane) : Lane := toF32 (f32 a).exp2
def fLog2 (a : Lane) : Lane := toF32 (f32 a).log2
/-- ABS and NEG change only the sign bit (Table 07-15). -/
def fAbs (a : Lane) : Lane := a &&& 0x7FFFFFFF#32
def fNeg (a : Lane) : Lane := a ^^^ 0x80000000#32

/-- FP32 comparisons of VCMP: a NaN makes each false, −0 equals +0. -/
def fEq (a b : Lane) : Bool := !(f32 a).isNan && !(f32 b).isNan && decide (Val.cmp (f32 a) (f32 b) = 0)
def fLt (a b : Lane) : Bool := !(f32 a).isNan && !(f32 b).isNan && decide (Val.cmp (f32 a) (f32 b) < 0)
def fLe (a b : Lane) : Bool := fEq a b || fLt a b
def fUnord (a b : Lane) : Bool := (f32 a).isNan || (f32 b).isNan

/-- One level of tree_sum (R94): pairs joined by `f` with their node number, an unpaired last value unchanged. -/
def treeLevel {α : Type} (f : Nat → α → α → α) : Nat → List α → Nat × List α
  | n, a :: b :: r => let p := treeLevel f (n + 1) r; (p.1, f (n + 1) a b :: p.2)
  | n, r => (n, r)

/-- tree_sum of R94 with at most `fuel` levels. -/
def treeSum {α : Type} (f : Nat → α → α → α) (d : α) : Nat → Nat → List α → α
  | _, _, [x] => x
  | 0, _, r => r.headD d
  | fuel + 1, n, r => let p := treeLevel f n r; treeSum f d fuel p.1 p.2

/-- tree_sum over any list: as many levels as it has values suffice. -/
def treeReduce {α : Type} (f : Nat → α → α → α) (d : α) (xs : List α) : α := treeSum f d xs.length 0 xs

end Sys2Proof.Machine
end

