-- ==== Sys2Proof/Config.lean ====
section
/-! DEFINITION. What one package fixes and the free values: constants with no body, so that no proof can see what they are (log 5). -/

namespace Sys2Proof.Config

/-- A value the spec leaves open, drawn by the counter `freeCtr` of the state (R184 overlapping frames, R314 refused lines). -/
opaque freeByte : Nat → Byte
/-- A 64-bit value the spec leaves open, drawn the same way. -/
opaque freeWord : Nat → Word
/-- The payload of a board-address request, whose layout the spec leaves to the engine (R266). -/
opaque boardPayload : Word → BitVec 48 → Option (List Byte) → List Byte
/-- The payload of its response: whether it is a refusal, and the line read. -/
opaque boardReply : Bool → List Byte → List Byte
/-- Fused 64-bit serial (R408). -/
opaque serial : Word
/-- Grade: true for -L, false for -M (R2). -/
opaque gradeL : Bool
/-- MAJOR and MINOR silicon revision of die 0–4 (R408, Table 15-13). -/
opaque idRev : Nat → Byte × Byte
/-- The 60 bytes of the vendor public key whose hash is fused in slot k (R393, Table 15-4). -/
opaque vendorKey : Nat → BitVec 480
/-- Whether an HSS signature over a message verifies under a public key (R395); an uninterpreted function. -/
opaque hssVerify : List Byte → List Byte → List Byte → Bool
/-- The HSS signature of the epoch's attestation key with leaf q over a message (R399, R400). -/
opaque hssSign : Nat → Nat → List Byte → List Byte
/-- The certificate of an epoch (R398). -/
opaque certificate : Nat → List Byte
/-- Random 128-bit values of the trust unit (R401). -/
opaque nonce : Nat → BitVec 128
/-- Physical tiles retired at wafer or package test (R41): die, m. -/
opaque factoryRetired : Nat → Nat → Bool
/-- Array skips used at test (R64): die, m; row skips 0 and 1, column skips 0 and 1, 0xFF none. -/
opaque factorySkips : Nat → Nat → Byte × Byte × Byte × Byte

/-- The codes of the TAP instructions IDCODE, SAMPLE/PRELOAD and EXTEST, which the manual does not give (R465). -/
opaque tapIdcode : BitVec 8
opaque tapSample : BitVec 8
opaque tapExtest : BitVec 8
/-- The offset of the PCI power-management control register and of the Resizable BAR control register of a host port: the manual gives no offsets of
capabilities (R359). -/
opaque pmcsrOffset : BitVec 12
opaque rebarOffset : BitVec 12
/-- What a configuration-space register reads whose content the manual does not give: its offset, the value last written (R359). -/
opaque cfgWord : Nat → BitVec 32 → BitVec 32

/-- The expected signature of a pattern of the factory pack (R345): the pack's bodies are not in the spec. -/
opaque factorySig : Nat → Word

/-- The code with which RST_WARM names its source, which the manual does not give: the I3C command, or (true) the watchdog (R444). -/
opaque warmSource : Bool → Nat
/-- The DRAM row of a line of a stack, by its stack offset, and the bank of a row: the stacks' geometry, which the manual does not give (R205). -/
opaque dramRow : Nat → Nat
opaque dramBank : Nat → Nat
/-- Row-repair resources a stack reports after its training at cold reset (R205). -/
opaque pprResources : Nat → Nat

end Sys2Proof.Config
end

