-- ==== Sys2Proof/Machine/Map.lean ====
section
/-! DEFINITION. Sparse indexed storage: a list of (index, value) pairs in ONE canonical form, indices strictly rising and no entry equal to the
default an unlisted index reads as. Register arrays, memories and tables of the package are held in it, so that equal contents are equal data. -/

namespace Sys2Proof.Machine

/-- Sparse storage of values of type `α` under natural-number indices. -/
abbrev Map (α : Type) := List (Nat × α)

/-- The value at index `k`; `d` where nothing is listed. -/
def Map.get {α : Type} (d : α) : Map α → Nat → α
  | [], _ => d
  | (i, v) :: m, k => if i = k then v else Map.get d m k

/-- Places a pair before the first entry of a larger index. -/
def Map.place {α : Type} : Map α → Nat → α → Map α
  | [], k, v => [(k, v)]
  | (i, w) :: m, k, v => if k < i then (k, v) :: (i, w) :: m else (i, w) :: Map.place m k v

/-- Removes every entry of index `k`. -/
def Map.erase {α : Type} : Map α → Nat → Map α
  | [], _ => []
  | (i, w) :: m, k => if i = k then Map.erase m k else (i, w) :: Map.erase m k

/-- Writes `v` at index `k`, keeping the canonical form: writing the default removes the entry. -/
def Map.put {α : Type} [DecidableEq α] (d : α) (m : Map α) (k : Nat) (v : α) : Map α :=
  if v = d then m.erase k else (m.erase k).place k v

/-- Applies `f` to the value at index `k`. -/
def Map.upd {α : Type} [DecidableEq α] (d : α) (m : Map α) (k : Nat) (f : α → α) : Map α :=
  m.put d k (f (m.get d k))

/-- Every listed index is at least `lo`, indices rise strictly, no listed value is the default. -/
def Map.wfFrom {α : Type} [DecidableEq α] (d : α) : Nat → Map α → Bool
  | _, [] => true
  | lo, (i, v) :: m => decide (lo ≤ i) && !decide (v = d) && Map.wfFrom d (i + 1) m

/-- The canonical form. -/
def Map.wf {α : Type} [DecidableEq α] (d : α) (m : Map α) : Bool := Map.wfFrom d 0 m

/-- Writes the values `vs` at `k`, `k + 1`, …. -/
def Map.putRange {α : Type} [DecidableEq α] (d : α) (m : Map α) (k : Nat) : List α → Map α
  | [] => m
  | v :: vs => Map.putRange d (m.put d k v) (k + 1) vs

/-- The `n` values from index `k` on. -/
def Map.getRange {α : Type} (d : α) (m : Map α) (k n : Nat) : List α :=
  (List.range n).map fun i => m.get d (k + i)

/-- Drops every entry whose index `keep` refuses. -/
def Map.restrict {α : Type} (m : Map α) (keep : Nat → Bool) : Map α := m.filter fun e => keep e.1

/-- Applies `f` to every listed value; an index whose value becomes the default is no longer listed. -/
def Map.mapv {α : Type} [DecidableEq α] (d : α) (f : Nat → α → α) : Map α → Map α
  | [] => []
  | (i, v) :: m => if f i v = d then Map.erase (Map.mapv d f m) i else (i, f i v) :: Map.mapv d f m

/-- A saturating counter of `max` (R4): on reaching its maximum it holds that value. -/
def satAdd (max n : Nat) (k : Nat := 1) : Nat := min max (n + k)

/-- The largest value of a 48-bit counter. -/
def max48 : Nat := 2 ^ 48 - 1
def max64 : Nat := 2 ^ 64 - 1

end Sys2Proof.Machine
end

