-- ==== Sys2Proof/Machine/Tile.lean ====
section
/-! DEFINITION. The state a tile holds: its three streams, the vector registers, the local store, the accumulator banks, the signal counters,
the scoreboard, the copy queue, the health table and the counters of Tables 06-3 and 09-7 to 09-9. -/

namespace Sys2Proof.Machine

/-- Wait causes of Table 06-2 (R139). -/
inductive Cause where | peer | copy | dep | check | brew | pace | bench | host
  deriving DecidableEq, Repr

def Cause.code : Cause → Nat
  | .peer => 0 | .copy => 1 | .dep => 2 | .check => 3 | .brew => 4 | .pace => 5 | .bench => 6 | .host => 7

/-- A resource of Table 06-1, one tracking unit each. -/
inductive Res where
  | s (n : Nat) | p (n : Nat) | v (n : Nat) | acc (b : Nat)
  /-- local-store granules `lo` to `hi` of 256 bytes -/
  | ls (lo hi : Nat)
  /-- 16 KiB units `lo` to `hi` of package memory, by stack-homed unit index (R188) -/
  | ext (lo hi : Nat)
  | sc (k : Nat)
  deriving DecidableEq, Repr

/-- A scoreboard entry: stream, the resources its instruction reads and writes, the in-flight operation it belongs to (R123, R125), the cause a
later instruction that needs it waits for (Table 06-2), and whether it is an MMA (the exception of R124). -/
structure SbEntry where
  stream : StreamId
  reads  : List Res
  writes : List Res
  op     : Nat
  cause  : Cause := .dep
  isMma  : Bool := false
  /-- it delivers into the local store of another tile, which SIGNAL waits for (R129) -/
  remote : Bool := false
  deriving DecidableEq, Repr

/-- TILE_FAULT[s] (Table 07-6, R159). -/
structure FaultReg where
  valid  : Bool := false
  code   : Byte := 0
  pc     : BitVec 48 := 0
  detail : Word := 0
  deriving DecidableEq, Repr

/-- A signal on its way: the tiles and the counter it adds to (R128, R40, R172); `src` is the issuing tile, `ref` the target reference, `loaf` the
loaf whose members' signals it is combined with (R40), `id` its scoreboard entry. -/
structure Sig where
  id     : Nat := 0
  ref    : BitVec 16 := 0
  loaf   : Option (BitVec 16) := none
  src    : Nat
  stream : StreamId
  tiles  : List Nat
  k      : Nat
  amount : Nat
  part   : Nat
  /-- operations of the issuing tile that must have completed first (R129) -/
  after  : List Nat := []
  /-- entries of the other members whose SIGNALs are combined into it (R40): tile, entry -/
  also   : List (Nat × Nat) := []
  deriving DecidableEq, Repr

/-- The phase of a brew (Table 09-2): none open, open, record written and COMMIT not yet acknowledged. -/
inductive BrewPhase where | idle | open_ | poured
  deriving DecidableEq, Repr

/-- A committed brew whose lines are still being written home (R215): its serial, its line addresses in lock order, their bytes. -/
structure WriteBack where
  serial : BitVec 32
  lines  : List Nat
  bytes  : List Byte
  slot   : Nat
  deriving DecidableEq, Repr

/-- A stream's brew log (R209–R222): nesting, the staged write sets, the read sets, the pre-images of a replay. -/
structure Brew where
  phase     : BrewPhase := .idle
  depth     : Nat := 0
  openPc    : BitVec 48 := 0
  resume    : BitVec 48 := 0
  statusReg : Nat := 0
  serial    : BitVec 32 := 0
  lsBytes   : Map (Option Byte) := []
  lsGran    : List Nat := []
  extBytes  : Map (Option Byte) := []
  extLines  : List Nat := []
  lsReads   : List Nat := []
  extReads  : List Nat := []
  preS      : List (Nat × Word) := []
  preP      : BitVec 8 := 0
  preV      : List (Nat × List Lane) := []
  waits     : List (Nat × Nat) := []
  unreplayable : Bool := false
  conflict  : Bool := false
  replays   : Nat := 0
  held      : List Sig := []
  /-- the stream waits for BREW.OPEN after a spill, cause BREW (Table 06-2) -/
  spilled   : Bool := false
  deriving DecidableEq, Repr

/-- BRW_TSTAT[s] (Table 09-7); DEPTH, LINES and GRAN are read from the brew. -/
structure TStat where
  openPc : BitVec 48 := 0
  user   : Byte := 0
  code   : Byte := 0
  serial : BitVec 32 := 0
  deriving DecidableEq, Repr

/-- A stop waiting for its point: EV_END reason, whether only outside a brew, STEPs to go (R373, R376, R379). -/
structure Halt where
  reason   : Nat
  safe     : Bool := false
  steps    : Option Nat := none
  deriving DecidableEq, Repr

/-- One stream of a tile (R118, R119). -/
structure Stream where
  run      : Bool := false
  step     : BitVec 32 := 0
  waiting  : Bool := false
  cause    : Cause := .host
  loaf     : BitVec 16 := 0
  part     : Nat := 0
  pc       : BitVec 48 := 0
  sreg     : Map Word := []
  preg     : Map Bool := []
  fetchBuf : List Nat := []
  /-- lines of buffered blocks that failed as they were fetched (R203) -/
  fetchBad : List Nat := []
  fault    : FaultReg := {}
  halt     : Option Halt := none
  brew     : Brew := {}
  wb       : Option WriteBack := none
  tstat    : TStat := {}
  opsOut   : List Nat := []
  /-- the oldest of eight, which a ninth operation waits for (R179) -/
  ninth    : Option Nat := none
  deriving DecidableEq, Repr

/-- A signal counter TILE_SC[k] (Table 06-8). -/
structure SigCtr where
  value : BitVec 16 := 0
  ovf   : Bool := false
  deriving DecidableEq, Repr

/-- A WAIT or WAIT.PEEK in progress, in the order the waits began (R128). -/
structure Waiter where
  stream : StreamId
  k      : Nat
  n      : Nat
  peek   : Bool
  /-- its scoreboard entry (Table 06-1) -/
  id     : Nat := 0
  deriving DecidableEq, Repr

/-- An accumulator bank (R83): per element A (96 bits) and the mark set Q P M SP SM L (bits 5 … 0), ANCHOR, FILLS, the row tallies of R55, the rows
R57 excludes from the tally comparison, and the owner (R133). -/
structure Bank where
  a      : Map (BitVec 96) := []
  marks  : Map (BitVec 6) := []
  anchor : BitVec 10 := BitVec.ofInt 10 (-32)
  fills  : Nat := 0
  tally  : Map Nat := []
  noTally : Map Bool := []
  owner  : Option StreamId := none
  /-- the owner's program has ended with operations on the bank in flight: it is released when they are complete (R134) -/
  leaving : Bool := false
  deriving DecidableEq, Repr

/-- What an MMA has read from local store: the bytes of the stationary slice and its plane, which its fill brings into the array (R50), and of the
streamed slice and its plane. -/
structure MmaFill where
  stat   : List Byte
  statSc : List Byte
  strm   : List Byte
  strmSc : List Byte
  deriving DecidableEq, Repr

/-- An MMA from issue to completion (R45, Table 07-11); `wave` is the next wave to commit. -/
structure Mma where
  id     : Nat
  stream : StreamId
  pc     : BitVec 48
  bank   : Nat
  crossed : Bool
  t      : Bool
  tfmt   : Nat
  sfmt   : Nat
  tblk   : Bool
  sblk   : Bool
  toff   : Nat
  soff   : Nat
  tsoff  : Nat
  ssoff  : Nat
  wave   : Nat := 0
  /-- what it read as it was granted the array; none before -/
  fill   : Option MmaFill := none
  /-- the token at which its wave 0 enters, counted from the array's last idle time, and whether every wave is known to have entered (R48, R138) -/
  entry  : Nat := 0
  entered : Bool := false
  deriving DecidableEq, Repr

/-- A failed wave check under settlement (R58, R340): what the array and the check line held. -/
structure Held where
  mma      : Mma
  wave     : Nat
  errs     : List (Nat × Int)
  chkErr   : Nat
  /-- physical tiles that served as referee and failed their own check; settled by none (Table 13-5, last row) -/
  tried    : List Nat := []
  unsettled : Bool := false
  deriving DecidableEq, Repr

/-- A shadow-lane disagreement under settlement (R170, R334): the result waiting to be written, as the main lanes gave it, what fault-free lanes
give, what the shadow lanes gave for the checked lanes; `lane` is the lowest lane in dispute, `k` the count of R334. -/
structure VxHeld where
  id       : Nat
  stream   : StreamId
  pc       : BitVec 48
  dstV     : Option Nat
  dstS     : Option Nat
  main     : List Lane
  truth    : List Lane
  shadow   : List (Nat × Lane)
  group    : Nat
  lane     : Nat
  k        : Nat
  /-- physical tiles that served as referee and failed their own check; settled by none (Table 13-5, last row) -/
  tried    : List Nat := []
  unsettled : Bool := false
  deriving DecidableEq, Repr

/-- Direction of a copy. -/
inductive CopyDir where | in_ | out | tt
  deriving DecidableEq, Repr

/-- A host read a copy has still to send (R195): package address, bus address, length, and the attributes of its window as they stood at the copy's issue
(R194): RO_ATTR in bit 0, NS in bit 1. -/
structure HostReq where
  addr : Nat
  bus  : Nat
  len  : Nat
  attr : BitVec 2
  deriving DecidableEq, Repr

/-- A copy in the queue of its issuing tile (R199, Table 07-18) with the formats BLEND names resolved (R196). -/
structure Copy where
  id     : Nat
  stream : StreamId
  pc     : BitVec 48
  dir    : CopyDir
  lfmt   : Nat
  mfmt   : Nat
  blend  : Bool
  loff   : Nat
  lsoff  : Nat
  count  : Nat
  rnd    : Nat
  sat    : Bool
  trans  : Bool
  blk    : Bool
  tensor : Nat
  step   : BitVec 32
  lane   : Nat
  addr   : Nat
  stride : Nat
  slice0 : Nat
  dst    : Nat
  dstS   : Nat
  members : List Nat
  sigen  : Bool
  k      : Nat
  part   : Nat
  inBrew : Bool
  /-- bytes that came from a board or host window, by package address -/
  arrived : Map (Option Byte) := []
  /-- tags of remote lines and host reads still outstanding -/
  await  : List Nat := []
  /-- host reads not yet sent -/
  todo   : List HostReq := []
  /-- earlier operations of the stream its completion signal follows (R129, R172) -/
  after  : List Nat := []
  deriving DecidableEq, Repr

/-- A fault detected after its instruction issued (R157). -/
structure Deferred where
  stream : StreamId
  pc     : BitVec 48
  code   : Byte
  detail : Word
  syn    : Nat := 0
  deriving DecidableEq, Repr

/-- A health-table entry: tensor id, step, 40 counters (R104). -/
structure HealthEntry where
  tensor : Nat
  step   : BitVec 32
  cnt    : Map Nat := []
  deriving DecidableEq, Repr

/-- A logical tile (R20, R143). Its physical tile is named by the map (R22). -/
structure Tile where
  str      : Map Stream := []
  vreg     : Map Lane := []
  ls       : Map Byte := []
  lsBad    : Map Bool := []
  bank     : Map Bank := []
  sc       : Map SigCtr := []
  waits    : List Waiter := []
  acqs     : List (Nat × StreamId) := []
  slots    : BitVec 32 := 0x24
  last     : Nat := 2
  ptr      : Nat := 0
  braidPend : List (StreamId × Word) := []
  choiceOpen : Bool := true
  sb       : List SbEntry := []
  sbHwm    : Nat := 0
  mmaQ     : List Mma := []
  array    : List Mma := []
  /-- the token the array is known to have reached since it was last idle (R61) -/
  arrTok   : Nat := 0
  held     : Option Held := none
  vxHeld   : List VxHeld := []
  copyQ    : List Copy := []
  deferred : List Deferred := []
  health   : List HealthEntry := []
  flushQ   : List HealthEntry := []
  idle     : Map Nat := []
  wait     : Map Nat := []
  paceFrac : Map Nat := []
  miss     : Map Nat := []
  xhaz     : Nat := 0
  brwCnt   : Map Nat := []
  linesHwm : Nat := 0
  granHwm  : Nat := 0
  rlinesHwm : Nat := 0
  noOpen   : Bool := false
  idleClear : List (BitVec 32) := []
  /-- the IOD tick at which the tile last reached a step boundary (R122); none: none yet, or its 1 ms was over (R29) -/
  boundaryAt : Option (BitVec 64) := none
  /-- streams frozen by a migration, a window proof or sleep -/
  frozen   : Bool := false
  /-- deliveries held at the network port while MIGRATING (R31) -/
  deliveries : List Sig := []
  /-- the tile lost its physical tile and no bench tile was left (R26) -/
  absent   : Bool := false
  deriving DecidableEq, Repr

end Sys2Proof.Machine
end

