-- ==== Sys2Proof/Machine/Units.lean ====
section
/-! DEFINITION. The state of the package's units outside the logical tiles: physical tiles, dies, stacks, update engines, Hyirdan modules,
partitions, the loaf table, the collectives engine, fabric ports, host ports, crumbs, firmware and trust, clocks, power, sideband. -/

namespace Sys2Proof.Machine

/-- CD_TILE_MAP[n] (Table 02-2); `dest` is the physical tile a migration in progress copies to (R30). -/
structure TMap where
  valid     : Bool := false
  migrating : Bool := false
  moves     : Nat := 0
  row       : Nat := 0
  col       : Nat := 0
  dest      : Option Nat := none
  rotation  : Bool := false
  deriving DecidableEq, Repr

/-- Physical tile states (Table 02-3). -/
inductive PState where | untested | active | bench | proving | retiredFactory | retiredField | fenced
  deriving DecidableEq, Repr

def PState.code : PState → Nat
  | .untested => 0 | .active => 1 | .bench => 2 | .proving => 3 | .retiredFactory => 4 | .retiredField => 5 | .fenced => 6

/-- A starter pack's segment (Table 13-18). -/
structure Segment where
  pattern : Nat
  kind    : Nat
  trim    : Int
  dmargin : Nat
  oven    : Nat
  dur     : Nat
  outOff  : Nat := 0
  outLen  : Nat := 64
  deriving DecidableEq, Repr

/-- A starter pack in force: identifier, version, schedules, expected signatures by pattern (R355). -/
structure Pack where
  id       : BitVec 32 := 0
  ver      : BitVec 32 := 0
  rotation : List Segment := []
  window   : List Segment := []
  sigs     : List (Nat × Word) := []
  deriving DecidableEq, Repr

/-- The factory pack (pack 0, Tables 13-6 and 13-20); its segments' patterns are numbered in order (log 22). -/
def factoryPack : Pack :=
  { rotation :=
      [{ pattern := 0, kind := 0, trim := 0, dmargin := 0, oven := 0, dur := 2500 }, { pattern := 1, kind := 1, trim := -16, dmargin := 0, oven := 0, dur := 5000 },
       { pattern := 2, kind := 1, trim := 0, dmargin := 0xFF, oven := 0, dur := 4250 }, { pattern := 3, kind := 1, trim := 0, dmargin := 0, oven := 15, dur := 5750 },
       { pattern := 4, kind := 0, trim := 0, dmargin := 0, oven := 0, dur := 2500 }]
    window :=
      [{ pattern := 5, kind := 2, trim := 0, dmargin := 0, oven := 0, dur := 3, outOff := 0x170000 },
       { pattern := 6, kind := 2, trim := -8, dmargin := 0, oven := 0, dur := 4, outOff := 0x170000 }] }

/-- A proving run in progress on a physical tile (R345, R346), under the pack in force when it began (R357). -/
structure ProvRun where
  pack     : Pack := factoryPack
  segment  : Nat := 0
  repeated : Bool := false
  marginFail : Bool := false
  ratedFail : Bool := false
  patternFault : Bool := false
  dmPass   : Option Nat := none
  ovenReady : Bool := false
  done     : Bool := false
  /-- no segment runs until sleep, being entered, is over (R70, log 77) -/
  paused   : Bool := false
  deriving DecidableEq, Repr

/-- A physical tile: CD_PTILE_STATE, its register block (R44) and its proving record (Table 13-10). -/
structure PTile where
  state    : PState := .untested
  logical  : Nat := 0xFF
  runs     : Nat := 0
  benchSeq : Nat := 0
  rowSkip0 : Byte := 0xFF
  rowSkip1 : Byte := 0xFF
  colSkip0 : Byte := 0xFF
  colSkip1 : Byte := 0xFF
  origin   : BitVec 4 := 0
  dmargin  : Nat := 0
  tokens   : Word := 0
  chkMismatch : Nat := 0
  chkSkip  : Nat := 0
  tallyFault : Nat := 0
  lsCorr   : Nat := 0
  vtrim    : Int := 0
  clamped  : Bool := false
  trimBase : Option Int := none
  /-- thermal pacing is lowering this tile (R438) -/
  lowering : Bool := false
  tj       : Nat := 0
  arrayAttr : Nat := 0
  checkAttr : Nat := 0
  laneAttr : Nat := 0
  shadowAttr : Nat := 0
  unres    : Nat := 0
  dmPass   : Nat := 0
  lastRun  : Nat := 0
  ovenDt   : Nat := 0
  pending  : Bool := false
  /-- VX instructions that wrote lane results since cold reset, k of R334; by group, k after its last agreement -/
  vxCount  : Nat := 0
  laneSince : Map Nat := []
  mainLane : Map Nat := []
  shadowLane : Map Nat := []
  lineCount : Map Nat := []
  /-- a skip is being fused or has been loaded, and no run has passed with the new geometry (R65) -/
  mustProve : Bool := false
  belowFloor : Bool := false
  run      : Option ProvRun := none
  deriving DecidableEq, Repr

/-- A compute die (0–3) or, for the fields that apply, the IOD. -/
structure Die where
  heldReset : Bool := false
  /-- the repair records are loaded and the self-test has run (R41, R68) -/
  tested   : Bool := false
  released : Bool := false
  pllLock  : Bool := false
  refTick  : Word := 0
  ffuse    : Map (BitVec 32) := []
  /-- records whose programming is under way (R67) -/
  fusing   : List Nat := []
  rotations : Nat := 0
  provingM : Nat := 0xFF
  next     : Nat := 0
  dmFloor  : Nat := 6
  ovenMax  : Nat := 15
  windowEn : Bool := true
  rotEn    : Bool := true
  prvCnt   : Map Nat := []
  windowRetry : Bool := false
  rotStopped : Bool := false
  benchSeq : Nat := 0
  railTherm : Map Nat := []
  nbrFenced : Bool := false
  deriving DecidableEq, Repr

/-- A memory stack with its controller (Tables 08-3, 08-6, 08-7). `gran` holds OWNED in bit 31, PART in [30:28], PITCH in [3:0]. -/
structure Stack where
  ue       : Nat := 0
  ce       : Nat := 0
  pprDone  : Nat := 0
  pprLeft  : Nat := 0
  /-- corrected reads of the last 24 h: row, IOD tick (R205) -/
  ceAt     : List (Nat × Word) := []
  /-- rows due for repair, and the row whose bank a repair in progress holds -/
  rowsDue  : List Nat := []
  repair   : Option Nat := none
  /-- rows repaired softly since the last training, and the repairs made permanent (R205) -/
  softRows : List Nat := []
  hardDone : Nat := 0
  passes   : BitVec 32 := 0
  pos      : Nat := 0
  gran     : Map (BitVec 32) := []
  granPend : Map Bool := []
  pitchPend : List (Nat × BitVec 4) := []
  fenced   : Bool := false
  maint    : Bool := false
  selfRefresh : Bool := false
  deriving DecidableEq, Repr

/-- A stack out of service: no partition owns its granules (R207). -/
def Stack.fence (k : Stack) : Stack := { k with fenced := true, gran := [], granPend := [], pitchPend := [] }

/-- Shard states (Table 10-3). -/
inductive ShState where | idle | waitpin | updating | partial_
  deriving DecidableEq, Repr

def ShState.code : ShState → Nat | .idle => 0 | .waitpin => 1 | .updating => 2 | .partial_ => 3

/-- A shard directory entry UPE_DIR[l][i] (Table 10-3). -/
structure DirEntry where
  valid    : Bool := false
  part     : Nat := 0
  kind     : BitVec 2 := 0
  crust    : Bool := false
  state    : ShState := .idle
  vfmt     : BitVec 2 := 0
  mfmt     : Bool := false
  crustOk  : Bool := false
  base     : BitVec 37 := 0
  shard    : BitVec 32 := 0
  tensor   : BitVec 20 := 0
  slice0   : BitVec 32 := 0
  nslice   : BitVec 24 := 0
  version  : BitVec 32 := 0
  target   : BitVec 32 := 0
  pins     : BitVec 16 := 0
  dgrp     : BitVec 16 := 0
  crustVer : BitVec 32 := 0
  digest   : Word := 0
  gscale   : BitVec 32 := 0
  rdig     : BitVec 32 := 0
  pbase    : BitVec 47 := 0
  deriving DecidableEq, Repr

/-- A slice brew of an engine (R226, R245): its slice, the journal slot its record will take, whether another agent has written one of its lines
(R213), whether it spilled with code 1 and waits for its retry, retries and replays made. -/
structure SliceBrew where
  slice    : Nat
  slot     : Nat
  conflict : Bool := false
  spilled  : Bool := false
  retries  : Nat := 0
  replays  : Nat := 0
  deriving DecidableEq, Repr

/-- A shard update in progress on an engine (R245): directory entry, the operation it belongs to, the next slice, slices committed, the recipe as read,
whether it completes a PARTIAL shard, its brews in flight. -/
structure ShardUpd where
  dir      : Nat
  op       : Nat
  slice    : Nat := 0
  committed : Nat := 0
  recipe   : List Byte := []
  resumed  : Bool := false
  brews    : List SliceBrew := []
  deriving DecidableEq, Repr

/-- A digest exchange due (R253): directory index, and VERSION, DIGEST, partition and replica group as the shard reached its version. -/
structure DigestDue where
  dir     : Nat
  version : BitVec 32
  digest  : Word
  part    : Nat
  dgrp    : BitVec 16
  deriving DecidableEq, Repr

/-- An update engine with its directory (Tables 10-3, 10-10, 10-11). -/
structure Upe where
  /-- the stack that serves this engine's role; none: its own local stack (Table 10-10) -/
  server   : Option Nat := none
  fenced   : Bool := false
  disabled : Bool := false
  cnt      : Map Nat := []
  dir      : Map DirEntry := []
  cur      : Option ShardUpd := none
  /-- committed slice brews whose lines are still to be written home, by journal slot (R215, R226) -/
  wbs      : List (Nat × WriteBack) := []
  pinWaited : List Nat := []
  due      : List DigestDue := []
  deriving DecidableEq, Repr

/-- A Hyirdan module D2D_MOD[k] (Table 16-2, R415). -/
structure D2d where
  retraining : Bool := false
  retired  : Bool := false
  off      : Bool := false
  x32      : Bool := false
  half     : Bool := false
  txRepair : Nat := 0
  rxRepair : Nat := 0
  frames   : Word := 0
  crcFail  : Nat := 0
  retrains : Nat := 0
  retry    : Nat := 0
  rxNext   : Nat := 0
  txAck    : Nat := 0
  replay   : List Frame := []
  /-- ticks of the CRC failures and of the rewinds of the last millisecond (R415, R416) -/
  crcAt    : List Word := []
  retryAt  : List Word := []
  deriving DecidableEq, Repr

/-- The receiving side of a Hyirdan link (R414): the next sequence number of each stream and the frames ahead of it. -/
structure DLink where
  next    : Map Nat := []
  waiting : List Frame := []
  deriving DecidableEq, Repr

/-- A PWR_GATE entry (Table 16-9); `en` holds RUN_EN, SLEEP_EN, DEEP_EN in bits 0, 1, 2. -/
structure Gate where
  now : Nat := 0
  en  : Option (BitVec 3) := none
  deriving DecidableEq, Repr

/-- A job map as loaded (Table 12-1, R295). -/
structure JobMap where
  ext     : List Nat := []
  axis    : List Nat := []
  serials : List Word := []
  digests : List (BitVec 256) := []
  bytes   : List Byte := []
  deriving DecidableEq, Repr

/-- A blend row (Table 05-5): the 256-bit row, the decision before the last one (R111), whether any decision was made. -/
structure BlendRow where
  word    : BitVec 256 := BitVec.ofNat 256 (2 ^ 35 + 2 ^ 33 + 8 + 2)
  older   : Option (BitVec 2) := none
  decided : Bool := false
  deriving DecidableEq, Repr

/-- A change staged with an effective step (R115, R300). -/
inductive Staged where
  | slot (i : Nat) (w : BitVec 32) | row (i : Nat) (w : BitVec 256) | pctrl (w : Word)
  | digctrl (d : BitVec 9) (action : Bool) | map (addr : BitVec 48) (m : JobMap) | group (g : Nat) (valid : Bool) (cuts : BitVec 5)
  deriving DecidableEq, Repr

/-- A closed step under health reduction: its operation, the slot map and BLD_PCTRL as they stood, the rows judged, and whether it closed in a handoff
window (R117). -/
structure Deciding where
  step  : Nat
  op    : Nat
  slots : List (Nat × BitVec 32)
  pctrl : Word
  rows  : List Nat
  handoff : Bool
  deriving DecidableEq, Repr

/-- A PART_ADD or PART_REMOVE in progress (R376). -/
structure Change where
  id       : BitVec 32
  units    : List PartUnit
  switched : List PartUnit := []
  spilled  : Nat := 0
  entries  : Nat := 0
  deriving DecidableEq, Repr

/-- Partition states (Table 14-11). -/
inductive PartSt where | free | idle | run | parking | parked | orphan
  deriving DecidableEq, Repr

def PartSt.code : PartSt → Nat | .free => 0 | .idle => 1 | .run => 2 | .parking => 3 | .parked => 4 | .orphan => 5

/-- A partition: PART_TABLE (Table 14-11), its job (Table 12-12), groups, blend tables, journal base, host windows, plan control, routes. -/
structure Part where
  valid    : Bool := false
  owner    : HostPort := .A
  state    : PartSt := .free
  orphan   : BitVec 2 := 0
  orphanN  : BitVec 16 := 0
  boardMask : Byte := 0
  lease    : BitVec 16 := 100
  quota    : BitVec 13 := 0
  seed     : Word := 0
  changeId : BitVec 32 := 0
  pairs    : BitVec 32 := 0
  orphanLeft : BitVec 16 := 0
  leaseLeft : BitVec 32 := 0
  /-- the lease is running (R379) -/
  leaseOn  : Bool := false
  changes  : List Change := []
  pairPend : BitVec 32 := 0
  /-- EV_PARKED is due once a warm reset's journal replay is complete (R382) -/
  parkDue  : Bool := false
  hwin     : Map (Word × Word) := []
  jbase    : Word := 0
  slot     : Map (BitVec 32) := []
  row      : Map BlendRow := []
  pctrl    : Word := 0xE802
  late     : Nat := 0
  unmapped : Nat := 0
  logLost  : Nat := 0
  logNext  : Nat := 0
  chain    : Word := 0
  chainAt  : Map (Word × Bool) := []
  oldest   : Nat := 0
  closedAny : Bool := false
  s0       : Option Nat := none
  /-- closed steps whose health reduction or decision is still due -/
  deciding : List Deciding := []
  /-- open steps out of which some stream has completed a STEP (R106) -/
  stepped  : List Nat := []
  incomplete : List Nat := []
  staged   : List (BitVec 32 × Staged) := []
  diverged : Nat := 0
  action   : Bool := true
  dint     : BitVec 9 := 8
  job      : Bool := false
  tag      : Word := 0
  tagStep  : BitVec 32 := 0
  prevTag  : Word := 0
  prevStep : BitVec 32 := 0
  jrank    : Nat := 0
  mapAddr  : BitVec 48 := 0
  map      : JobMap := {}
  jobFw    : BitVec 32 := 0
  group    : Map (BitVec 6) := []
  fence    : Word := 0
  clxCnt   : Map Nat := []
  seqs     : List (Nat × Nat × Nat × Nat) := []
  planValid : Bool := false
  darkMax  : Byte := 10
  degrade  : BitVec 6 := 0
  relabel  : BitVec 12 := 0
  broute   : Map Word := []
  deriving DecidableEq, Repr

/-- PART_TILE[n] (Table 14-12). -/
structure PartTile where
  pending : Bool := false
  owned   : Bool := false
  part    : Nat := 0
  deriving DecidableEq, Repr

/-- A loaf descriptor (Table 02-8): `members` of a LIST, `rect` of a RECT (die mask, rows, columns), `die` of a BENCH loaf. -/
structure Loaf where
  valid    : Bool := false
  kind     : Nat := 0
  part     : Nat := 0
  busy     : Bool := false
  degraded : Bool := false
  isCont   : Bool := false
  size     : Nat := 0
  nameTag  : BitVec 16 := 0
  contV    : Bool := false
  cont     : Nat := 0
  members  : List (BitVec 16) := []
  dieMask  : BitVec 4 := 0
  rowLo    : Nat := 0
  rowHi    : Nat := 0
  colLo    : Nat := 0
  colHi    : Nat := 0
  die      : Nat := 0
  deriving DecidableEq, Repr

/-- A program run addressed to a loaf, until its last member ends it (R38, R372). -/
structure LoafRun where
  loaf    : BitVec 16
  stream  : StreamId
  part    : Nat
  members : List Nat
  left    : List Nat
  reason  : Nat := 0
  deriving DecidableEq, Repr

/-- One member's part in an issue to the collectives engine (R178, R180). -/
structure Joiner where
  tile   : Nat
  rank   : Nat
  pc     : BitVec 48
  addr   : Nat
  sigen  : Bool
  k      : Nat
  word   : IWord := {}
  expect : BitVec 32 := 0
  /-- earlier operations of the tile that its completion signal follows (R129, R172) -/
  after  : List Nat := []
  deriving DecidableEq, Repr

/-- An entry of the combining table: SIGNALs of R40 (`op` 0, of whatever stream, with the members' amounts and scoreboard entries) or issues of R180
(`op` 1 and up, of one stream, with their joiners). -/
structure Comb where
  loaf    : BitVec 16
  stream  : Option StreamId
  target  : BitVec 16
  k       : Nat
  gen     : Nat
  op      : Nat
  arrived : List (Nat × Nat)
  ids     : List (Nat × Nat) := []
  joined  : List Joiner := []
  amount  : Nat := 0
  part    : Nat
  /-- identifier and step of the operation the issues are combined into -/
  id      : Nat := 0
  step    : BitVec 32 := 0
  deriving DecidableEq, Repr

/-- How many SIGNALs (or issues) a member has joined: issuing loaf, stream (none for SIGNALs, which R40 counts over all streams), target, counter,
class, rank, count (R40, R180). -/
structure Gen where
  loaf   : BitVec 16
  stream : Option StreamId
  target : BitVec 16
  k      : Nat
  op     : Nat
  rank   : Nat
  count  : Nat
  deriving DecidableEq, Repr

/-- An operation of the collectives engine or an update issue (OP of Table 12-3; 16 is an update issue). `contrib` holds what each rank has
contributed: rank, OFFSET, data; `lasts` the ranks whose LAST has come; `ended` a code of Table 12-7 with PRANK and PSTEP. -/
structure Op where
  id      : Nat
  kind    : Nat
  part    : Nat
  stream  : StreamId := .F
  step    : BitVec 32
  group   : Nat := 0
  seq     : Nat := 0
  lane    : Nat := 0xFFFE
  tag     : Word := 0
  shape   : BitVec 32 := 0
  desc    : List Byte := []
  addr    : Nat := 0
  size    : Nat := 1
  rank    : Nat := 0
  joiners : List Joiner := []
  contrib : List (Nat × Nat × List Byte) := []
  lasts   : List Nat := []
  /-- the ranks whose LAST is awaited -/
  awaits  : List Nat := []
  /-- counts of R309, or the shards of each rank of R315 -/
  counts  : List Nat := []
  /-- reduction carry: BF16 with SR -/
  bf16    : Bool := false
  /-- update issue: shards still to start or complete (engine, directory index), highest status code, slices committed -/
  shards  : List (Nat × Nat) := []
  code    : Nat := 0
  slices  : Nat := 0
  guardId : Option Nat := none
  n2      : Option Lane := none
  ended   : Option (Nat × Nat × BitVec 32) := none
  /-- digest exchange: engine and directory index -/
  dir     : Nat × Nat := (0, 0)
  /-- KNEAD moves whose directory entry has been taken over -/
  moved   : List Nat := []
  deriving DecidableEq, Repr

/-- CLX_ENG (Table 12-14). -/
structure ClxEng where
  pairsOk  : BitVec 16 := 0xFFFF
  earlyHwm : Nat := 0
  opsHwm   : Nat := 0
  deriving DecidableEq, Repr

/-- Port states (Table 11-2). -/
inductive PortSt where | disabled | down | train | hello | standby | active | quarantine | dark | retrain
  deriving DecidableEq, Repr

def PortSt.code : PortSt → Nat
  | .disabled => 0 | .down => 1 | .train => 2 | .hello => 3 | .standby => 4 | .active => 5 | .quarantine => 6 | .dark => 7 | .retrain => 8

/-- The fields of a HELLO payload (Table 11-12). -/
structure Hello where
  serial : Word := 0
  port   : Byte := 0
  dir    : Byte := 0
  slot   : Byte := 0
  flags  : Byte := 0
  aqpMaj : Byte := 0
  aqpMin : Byte := 0
  fwMaj  : BitVec 16 := 0
  fwMin  : BitVec 16 := 0
  tag    : Word := 0
  rxNext : BitVec 16 := 0
  hseq   : BitVec 32 := 0
  deriving DecidableEq, Repr

/-- What a flit's message carries, for the reports of R287: a collective message (partition, destination rank, the VC of its operation), a board
request's tag, other traffic. -/
inductive Carried where
  | coll (part dest vc : Nat) (m : CollMsg) | board (tag : Nat) | other
  deriving DecidableEq, Repr

/-- A collective message that waits to be sent again (R325): the port that lost it, 64 where none could take it, and what `Carried.coll` names. -/
structure LostMsg where
  port : Nat
  part : Nat
  dest : Nat
  vc   : Nat
  msg  : CollMsg
  deriving DecidableEq, Repr

/-- A flit waiting or held for replay: VC (8 for a DARK flit), start and end of message, valid bytes, payload. -/
structure TxFlit where
  vc   : Nat
  som  : Bool
  eom  : Bool
  len  : Nat
  data : List Byte
  what : Carried := .other
  deriving DecidableEq, Repr

/-- A fabric port (Tables 11-7 to 11-10, R262–R289). -/
structure Port where
  state    : PortSt := .disabled
  reason   : Nat := 0
  width    : Nat := 0
  lanesOk  : BitVec 4 := 0
  /-- the lanes in use (R263) -/
  lanes    : BitVec 4 := 0
  lport    : Nat := 0
  dir      : Nat := 0xF
  anchor   : Bool := false
  aqpMaj   : Nat := 0
  aqpMin   : Nat := 0
  peerSerial : Word := 0
  peerPort : Nat := 0
  peerDir  : Nat := 0xF
  peerSlot : Nat := 0
  peerAqpMaj : Nat := 0
  peerAqpMin : Nat := 0
  peerFwMaj : Nat := 0
  peerFwMin : Nat := 0
  peerTag  : Word := 0
  plan0    : Word := 0
  plan1    : Word := 0
  laneSym  : Map Nat := []
  laneErr  : Map Nat := []
  cwHist   : Map Nat := []
  crcFail  : Nat := 0
  nakSent  : Nat := 0
  retry    : Nat := 0
  replayHwm : Nat := 0
  linkDown : Nat := 0
  degrade  : Nat := 0
  quar     : Nat := 0
  stall    : Map Nat := []
  txFlits  : Nat := 0
  rxFlits  : Nat := 0
  /-- FLIT_CRC_FAIL and RX_FLITS as the hour of R331 began -/
  crcHour  : Nat := 0
  rxHour   : Nat := 0
  msgLost  : Nat := 0
  /-- messages discarded or refused, counted against the port (R193, R328) -/
  refused  : Nat := 0
  /-- transmitter: next SEQ, held flits with their SEQ, SEQs still to resend, queues per VC, credits per VC, last VC served -/
  txSeq    : Nat := 0
  held     : List (Nat × TxFlit) := []
  resend   : List Nat := []
  nakDue   : Bool := false
  helloDue : Bool := false
  ackDue   : Bool := false
  queue    : List TxFlit := []
  credits  : Map Nat := []
  lastVc   : Nat := 7
  lastCvc  : Nat := 7
  rewinds  : Nat := 0
  /-- a retry storm has sent the port to RETRAIN (R272); the tick at which a port so retrained last returned to ACTIVE; RETRY as the last window of R282
  began -/
  stormed  : Bool := false
  stormAt  : Option Word := none
  retryAt  : Nat := 0
  /-- receiver: next SEQ expected, discarding after a failure, last in-order SEQ, flit buffers held and credits granted per VC, open messages, whole
  messages that wait in the buffer for their engine (R266, R268) -/
  rxNext   : Nat := 0
  rxAny    : Bool := false
  discard  : Bool := false
  rxBuf    : Map Nat := []
  granted  : Map Nat := []
  creditDue : Map Nat := []
  openMsg  : List (Nat × List Byte) := []
  inbox    : List (Nat × List Byte) := []
  /-- discovery -/
  lastHello : Option Hello := none
  seenSent : Bool := false
  discovered : Bool := false
  hseq     : BitVec 32 := 0
  resume   : Bool := false
  attempts : Nat := 0
  /-- the hold of R286, and the reason the port goes DOWN with when it expires; the state and reason the port left as it lost its lanes -/
  holding  : Bool := false
  holdReason : Nat := 6
  before   : PortSt := .active
  beforeReason : Nat := 0
  darkReq  : Bool := false
  darkSent : Bool := false
  darkRcvd : Bool := false
  darkKept : Bool := false
  /-- deep sleep darkens this port, and its exit relights it (R293) -/
  deepDark : Bool := false
  fullTrain : Bool := false
  deriving DecidableEq, Repr

/-- AQP_LASER[k] (Table 17-10). -/
structure Laser where
  pwr0 : Int := 0
  pwr1 : Int := 0
  temp : Nat := 0
  lit0 : Bool := false
  lit1 : Bool := false
  deriving DecidableEq, Repr

/-- An outstanding board-window line of a copy (R193, R290). -/
structure BoardOp where
  tag   : Nat
  tile  : Nat
  copy  : Nat
  addr  : Nat
  index : Nat
  write : Option (List Byte)
  waiting : Bool := false
  deriving DecidableEq, Repr

/-- An event for a host (Table 14-10, device-to-host). -/
inductive Ev where
  | end_ (loaf : BitVec 16) (s : StreamId) (step : BitVec 32) (reason : Nat)
  | fault (tile : Nat) (s : StreamId) (f : FaultReg)
  | partDone (change : BitVec 32) (switched : Nat) (spilled entries : Nat)
  | darkDone (mask : Word)
  | parked (p : Nat) (steps : List (Nat × StreamId × BitVec 32))
  | orphan (p : Nat) (owner : HostPort) (cause : Nat)
  | handoff (outcome : Nat) (oldFw newFw : BitVec 32) (us : Nat)
  deriving DecidableEq, Repr

/-- A response to a message: TYPE, status, SEQ and COOKIE echoed, payload. -/
structure Resp where
  type   : BitVec 16
  status : Nat
  seq    : BitVec 32
  cookie : Word
  part   : Byte
  data   : List Byte := []
  deriving DecidableEq, Repr

/-- A host port (Tables 14-3 to 14-6, 14-8, R359). -/
structure HPort where
  apDie    : BitVec 4 := 4
  apBase   : BitVec 9 := 0
  bar2Rej  : Nat := 0
  evtLost  : Nat := 0
  apWr     : Nat := 0
  evtQ     : List (Nat × Ev) := []
  d2h      : Map (Option (Nat × Ev)) := []
  h2dResp  : Map (Option Resp) := []
  h2dBytes : Map Byte := []
  emuReq   : Map Byte := []
  emuResp  : Option Resp := none
  emuEvt   : Option Ev := none
  evtValid : Bool := false
  bar2     : Map Word := []
  bar2Size : Nat := 64
  /-- MSI-X table entries: address, data with the mask bit at bit 32 (reset masked, PCI Express) -/
  msix     : Map (Word × Word) := []
  msixPend : Word := 0
  d3hot    : Bool := false
  cfg      : Map (BitVec 32) := []
  linkUp   : Bool := false
  width    : Nat := 0
  clocking : Nat := 0
  /-- the port chose SRIS at its last PERST# (R426) -/
  sris     : Bool := false
  inReset  : Bool := true
  aer      : Nat := 0
  reads    : List (Nat × Nat × Nat × Nat × Nat) := []
  deriving DecidableEq, Repr

/-- A CBOR value of a crumb key (Table 13-11): an unsigned integer, a byte string, an array of unsigned integers, an array of integers. -/
inductive Cb where | u (n : Nat) | b (bs : List Byte) | a (xs : List Nat) | z (xs : List Int)
  deriving DecidableEq, Repr

/-- A crumb (Table 13-11): counter, class, syndrome, unit, the tick of detection, its further keys in ascending order. -/
structure Crumb where
  ctr    : Word
  cls    : Nat
  syn    : Nat
  unit   : UnitId
  tick   : Word := 0
  keys   : List (Nat × Cb) := []
  deriving DecidableEq, Repr

/-- A record of the IOD error queue (R337). -/
structure ErrRec where
  cls    : Nat
  syn    : Nat
  unit   : UnitId
  tick   : Word := 0
  keys   : List (Nat × Cb) := []
  deriving DecidableEq, Repr

/-- Crumb delivery (R352–R354) and the error queue (R336, R337). -/
structure CrumbSt where
  ctr      : Word := 0
  lost     : Nat := 0
  i3cLost  : Nat := 0
  escalated : Nat := 0
  dropped  : Nat := 0
  hwm      : Nat := 0
  errQ     : List ErrRec := []
  queueFull : Bool := false
  flashQ   : List Crumb := []
  held     : List Crumb := []
  ring     : List Crumb := []
  fifo     : List Crumb := []
  coalesce : List (Nat × UnitId × Nat × Crumb) := []
  windows  : List (UnitId × Nat × Nat) := []
  deriving DecidableEq, Repr

/-- The configuration block's fields (Table 15-5). -/
structure ConfBlock where
  seq      : BitVec 32 := 0
  portMap  : List Byte := List.replicate 32 0x0F
  anchor   : Byte := 0
  hostMode : Byte := 3
  steward  : Byte := 0
  lease    : BitVec 16 := 100
  digestD  : BitVec 16 := 8
  power    : BitVec 16 := 0
  ownerOff : BitVec 16 := 0
  collectors : List (List Byte) := []
  bytes    : List Byte := []
  deriving DecidableEq, Repr

/-- A firmware image slot (R389, R403): the image it holds, whether it was fully written. -/
structure ImgSlot where
  image    : Option ImageInfo := none
  verified : Bool := false
  deriving DecidableEq, Repr

/-- The boot record (R388). -/
structure BootRec where
  seq       : BitVec 32 := 1
  preferred : Bool := false
  tries     : Nat := 3
  activePack : Bool := false
  crumbHwm  : Word := 0
  deriving DecidableEq, Repr

/-- A transfer in progress (R358, R403). -/
structure Xfer where
  xfer  : BitVec 32
  len   : Nat
  hash  : BitVec 256
  bytes : List Byte := []
  chunks : Nat := 0
  src   : Sender
  deriving DecidableEq, Repr

/-- Boot, flash, fuses, keys and attestation (chapter 15). -/
structure Fw where
  stage    : Nat := 0
  lastErr  : Nat := 0
  rcOnly   : Bool := false
  cfg      : Nat := 0
  slot     : Bool := false
  fallback : Bool := false
  boot     : BootRec := {}
  imgA     : ImgSlot := {}
  imgB     : ImgSlot := {}
  config   : ConfBlock := {}
  copy0    : Option ConfBlock := none
  copy1    : Option ConfBlock := none
  ready    : Bool := false
  handoff  : Bool := false
  /-- the ports under a hold as the last handoff window ended, which the new image trains first (R294) -/
  trainFirst : List Nat := []
  /-- IOD tick at which the handoff window began (R405) -/
  handoffAt : Word := 0
  revoked  : BitVec 4 := 0
  owner    : Option (BitVec 256) := none
  epoch    : Nat := 0
  rb       : Nat := 0
  mr       : Map (BitVec 256) := []
  mlog     : List (Nat × Nat × BitVec 256 × Nat) := []
  mlogLost : Nat := 0
  leafQ    : Nat := 0
  /-- the two copies of the signature state: EPOCH, RESERVED; none: not valid (R399) -/
  sig0     : Option (Nat × Nat) := some (0, 0)
  sig1     : Option (Nat × Nat) := some (0, 0)
  lastSign : Option Word := none
  nonces   : List (BitVec 128) := []
  imgXfer  : Option Xfer := none
  packXfer : Option Xfer := none
  pack     : Pack := factoryPack
  /-- patterns skipped until a new pack is active (Table 13-7) -/
  skipPat  : List Nat := []
  /-- crumbs firmware emits when it next runs: class, syndrome, unit, keys (R385, R386, R473) -/
  due      : List ErrRec := []
  deriving DecidableEq, Repr

/-- CLK_STATUS, CLK_SSC, CLK_DOM (Tables 16-7, 16-8) and the stability judge (R423). -/
structure Clk where
  restarts : Nat := 0
  iodLock  : Bool := false
  xtalOk   : Bool := false
  hold     : Bool := false
  fabref   : Nat := 0
  anchorWait : Bool := false
  ssc      : BitVec 32 := 0
  domSet   : Map Nat := []
  /-- RC cycles the judge has counted since it started (R423) -/
  rcCount  : Nat := 0
  sclkRc   : Bool := true
  deriving DecidableEq, Repr

/-- Power states (Table 16-12). -/
inductive PwrSt where | run | sleepEntry | sleep | waking | deepEntry | deep | deepExit | safe
  deriving DecidableEq, Repr

def PwrSt.code : PwrSt → Nat
  | .run => 0 | .sleepEntry => 1 | .sleep => 2 | .waking => 3 | .deepEntry => 4 | .deep => 5 | .deepExit => 6 | .safe => 7

/-- The power controller (R436–R441). Offsets in 2.5 mV steps below the rated rail. -/
structure Pwr where
  state    : PwrSt := .run
  pinW     : Nat := 0
  offset   : Nat := 0
  overHold : Bool := false
  lowTicks : Nat := 0
  limitCause : Bool := false
  throttleCause : Bool := false
  vinCause : Bool := false
  pace     : Map Nat := []
  /-- the last tick in which the package paced for its power limit (R347) -/
  pacedAt  : Option Word := none
  /-- ticks of the 10 s window in which LIMIT held -/
  paceTicks : Nat := 0
  /-- a warm reset that waits for the deep-sleep exit, and the source of the last one (true: the watchdog) -/
  warmPend : Option Bool := none
  warmSrc  : Bool := false
  deriving DecidableEq, Repr

/-- IOD_SIDEBAND and PWR_TELEM (Tables 17-8, 17-3), the open-drain outputs and the rail monitors. -/
structure Side where
  chatter  : Byte := 0
  level    : Byte := 0
  slotIdx  : BitVec 3 := 0
  slew     : BitVec 2 := 3
  rstCause : Nat := 0
  events   : Nat := 0
  thermtrip : Bool := false
  vinLow   : Bool := false
  railsGood : Bool := true
  /-- every VIN-fed regulator is off after a thermal shutdown (R459) -/
  vinOff   : Bool := false
  slotUnstable : Bool := false
  /-- a slot index stands since the last PKG_RST_N or VAUX power-on (R461); the release of a rail reset samples it again (R421) -/
  sampled  : Bool := false

  vinMv    : Nat := 0
  vinDa    : Nat := 0
  vauxMv   : Nat := 0
  vauxMa   : Nat := 0
  deriving DecidableEq, Repr

/-- The I3C target (R461, R462). -/
structure I3c where
  dyn      : Option (BitVec 7) := none
  ibiEn    : Bool := false
  pidSlot  : BitVec 3 := 0
  msgResp  : Option Resp := none
  ethUp    : Bool := false
  ethSgmii : Bool := false
  deriving DecidableEq, Repr

/-- States of the IEEE 1149.1 TAP controller (R465). -/
inductive TapSt where
  | tlr | rti | selDr | capDr | shDr | ex1Dr | paDr | ex2Dr | upDr | selIr | capIr | shIr | ex1Ir | paIr | ex2Ir | upIr
  deriving DecidableEq, Repr

/-- The TAP: controller, instruction register, its shift stage, the data shift stage, TDO. -/
structure Tap where
  st   : TapSt := .tlr
  ir   : Byte := 0
  idcode : Bool := true
  irSh : Byte := 0
  drSh : BitVec 32 := 0
  tdo  : Bool := false
  /-- the boundary register, one cell for each land of Table 17-5 it covers, in the table's order, and its shift stage -/
  bsr  : BitVec 27 := 0
  bsrSh : BitVec 27 := 0
  deriving DecidableEq, Repr

/-- What has left the package. -/
inductive Out where
  | resp (dest : Sender) (r : Resp)
  | event (port : HostPort) (vector : Nat) (e : Ev)
  | msix (port : HostPort) (vector : Nat)
  | cpl (port : HostPort) (ok poisoned : Bool) (data : List Byte)
  | retryStatus (port : HostPort)
  | dmaRead (port : HostPort) (tag : Nat) (addr len : Nat) (attr : BitVec 2)
  | dmaWrite (port : HostPort) (addr : Nat) (data : List Byte) (attr : BitVec 2)
  | flit (port : Nat) (f : Flit) (lanes : List (Nat × List Byte))
  | openLost (port vc : Nat)
  | coll (port part toRank : Nat) (m : CollMsg)
  | boardReq (port tag : Nat) (r : BoardReq)
  | boardResp (port : Nat) (refused : Bool) (data : List Byte)
  | crumbUdp (c : Crumb)
  | i3c (data : List Byte)
  | ibi (level : Nat)
  | hello (port : Nat) (h : Hello)
  | frame (die k : Nat) (f : Frame)
  | d2dNak (die k : Nat) (ack : Nat)
  deriving DecidableEq, Repr

end Sys2Proof.Machine
end

