-- ==== Sys2Proof/Machine/State.lean ====
section
/-! DEFINITION. The state of the whole package, the reasons a step can stop, and the state right after cold reset. -/

namespace Sys2Proof.Machine

/-- Why the model stops with a fault. -/
inductive Fault where
  /-- Raised by `step` for a command whose unit index names no unit of the package (no such tile, die, port, stack, engine, partition).
  Safe: the hardware has no such command. -/
  | noSuchUnit (kind : String) (index : Nat)
  deriving DecidableEq, Repr

/-- Why the model refuses a command. -/
inductive Refusal where
  /-- A command whose meaning is not modelled. Raised by `exec`. Safe: nothing is claimed of it. -/
  | notModelled (mnemonic : String)
  deriving DecidableEq, Repr

/-- The state of the package. Units are held by global index: tile `144·die + 12·row + column`, physical tile `156·die + m`, stack and update engine
`3·die + l`, Hyirdan module `24·die + k`, gate entry `200·die + i` (die 4 is the IOD), memory byte by its stack-homed address (R187). -/
structure State where
  tile     : Map Tile := []
  tmap     : Map TMap := []
  ptile    : Map PTile := []
  die      : Map Die := []
  stack    : Map Stack := []
  upe      : Map Upe := []
  d2d      : Map D2d := []
  /-- the receiving side of link j of die d at 2·d + j -/
  dlink    : Map DLink := []
  mem      : Map Byte := []
  /-- poisoned 64-byte lines (R203) -/
  poison   : Map Bool := []
  /-- locked lines (R216): line address, tile and stream code, or 576 + engine and journal slot -/
  locks    : List (Nat × Nat × Nat) := []
  part     : Map Part := []
  ptTile   : Map PartTile := []
  loaf     : Map Loaf := []
  runs     : List LoafRun := []
  comb     : List Comb := []
  gens     : List Gen := []
  /-- signals on their way, oldest first (R128) -/
  sigs     : List Sig := []
  ops      : List Op := []
  /-- messages of the early buffer: arrival port, partition, message (R305) -/
  early    : List (Nat × Nat × CollMsg) := []
  clx      : ClxEng := {}
  port     : Map Port := []
  laser    : Map Laser := []
  board    : List BoardOp := []
  /-- messages a link loss took, or that had no port to leave on: port (64 none), partition, destination rank, message (R325) -/
  lost     : List LostMsg := []
  host     : Map HPort := []
  crumb    : CrumbSt := {}
  fw       : Fw := {}
  clk      : Clk := {}
  pwr      : Pwr := {}
  side     : Side := {}
  i3c      : I3c := {}
  tap      : Tap := {}
  gate     : Map Gate := []
  /-- BRW_REPLAY (Table 09-10): POISONED, SKIPPED, REPLAYED -/
  rpPoisoned : Nat := 0
  rpSkipped  : Nat := 0
  rpReplayed : Nat := 0
  /-- IOD reference ticks since cold reset (Table 13-11 key 9) -/
  refTick  : Word := 0
  /-- the safe state of R339 -/
  safeState : Bool := false
  /-- a warm reset has run and its journal replay is due (R229) -/
  replayDue : Bool := false
  /-- the next identifier of an in-flight operation (model's own) -/
  nextId   : Nat := 1
  /-- feeds the opaque free values (model's own, log 5) -/
  freeCtr  : Nat := 0
  /-- what has left the package, oldest first (model's own, log 1) -/
  outbox   : List Out := []
  /-- commands waiting, first in first out -/
  pending  : List Instr := []
  deriving DecidableEq, Repr

/-- The state after cold reset (R5, R144, R207, R233, R328): every register at its reset value, memory with nothing listed, nothing pending. -/
def State.reset : State := {}

end Sys2Proof.Machine
end

