-- ==== Sys2Proof/Machine/Access.lean ====
section
/-! DEFINITION. Named reads and updates of the units of the state, by global index. -/

namespace Sys2Proof.Machine

def State.tileAt (s : State) (i : Nat) : Tile := Map.get {} s.tile i
def State.setTile (s : State) (i : Nat) (x : Tile) : State := { s with tile := Map.put {} s.tile i x }
def State.modTile (s : State) (i : Nat) (g : Tile → Tile) : State := { s with tile := Map.upd {} s.tile i g }

def State.tmapAt (s : State) (i : Nat) : TMap := Map.get {} s.tmap i
def State.setTmap (s : State) (i : Nat) (x : TMap) : State := { s with tmap := Map.put {} s.tmap i x }
def State.modTmap (s : State) (i : Nat) (g : TMap → TMap) : State := { s with tmap := Map.upd {} s.tmap i g }

def State.ptileAt (s : State) (i : Nat) : PTile := Map.get {} s.ptile i
def State.setPtile (s : State) (i : Nat) (x : PTile) : State := { s with ptile := Map.put {} s.ptile i x }
def State.modPtile (s : State) (i : Nat) (g : PTile → PTile) : State := { s with ptile := Map.upd {} s.ptile i g }

def State.dieAt (s : State) (i : Nat) : Die := Map.get {} s.die i
def State.modDie (s : State) (i : Nat) (g : Die → Die) : State := { s with die := Map.upd {} s.die i g }

def State.stackAt (s : State) (i : Nat) : Stack := Map.get {} s.stack i
def State.modStack (s : State) (i : Nat) (g : Stack → Stack) : State := { s with stack := Map.upd {} s.stack i g }

def State.engineAt (s : State) (i : Nat) : Upe := Map.get {} s.upe i
def State.modEngine (s : State) (i : Nat) (g : Upe → Upe) : State := { s with upe := Map.upd {} s.upe i g }

def State.moduleAt (s : State) (i : Nat) : D2d := Map.get {} s.d2d i
def State.setModule (s : State) (i : Nat) (x : D2d) : State := { s with d2d := Map.put {} s.d2d i x }
def State.modModule (s : State) (i : Nat) (g : D2d → D2d) : State := { s with d2d := Map.upd {} s.d2d i g }

def State.dlinkAt (s : State) (i : Nat) : DLink := Map.get {} s.dlink i
def State.setDlink (s : State) (i : Nat) (x : DLink) : State := { s with dlink := Map.put {} s.dlink i x }

def State.partAt (s : State) (i : Nat) : Part := Map.get {} s.part i
def State.setPart (s : State) (i : Nat) (x : Part) : State := { s with part := Map.put {} s.part i x }
def State.modPart (s : State) (i : Nat) (g : Part → Part) : State := { s with part := Map.upd {} s.part i g }

def State.ptTileAt (s : State) (i : Nat) : PartTile := Map.get {} s.ptTile i
def State.setPtTile (s : State) (i : Nat) (x : PartTile) : State := { s with ptTile := Map.put {} s.ptTile i x }
def State.modPtTile (s : State) (i : Nat) (g : PartTile → PartTile) : State := { s with ptTile := Map.upd {} s.ptTile i g }

def State.loafAt (s : State) (i : Nat) : Loaf := Map.get {} s.loaf i
def State.setLoaf (s : State) (i : Nat) (x : Loaf) : State := { s with loaf := Map.put {} s.loaf i x }
def State.modLoaf (s : State) (i : Nat) (g : Loaf → Loaf) : State := { s with loaf := Map.upd {} s.loaf i g }

def State.portAt (s : State) (i : Nat) : Port := Map.get {} s.port i
def State.setPort (s : State) (i : Nat) (x : Port) : State := { s with port := Map.put {} s.port i x }
def State.modPort (s : State) (i : Nat) (g : Port → Port) : State := { s with port := Map.upd {} s.port i g }

def State.laserAt (s : State) (i : Nat) : Laser := Map.get {} s.laser i
def State.modLaser (s : State) (i : Nat) (g : Laser → Laser) : State := { s with laser := Map.upd {} s.laser i g }

def State.hostAt (s : State) (i : Nat) : HPort := Map.get {} s.host i
def State.setHost (s : State) (i : Nat) (x : HPort) : State := { s with host := Map.put {} s.host i x }
def State.modHost (s : State) (i : Nat) (g : HPort → HPort) : State := { s with host := Map.upd {} s.host i g }

def State.gateAt (s : State) (i : Nat) : Gate := Map.get {} s.gate i
def State.setGate (s : State) (i : Nat) (x : Gate) : State := { s with gate := Map.put {} s.gate i x }
def State.modGate (s : State) (i : Nat) (g : Gate → Gate) : State := { s with gate := Map.upd {} s.gate i g }

/-- Stream `st` of tile `n`. -/
def State.streamAt (s : State) (n : Nat) (st : StreamId) : Stream := Map.get {} (s.tileAt n).str st.code

def Tile.streamAt (t : Tile) (st : StreamId) : Stream := Map.get {} t.str st.code

def Tile.modStream (t : Tile) (st : StreamId) (g : Stream → Stream) : Tile := { t with str := Map.upd {} t.str st.code g }

def State.modStream (s : State) (n : Nat) (st : StreamId) (g : Stream → Stream) : State := s.modTile n fun t => t.modStream st g

/-- The streams in the order F, B, U. -/
def allStreams : List StreamId := [.F, .B, .U]

def StreamId.ofCode : Nat → StreamId | 0 => .F | 1 => .B | _ => .U

/-- A fresh identifier for an operation in flight. -/
def State.bumpId (s : State) : State := { s with nextId := s.nextId + 1 }

/-- Adds to what has left the package. -/
def State.emit (s : State) (o : Out) : State := { s with outbox := s.outbox ++ [o] }

/-- Counts of a unit of the package (01, 02, 11). -/
def nTiles : Nat := 576
def nDies : Nat := 4
def nPhys : Nat := 156
def nStacks : Nat := 12
def nPorts : Nat := 64
def nParts : Nat := 8

/-- The die, row and column of a logical tile index. -/
def tileDie (n : Nat) : Nat := n / 144
def tileRow (n : Nat) : Nat := n % 144 / 12
def tileCol (n : Nat) : Nat := n % 12

/-- The physical tile (global index) that serves logical tile `n`, if its map entry is valid (R22). -/
def State.physOf (s : State) (n : Nat) : Option Nat :=
  let e := s.tmapAt n
  if e.valid then some (156 * tileDie n + 13 * e.row + e.col) else none

/-- Applies an update to the physical tile that serves `n`, where there is one. -/
def State.modPhysOf (s : State) (n : Nat) (g : PTile → PTile) : State :=
  match s.physOf n with
  | some m => s.modPtile m g
  | none => s

/-- The partition that owns tile `n`, if one does (Table 14-12). -/
def State.tilePart (s : State) (n : Nat) : Option Nat :=
  let e := s.ptTileAt n
  if e.owned then some e.part else none

/-- Every stream of every tile that has a program: tile, stream. -/
def State.running (s : State) : List (Nat × StreamId) :=
  s.tile.flatMap fun e => (allStreams.filter fun st => (e.2.streamAt st).run).map fun st => (e.1, st)

/-- The running streams of partition `p`. -/
def State.runningOf (s : State) (p : Nat) : List (Nat × StreamId) :=
  s.running.filter fun x => decide ((s.streamAt x.1 x.2).part = p)

end Sys2Proof.Machine
end

