-- ==== Sys2Proof/Machine/Memory.lean ====
section
/-! DEFINITION. Package memory and local store (chapter 08): the address map, ownership, protected regions, 64-byte lines with poison and locks, the
staged view of an open brew (chapter 09), and the writes that other agents' brews see as conflicts (R213). -/

namespace Sys2Proof.Machine

/-- Bytes of one stack (80 GiB). -/
def stackBytes : Nat := 0x1400000000

/-- What a package address names (Table 08-2): a stack-homed byte, a board window of another package, a host window, nothing. -/
inductive Place where
  | mem (a : Nat) | board (i o : Nat) | host (w o : Nat) | nowhere
  deriving DecidableEq, Repr

/-- Die-spread decode (R188). -/
def dieSpread (d o : Nat) : Nat :=
  let g := o / 16384
  (3 * d + g % 3) * stackBytes + g / 3 * 16384 + o % 16384

/-- Package-spread decode (R188). -/
def pkgSpread (o : Nat) : Nat :=
  let g := o / 16384
  g % 12 * stackBytes + g / 12 * 16384 + o % 16384

/-- Decodes a package address on package `pkg` (R187, R188, R192). -/
def place (pkg a : Nat) : Place :=
  if a < 0xF000000000 then .mem a
  else if 0x10000000000 ≤ a ∧ a < 0x20000000000 then
    let o := (a - 0x10000000000) % 0x4000000000
    if o < 0x3C00000000 then .mem (dieSpread ((a - 0x10000000000) / 0x4000000000) o) else .nowhere
  else if 0x20000000000 ≤ a ∧ a < 0x2F000000000 then .mem (pkgSpread (a - 0x20000000000))
  else if 0x100000000000 ≤ a ∧ a < 0x180000000000 then
    let i := (a - 0x100000000000) / 0x10000000000
    let o := (a - 0x100000000000) % 0x10000000000
    if o < 0xF000000000 then (if i = pkg then .mem o else .board i o) else .nowhere
  else if 0x200000000000 ≤ a ∧ a < 0x210000000000 then
    .host ((a - 0x200000000000) / 0x1000000000) ((a - 0x200000000000) % 0x1000000000)
  else .nowhere

/-- The package index read from BOARD_SLOT (R192). -/
def State.pkg (s : State) : Nat := s.side.slotIdx.toNat

/-- HBM_GRAN fields (Table 08-3). -/
def granOwned (w : BitVec 32) : Bool := w.getLsbD 31
def granPart (w : BitVec 32) : Nat := bits w.toNat 30 28
def granPitch (w : BitVec 32) : BitVec 4 := w.extractLsb' 0 4
def granWord (owned : Bool) (p : Nat) (pitch : BitVec 4) : BitVec 32 := BitVec.ofNat 32 (b2n owned * 2 ^ 31 + p * 2 ^ 28 + pitch.toNat)

/-- Stack and granule of a stack-homed byte. -/
def stackOf (a : Nat) : Nat := a / stackBytes
def granOf (a : Nat) : Nat := a % stackBytes / 2 ^ 30

/-- Whether partition `p` may make a new access to a stack-homed byte (R187, R207, Table 14-13). -/
def State.owns (s : State) (p a : Nat) : Bool :=
  let k := s.stackAt (stackOf a)
  let w := Map.get 0 k.gran (granOf a)
  decide (stackOf a < 12) && !k.fenced && granOwned w && decide (granPart w = p) && !Map.get false k.granPend (granOf a)

/-- PART_HWIN fields (Table 08-4). -/
def hwinPages (w : Word × Word) : Nat := bits w.2.toNat 40 16
def hwinValid (w : Word × Word) : Bool := w.2.getLsbD 0
def hwinWr (w : Word × Word) : Bool := w.2.getLsbD 1
def hwinBase (w : Word × Word) : Nat := w.1.toNat / 4096 * 4096
/-- The attributes a window sets on its requests: RO_ATTR in bit 0, NS in bit 1. -/
def hwinAttr (w : Word × Word) : BitVec 2 := w.2.extractLsb' 2 2
def State.hwinAt (s : State) (p w : Nat) : Word × Word := Map.get (0, 0) (s.partAt p).hwin w

/-- The first address of one 16 KiB unit's part `[a, a + len)` that partition `p` may not reach (R187, R192, R194). -/
def State.badIn (s : State) (p a len : Nat) : Option Nat :=
  match place s.pkg a with
  | .mem b => if s.owns p b then none else some a
  | .board i _ => if (s.partAt p).boardMask.getLsbD i then none else some a
  | .host w o =>
    let d := s.hwinAt p w
    if !hwinValid d then some a
    else if hwinPages d * 4096 < o + len then some (a + (hwinPages d * 4096 - o)) else none
  | .nowhere => some a

/-- The 16 KiB pieces of `[a, a + len)`: address and length of each. -/
def pieces (a len : Nat) : List (Nat × Nat) :=
  if len = 0 then []
  else (List.range ((a + len - 1) / 16384 - a / 16384 + 1)).map fun i =>
    let lo := max a ((a / 16384 + i) * 16384)
    let hi := min (a + len) ((a / 16384 + i + 1) * 16384)
    (lo, hi - lo)

/-- The first address of a run of frames that `p` may not reach (MEM_RANGE). -/
def State.firstBad (s : State) (p : Nat) (frames : List (Nat × Nat)) : Option Nat :=
  (frames.flatMap fun f => pieces f.1 f.2).findSome? fun x => s.badIn p x.1 x.2

/-- The 64-byte line addresses of `[a, a + len)`, in package addresses. -/
def lineAddrs (a len : Nat) : List Nat :=
  if len = 0 then [] else (List.range ((a + len - 1) / 64 - a / 64 + 1)).map fun i => (a / 64 + i) * 64

/-- The stack-homed line of a package address, where it decodes to this package's memory. -/
def State.lineOf (s : State) (a : Nat) : Option Nat :=
  match place s.pkg a with
  | .mem b => some (b / 64 * 64)
  | _ => none

/-- The stack-homed lines of a run of frames, in order. -/
def State.linesOf (s : State) (frames : List (Nat × Nat)) : List Nat :=
  (frames.flatMap fun f => lineAddrs f.1 f.2).filterMap s.lineOf

/-- The spread aliases of a stack-homed byte (R188). -/
def aliases (a : Nat) : List Nat :=
  let k := stackOf a
  let o := a % stackBytes
  [a, 0x10000000000 + k / 3 * 0x4000000000 + (o / 16384 * 3 + k % 3) * 16384 + o % 16384,
    0x20000000000 + (o / 16384 * 12 + k) * 16384 + o % 16384]

/-- Whether a stack-homed byte lies in the region of `size` bytes at package address `base`. -/
def inRegion (base size a : Nat) : Bool := (aliases a).any fun x => decide (base ≤ x ∧ x < base + size)

/-- BLD_PCTRL fields (Table 05-3). -/
def Part.hvalid (p : Part) : Bool := p.pctrl.getLsbD 17
def Part.hregion (p : Part) : Nat := bits p.pctrl.toNat 40 18 * 2 ^ 23
def Part.histBase (p : Part) : Int := sext 8 (bits p.pctrl.toNat 15 8)
def Part.lag (p : Part) : Nat := bits p.pctrl.toNat 1 0
/-- BRW_JBASE fields (Table 09-3). -/
def Part.jvalid (p : Part) : Bool := p.jbase.getLsbD 0
def Part.jregion (p : Part) : Nat := bits p.jbase.toNat 47 26 * 2 ^ 26
def journalBytes : Nat := 192 * 2 ^ 20
def healthBytes : Nat := 8 * 2 ^ 20

/-- Sizes and offsets of the regions of a shard block (Table 10-1). -/
def DirEntry.n (d : DirEntry) : Nat := d.nslice.toNat
def DirEntry.vSlice (d : DirEntry) : Nat := if d.vfmt = 1 then 1024 else if d.vfmt = 2 then 16896 else 0
def DirEntry.gOff (d : DirEntry) : Nat := 32768 * d.n
def DirEntry.mOff (d : DirEntry) : Nat := 98304 * d.n
def DirEntry.vOff (d : DirEntry) : Nat := 115200 * d.n
def DirEntry.metaOff (d : DirEntry) : Nat := d.vOff + d.vSlice * d.n
def DirEntry.crustOff (d : DirEntry) : Nat := d.metaOff + roundUp (64 * d.n) 256
def DirEntry.blockSize (d : DirEntry) : Nat := d.crustOff + if d.crust then 32768 * d.n else 0
/-- The stack-homed address of a shard block on the stack of engine `e`. -/
def DirEntry.at_ (d : DirEntry) (e : Nat) : Nat := e * stackBytes + d.base.toNat

/-- Where slice k's frames and META line lie. -/
def DirEntry.wAt (d : DirEntry) (e k : Nat) : Nat := d.at_ e + 32768 * k
def DirEntry.gAt (d : DirEntry) (e k : Nat) : Nat := d.at_ e + d.gOff + 65536 * k
def DirEntry.mAt (d : DirEntry) (e k : Nat) : Nat := d.at_ e + d.mOff + 16896 * k
def DirEntry.vAt (d : DirEntry) (e k : Nat) : Nat := d.at_ e + d.vOff + d.vSlice * k
def DirEntry.metaAt (d : DirEntry) (e k : Nat) : Nat := d.at_ e + d.metaOff + 64 * k
def DirEntry.crustAt (d : DirEntry) (e k : Nat) : Nat := d.at_ e + d.crustOff + 32768 * k

/-- The runs of lines a slice brew reads and writes (R246). -/
def DirEntry.sliceRuns (d : DirEntry) (e k : Nat) : List (Nat × Nat) :=
  [(d.wAt e k, 32768), (d.gAt e k, 65536), (d.mAt e k, 16896), (d.vAt e k, d.vSlice), (d.metaAt e k, 64)] ++ if d.crust then [(d.crustAt e k, 32768)] else []

/-- Whether a line is one of a slice brew's. -/
def DirEntry.sliceHas (d : DirEntry) (e k line : Nat) : Bool := (d.sliceRuns e k).any fun r => decide (r.1 / 64 * 64 ≤ line ∧ line < r.1 + r.2)

/-- Whether a stack-homed byte lies in the G region of a shard that is UPDATING or PARTIAL (R249). -/
def State.inHeldGrad (s : State) (a : Nat) : Bool :=
  (s.engineAt (stackOf a)).dir.any fun x =>
    let d := x.2
    d.valid && decide (d.state = .updating ∨ d.state = .partial_) &&
      decide (d.at_ (stackOf a) + d.gOff ≤ a ∧ a < d.at_ (stackOf a) + d.mOff)

/-- Whether a stack-homed byte lies in a protected region of partition `p` (R189, R249). -/
def State.protectedAt (s : State) (p a : Nat) : Bool :=
  let q := s.partAt p
  (q.hvalid && inRegion q.hregion healthBytes a) || (q.jvalid && inRegion q.jregion journalBytes a) || s.inHeldGrad a

/-- The first address of a run of frames whose write MEM_PROT refuses (R189). -/
def State.firstProt (s : State) (p : Nat) (frames : List (Nat × Nat)) : Option Nat :=
  (frames.flatMap fun f => lineAddrs f.1 f.2).find? fun a =>
    match place s.pkg a with
    | .mem b => s.protectedAt p b
    | .host w _ => hwinValid (s.hwinAt p w) && !hwinWr (s.hwinAt p w)
    | _ => false

/-- Whether every byte of a region lies in granules `p` owns (R108, R224). -/
def State.ownsRegion (s : State) (p base size : Nat) : Bool :=
  (pieces base size).all fun x =>
    match place s.pkg x.1 with
    | .mem b => s.owns p b
    | _ => false

/-! ## Lines of package memory -/

/-- The bytes of a line as memory holds them. -/
def State.memRead (s : State) (a n : Nat) : List Byte := Map.getRange 0 s.mem a n

/-- Writes bytes at a stack-homed address. -/
def State.memWrite (s : State) (a : Nat) (bs : List Byte) : State := { s with mem := Map.putRange 0 s.mem a bs }

def State.poisoned (s : State) (line : Nat) : Bool := Map.get false s.poison line
def State.setPoison (s : State) (line : Nat) (b : Bool) : State := { s with poison := Map.put false s.poison line b }

/-- Reads `n` bytes at a package address of this package's memory, byte by decoded byte; bytes that decode elsewhere read 0. -/
def State.pkgRead (s : State) (a n : Nat) : List Byte :=
  (List.range n).map fun i =>
    match place s.pkg (a + i) with
    | .mem b => Map.get 0 s.mem b
    | _ => 0

/-- Whether a brew has a stack-homed line in its read set or write set (R213). -/
def Brew.touchesExt (b : Brew) (line : Nat) : Bool := b.phase == .open_ && (b.extReads.contains line || b.extLines.contains line)

/-- Whether a local-store write of `[off, off + len)` touches a brew's read lines or write granules. -/
def Brew.touchesLs (b : Brew) (off len : Nat) : Bool :=
  b.phase == .open_ && decide (0 < len) &&
    (b.lsReads.any (fun l => decide (off / 64 ≤ l ∧ l ≤ (off + len - 1) / 64)) ||
     b.lsGran.any (fun g => decide (off / 256 ≤ g ∧ g ≤ (off + len - 1) / 256)))

/-- An engine's slice brews in flight that a write of the lines conflicts with are marked (R213, R226). -/
def Upe.noteWrite (lines : List Nat) (e : Nat) (u : Upe) : Upe :=
  match u.cur with
  | none => u
  | some c =>
    { u with cur := some { c with brews := c.brews.map fun b =>
        { b with conflict := b.conflict || lines.any ((Map.get {} u.dir c.dir).sliceHas e b.slice) } } }

/-- Marks every open brew but the writer's own that holds one of the lines (R213, R214). -/
def State.conflictExt (s : State) (by_ : Option (Nat × StreamId)) (lines : List Nat) : State :=
  { s with upe := Map.mapv {} (Upe.noteWrite lines) s.upe, tile := Map.mapv {} (fun n t =>
      { t with str := Map.mapv {} (fun c x =>
          if by_ != some (n, StreamId.ofCode c) && lines.any x.brew.touchesExt then { x with brew := { x.brew with conflict := true } } else x) t.str }) s.tile }

/-- A whole-line write by an agent: content, poison cleared (R203), conflicts marked. -/
def State.writeLine (s : State) (by_ : Option (Nat × StreamId)) (line : Nat) (bs : List Byte) : State :=
  ((s.memWrite line bs).setPoison line false).conflictExt by_ [line]

/-- A write of bytes at a package address by an agent, through the decode; bytes that decode elsewhere are dropped. A line that is written
whole loses its poison. -/
def State.pkgWrite (s : State) (by_ : Option (Nat × StreamId)) (a : Nat) (bs : List Byte) : State :=
  let dec : List (Nat × Byte) := (List.range bs.length).filterMap fun i =>
    match place s.pkg (a + i) with
    | .mem b => some (b, bs.getD i 0)
    | _ => none
  let s1 := { s with mem := dec.foldl (fun (m : Map Byte) (x : Nat × Byte) => Map.put 0 m x.1 x.2) s.mem }
  let ls : List (Nat × Nat) := (lineAddrs a bs.length).filterMap fun l => (s.lineOf l).map fun d => (l, d)
  let s2 := ls.foldl (fun (s : State) (l : Nat × Nat) => if a ≤ l.1 ∧ l.1 + 64 ≤ a + bs.length then s.setPoison l.2 false else s) s1
  s2.conflictExt by_ (ls.map (·.2))

/-- The lock on a line: tile, stream code (R216). -/
def State.lockOf (s : State) (line : Nat) : Option (Nat × Nat) := (s.locks.find? fun l => decide (l.1 = line)).map (·.2)

/-- Whether a line is locked by a pour: a write by any agent waits (R216). -/
def State.locked (s : State) (line : Nat) : Bool := (s.lockOf line).isSome

/-- Whether a line is locked by another pour than that of `(n, st)`: a read by that stream waits. -/
def State.lockedAgainst (s : State) (n : Nat) (st : StreamId) (line : Nat) : Bool :=
  match s.lockOf line with
  | some x => x != (n, st.code)
  | none => false

/-- Whether a new access to a line is held while its granule's pitch changes (R191). -/
def State.pitchHeld (s : State) (line : Nat) : Bool := (s.stackAt (stackOf line)).pitchPend.any fun x => decide (x.1 = granOf line)

/-! ## Hyirdan links on the way to a stack (R12, R15, R412) -/

/-- The modules of the link a module belongs to (R412). -/
def linkOf (k : Nat) : Nat := if k < 16 then 0 else 1
def linkMods (j : Nat) : List Nat := if j = 0 then List.range 16 else (List.range 8).map (· + 16)

/-- D2D_MOD STATE in service. -/
def D2d.carries (m : D2d) : Bool := !m.retraining && !m.retired && !m.off
def D2d.degraded (m : D2d) : Bool := m.x32 || m.retired

/-- D2D_LINK fields (Table 16-3). -/
def State.linkDegraded (s : State) (die j : Nat) : Nat := ((linkMods j).filter fun k => (s.moduleAt (24 * die + k)).degraded).length
def State.linkServing (s : State) (die j : Nat) : List Nat := (linkMods j).filter fun k => (s.moduleAt (24 * die + k)).carries

/-- The die at the other end of a neighbour link (R412). -/
def neighbour (d : Nat) : Nat := if d % 2 = 0 then d + 1 else d - 1

/-- The links traffic between two dies crosses, each by die and link number (R15, R419): none within a die, the neighbour link of a pair while it is not
fenced, else the two dies' IOD links. -/
def State.linksBetween (s : State) (a b : Nat) : List (Nat × Nat) :=
  if a = b then [] else if b = neighbour a ∧ (s.dieAt a).nbrFenced = false then [(a, 1)] else [(a, 0), (b, 0)]

/-- Whether every link between a die and a stack-homed line has a module in service. -/
def State.linkedTo (s : State) (die line : Nat) : Bool :=
  (s.linksBetween die (stackOf line / 3)).all fun x => !(s.linkServing x.1 x.2).isEmpty

/-! ## Errors of a stack's lines (R203, R205) -/

/-- 24 h of IOD reference ticks. -/
def dayTicks : Nat := 8640000000000

/-- The DRAM row of a stack-homed line. -/
def rowOf (line : Nat) : Nat := Config.dramRow (line % stackBytes / 64 * 64)

/-- A corrected read: CE, and the row's fourth within 24 h makes the row due for repair. -/
def Stack.noteCe (x : Stack) (now : Word) (row : Nat) : Stack :=
  let seen := (x.ceAt.filter fun e => decide (now.toNat < e.2.toNat + dayTicks)) ++ [(row, now)]
  let due := decide (4 ≤ (seen.filter fun e => decide (e.1 = row)).length) && !x.rowsDue.contains row
  { x with ce := satAdd (2 ^ 32 - 1) x.ce, ceAt := seen, rowsDue := if due then x.rowsDue ++ [row] else x.rowsDue }

/-- An uncorrectable read: UE, and its row is due for repair. -/
def Stack.noteUe (x : Stack) (row : Nat) : Stack :=
  { x with ue := satAdd 65535 x.ue, rowsDue := if x.rowsDue.contains row then x.rowsDue else x.rowsDue ++ [row] }

/-- A line read with a corrected error. -/
def State.lineCorrected (s : State) (line : Nat) : State := s.modStack (stackOf line) fun x => x.noteCe s.refTick (rowOf line)

/-- A line read uncorrectable: it is counted and poisoned. -/
def State.spoil (s : State) (line : Nat) : State := (s.modStack (stackOf line) fun x => x.noteUe (rowOf line)).setPoison line true

/-- Reads lines through the stack ECC (R203): corrected reads count, the first uncorrectable one is poisoned, counted and answered. -/
def State.eccRead (s : State) (hw : Hw) (lines : List Nat) : State × Option Nat :=
  let s1 := (lines.filter hw.memCorr.contains).foldl State.lineCorrected s
  match lines.find? fun l => hw.memUncorr.contains l || s.poisoned l with
  | none => (s1, none)
  | some l => (s1.spoil l, some l)

/-- Whether the bank of a line is held by a row repair (R205). -/
def State.bankHeld (s : State) (line : Nat) : Bool :=
  match (s.stackAt (stackOf line)).repair with
  | some r => decide (Config.dramBank r = Config.dramBank (rowOf line))
  | none => false

/-- Whether a new access to a line is held by a pitch change or a row repair. -/
def State.lineHeld (s : State) (line : Nat) : Bool := s.pitchHeld line || s.bankHeld line

/-! ## The local store -/

/-- Bytes of one local store (R185). -/
def lsSize : Nat := 1572864

/-- Local-store bytes as stream `st` reads them: its own staged bytes first (R209). -/
def Tile.lsRead (t : Tile) (st : StreamId) (off n : Nat) : List Byte :=
  let b := (t.streamAt st).brew
  (List.range n).map fun i =>
    match Map.get none b.lsBytes (off + i) with
    | some x => x
    | none => Map.get 0 t.ls (off + i)

/-- Local-store bytes outside every brew (R212). -/
def Tile.lsRaw (t : Tile) (off n : Nat) : List Byte := Map.getRange 0 t.ls off n

/-- A direct write; words written whole lose their error mark. -/
def Tile.lsPut (t : Tile) (off : Nat) (bs : List Byte) : Tile :=
  { t with
    ls := Map.putRange 0 t.ls off bs
    lsBad := t.lsBad.filter fun e => !decide (off ≤ 8 * e.1 ∧ 8 * e.1 + 8 ≤ off + bs.length) }

/-- Marks the open brews of the tile's streams other than `by_` that a local-store write touches. -/
def Tile.conflictLs (t : Tile) (by_ : Option StreamId) (off len : Nat) : Tile :=
  { t with str := Map.mapv {} (fun c x =>
      if by_ != some (StreamId.ofCode c) && x.brew.touchesLs off len then { x with brew := { x.brew with conflict := true } } else x) t.str }

/-- Whether a local-store write is held at the tile because a pour of another stream has begun its lock phase (R215). -/
def Tile.pourHolds (t : Tile) (by_ : Option StreamId) (off len : Nat) : Bool :=
  decide (0 < len) && t.str.any fun e => by_ != some (StreamId.ofCode e.1) && e.2.brew.phase == .poured &&
    e.2.brew.lsGran.any fun g => decide (off / 256 ≤ g ∧ g ≤ (off + len - 1) / 256)

/-- The list without repeats of `xs` and the new elements of `ys`. -/
def addNew (xs ys : List Nat) : List Nat := ys.foldl (fun l y => if l.contains y then l else l ++ [y]) xs

/-- The granules, 64-byte lines or 8-byte words of a byte range. -/
def spanOf (unit off len : Nat) : List Nat :=
  if len = 0 then [] else (List.range ((off + len - 1) / unit - off / unit + 1)).map (off / unit + ·)

/-- A write of stream `st`: staged while its brew is open (R209), otherwise direct. -/
def Tile.lsWrite (t : Tile) (st : StreamId) (off : Nat) (bs : List Byte) : Tile :=
  let b := (t.streamAt st).brew
  if b.phase == .open_ then
    t.modStream st fun x => { x with brew := { b with
      lsBytes := Map.putRange none b.lsBytes off (bs.map some), lsGran := addNew b.lsGran (spanOf 256 off bs.length) } }
  else (t.lsPut off bs).conflictLs (some st) off bs.length

/-- A delivery from outside the stream's program. -/
def Tile.lsDeliver (t : Tile) (off : Nat) (bs : List Byte) : Tile := (t.lsPut off bs).conflictLs none off bs.length

/-- The external write of stream `st` of tile `n`, whole lines: staged while its brew is open, otherwise direct. -/
def State.extWrite (s : State) (n : Nat) (st : StreamId) (line : Nat) (bs : List Byte) : State :=
  let b := (s.streamAt n st).brew
  if b.phase == .open_ then
    s.modStream n st fun x => { x with brew := { b with
      extBytes := Map.putRange none b.extBytes line (bs.map some), extLines := addNew b.extLines [line] } }
  else s.writeLine (some (n, st)) line bs

end Sys2Proof.Machine
end

