-- ==== Sys2Proof/Machine/Report.lean ====
section
/-! DEFINITION. What the package reports: crumbs (chapter 13), the IOD error queue, events to hosts, responses to messages, interrupts (chapter 14). -/

namespace Sys2Proof.Machine

/-! ## Crumbs -/

/-- A CBOR head of major type `mt`, preferred serialisation (R351). -/
def cborHead (mt n : Nat) : List Byte :=
  if n < 24 then [BitVec.ofNat 8 (mt * 32 + n)]
  else if n < 256 then BitVec.ofNat 8 (mt * 32 + 24) :: natBe 1 n
  else if n < 65536 then BitVec.ofNat 8 (mt * 32 + 25) :: natBe 2 n
  else if n < 4294967296 then BitVec.ofNat 8 (mt * 32 + 26) :: natBe 4 n
  else BitVec.ofNat 8 (mt * 32 + 27) :: natBe 8 n

def Cb.encode : Cb → List Byte
  | .u n => cborHead 0 n
  | .b bs => cborHead 2 bs.length ++ bs
  | .a xs => cborHead 4 xs.length ++ xs.flatMap (cborHead 0)
  | .z xs => cborHead 4 xs.length ++ xs.flatMap fun x => if x < 0 then cborHead 1 (-1 - x).toNat else cborHead 0 x.toNat

/-- Places a key in ascending order. -/
def insertKey (k : Nat × Cb) : List (Nat × Cb) → List (Nat × Cb)
  | [] => [k]
  | x :: xs => if k.1 < x.1 then k :: x :: xs else if k.1 = x.1 then k :: xs else x :: insertKey k xs

def sortKeys (ks : List (Nat × Cb)) : List (Nat × Cb) := ks.foldl (fun l k => insertKey k l) []

/-- Every key of a crumb: keys 0–5 and 9 are always present (R351). -/
def Crumb.allKeys (c : Crumb) : List (Nat × Cb) :=
  sortKeys ([(0, .u 1), (1, .b (natLe 8 Config.serial.toNat)), (2, .u c.ctr.toNat), (3, .u c.cls), (4, .u c.syn),
    (5, .a (c.unit.kind :: c.unit.idx)), (9, .u c.tick.toNat)] ++ c.keys)

/-- The CBOR map of a crumb (R351). -/
def Crumb.encode (c : Crumb) : List Byte :=
  cborHead 5 c.allKeys.length ++ c.allKeys.flatMap fun k => cborHead 0 k.1 ++ k.2.encode

/-- Drops one waiting crumb of the flash queue: the oldest C0 if any, else the oldest C1 (R352). -/
def dropOne (q : List Crumb) : Option (List Crumb) :=
  match q.find? (fun c => decide (c.cls = 0)) with
  | some c => some (q.erase c)
  | none => match q.find? (fun c => decide (c.cls = 1)) with
    | some c => some (q.erase c)
    | none => none

/-- A C2 or C3 crumb stands ahead of every waiting C0 and C1 crumb (R352). -/
def placeCrumb (c : Crumb) : List Crumb → List Crumb
  | [] => [c]
  | x :: xs => if 2 ≤ c.cls ∧ x.cls < 2 then c :: x :: xs else x :: placeCrumb c xs

/-- A crumb enters the queue of crumbs waiting for flash (R352). -/
def CrumbSt.enqueue (q : CrumbSt) (c : Crumb) : CrumbSt :=
  if q.flashQ.length < 256 then { q with flashQ := placeCrumb c q.flashQ }
  else if 2 ≤ c.cls then
    match q.flashQ.find? (fun x => decide (x.cls < 2)) with
    | some x => { q with flashQ := placeCrumb c (q.flashQ.erase x), lost := satAdd 65535 q.lost }
    | none => { q with held := q.held ++ [c] }
  else match dropOne (q.flashQ ++ [c]) with
    | some l => { q with flashQ := l, lost := satAdd 65535 q.lost }
    | none => { q with lost := satAdd 65535 q.lost }

/-- Whether a syndrome-specific list is long enough to ask for the size of its crumb; 32 entries a list always fit. -/
def Crumb.long (c : Crumb) : Bool := c.keys.any fun k => match k.2 with | .a xs => decide (32 ≤ k.1 ∧ 32 < xs.length) | _ => false

/-- The keys of the crumbs that carry `c`, whose counter is set: one within 512 bytes, else 32 entries of each list at a time, the further crumbs with
key 19, the counter of the first (R351). -/
def Crumb.pieces (c : Crumb) : List (List (Nat × Cb)) :=
  if !c.long || decide (c.encode.length ≤ 512) then [c.keys]
  else
    let most := c.keys.foldl (fun n k => match k.2 with | .a xs => if 32 ≤ k.1 then max n xs.length else n | _ => n) 0
    (List.range ((most + 31) / 32)).map fun i =>
      (c.keys.map fun k => match k.2 with
        | .a xs => if 32 ≤ k.1 then (k.1, Cb.a ((xs.drop (32 * i)).take 32)) else k
        | _ => k) ++ if i = 0 then [] else [(19, .u c.ctr.toNat)]

/-- Gives one crumb its counter and puts it on its way (R353). The high-water word is rewritten every 4,096 crumbs. -/
def State.sendOne (s : State) (c : Crumb) : State :=
  let q := s.crumb
  let c := { c with ctr := q.ctr }
  let s := { s with crumb := { (q.enqueue c) with ctr := q.ctr + 1 } }
  if q.ctr.toNat % 4096 = 0 then { s with fw := { s.fw with boot := { s.fw.boot with crumbHwm := q.ctr + 1, seq := s.fw.boot.seq + 1 } } }
  else s

/-- Sends a crumb, in as many pieces as its lists take (R351). -/
def State.sendCrumb (s : State) (c : Crumb) : State :=
  ({ c with ctr := s.crumb.ctr }.pieces).foldl (fun (s : State) ks => s.sendOne { c with keys := ks }) s

/-- Keys 6, 7 and 8 of a partition's event; the step of a partition is its oldest open step (log 100). -/
def State.partKeys (s : State) (p : Nat) : List (Nat × Cb) :=
  let q := s.partAt p
  [(6, .u q.oldest), (7, .u p)] ++ if q.job then [(8, .u q.tag.toNat)] else []

/-- Version of the running firmware image (Table 15-13). -/
def Fw.version (f : Fw) : BitVec 32 :=
  match (if f.slot then f.imgB.image else f.imgA.image) with
  | some i => i.fwMajor ++ i.fwMinor
  | none => 0

/-- The unit of R336 that an event falls in: a Hyirdan link with all its modules, a neighbour link with both its ends; a partition's collective events
fall in the collectives engine (log 46). -/
def nestUnit (u : UnitId) (syn : Nat) : UnitId :=
  match u.kind, u.idx with
  | 8, d :: w :: _ => if w = 1 then { kind := 8, idx := [d / 2 * 2, 1] } else { kind := 8, idx := [d, w] }
  | 15, _ => if syn / 256 = 5 ∨ syn = 0x0303 then { kind := 12, idx := [0] } else u
  | _, _ => u

/-- A second event in a unit whose first is still being handled rises one class (R336). -/
def CrumbSt.escalate (q : CrumbSt) (cls syn : Nat) (u : UnitId) : Nat :=
  if q.windows.any (fun w => decide (nestUnit w.1 w.2.2 = nestUnit u syn)) && decide (cls < 3) then cls + 1 else cls

/-- The class of a crumb firmware emits: a C0 event of a unit inside the window of another rises to C1 and counts; a C1 to C3 event was raised as it
entered the error queue (R336). An event of no single unit nests in none (log 46). -/
def State.raised (s : State) (cls syn : Nat) (u : UnitId) : Nat := if cls = 0 ∧ u.kind ≠ 0 then s.crumb.escalate 0 syn u else cls
def State.countRaise (s : State) (rose : Bool) : State :=
  if rose then { s with crumb := { s.crumb with escalated := satAdd (2 ^ 24 - 1) s.crumb.escalated } } else s

/-- Emits a crumb; C0 and C1 crumbs of equal syndrome and unit coalesce within a second (R352). -/
def State.crumbOut (s : State) (cls0 syn : Nat) (u : UnitId) (keys : List (Nat × Cb)) : State :=
  let cls := s.raised cls0 syn u
  let s := s.countRaise (cls != cls0)
  let v := s.fw.version.toNat
  let ks := keys ++ [(12, .u s.fw.pack.id.toNat), (13, .a [bits v 31 16, bits v 15 0])]
  let c : Crumb := { ctr := 0, cls := cls, syn := syn, unit := u, tick := s.refTick, keys := ks }
  if 2 ≤ cls then s.sendCrumb c
  else match s.crumb.coalesce.find? (fun x => decide (x.1 = syn ∧ x.2.1 = u)) with
    | some _ => { s with crumb := { s.crumb with coalesce := s.crumb.coalesce.map fun x =>
        if x.1 = syn ∧ x.2.1 = u then (x.1, x.2.1, x.2.2.1 + 1, c) else x } }
    | none => { (s.sendCrumb c) with crumb := { (s.sendCrumb c).crumb with coalesce := s.crumb.coalesce ++ [(syn, u, 0, c)] } }

/-- The unit of no single part, a logical tile, a physical tile, a loaf, a port … (Table 13-12). -/
def uPackage : UnitId := { kind := 0 }
def uPhys (m : Nat) : UnitId := { kind := 1, idx := [m / 156, m % 156 / 13, m % 13] }
def uTile (n : Nat) : UnitId := { kind := 2, idx := [tileDie n, tileRow n, tileCol n] }
def uLoaf (r : Nat) : UnitId := { kind := 3, idx := [r] }
def uPort (n : Nat) : UnitId := { kind := 4, idx := [n] }
def uStack (k : Nat) : UnitId := { kind := 5, idx := [k] }
def uEngine (e : Nat) : UnitId := { kind := 6, idx := [e / 3, e % 3] }
def uHost (p : HostPort) : UnitId := { kind := 10, idx := [p.idx] }
def uDie (d : Nat) : UnitId := { kind := 13, idx := [d] }
def uRail (d c : Nat) : UnitId := { kind := 14, idx := [d, c] }
def uPart (p : Nat) : UnitId := { kind := 15, idx := [p] }
def uLink (d w k : Nat) : UnitId := { kind := 8, idx := [d, w, k] }
def uOe (k : Nat) : UnitId := { kind := 9, idx := [k] }



/-- An error event arrives at the IOD error queue (R336, R337). A C3 record stands first. -/
def State.errorEvent (s : State) (cls syn : Nat) (u : UnitId) (keys : List (Nat × Cb)) : State :=
  let q := s.crumb
  let c := q.escalate cls syn u
  let q := if c = cls then q else { q with escalated := satAdd (2 ^ 24 - 1) q.escalated }
  let full := decide (64 ≤ q.errQ.length)
  let c := if full && decide (c = 2) then 3 else c
  let r : ErrRec := { cls := c, syn := syn, unit := u, tick := s.refTick, keys := keys }
  let q :=
    if c = 3 then { q with errQ := r :: q.errQ }
    else if full then { q with dropped := satAdd 65535 q.dropped, queueFull := true }
    else { q with errQ := q.errQ ++ [r] }
  let q := { q with hwm := max q.hwm (min 64 q.errQ.length) }
  { s with crumb := if 2 ≤ c then { q with windows := q.windows ++ [(u, c, syn)] } else q }

/-! ## Interrupts and events -/

/-- Raises an MSI-X vector: sent, or pending while its entry is masked (R365). -/
def State.raiseVector (s : State) (p : HostPort) (v : Nat) : State :=
  let h := s.hostAt p.idx
  let e := Map.get ((0, 0x100000000) : Word × Word) h.msix v
  if e.2.getLsbD 32 then s.modHost p.idx fun h => { h with msixPend := h.msixPend ||| (1#64 <<< v) }
  else s.emit (.msix p v)

/-- Whether a host port is in mailbox mode (R366). -/
def State.mailbox (s : State) (p : HostPort) : Bool := s.fw.config.hostMode.getLsbD p.idx

/-- EV_END and EV_PARKED may displace other queued events (R369). -/
def Ev.isEnd : Ev → Bool
  | .end_ .. => true
  | .parked .. => true
  | _ => false

def Ev.isFault : Ev → Bool
  | .fault .. => true
  | _ => false

/-- Places an event in a port's queue (R369): displaced and dropped events count in EVT_LOST. -/
def HPort.queueEvent (h : HPort) (v : Nat) (e : Ev) : HPort :=
  if h.evtQ.length < 255 then { h with evtQ := h.evtQ ++ [(v, e)] }
  else if e.isEnd then
    match h.evtQ.find? (fun x => !x.2.isEnd && !x.2.isFault) with
    | some x => { h with evtQ := h.evtQ.erase x ++ [(v, e)], evtLost := satAdd 65535 h.evtLost }
    | none => { h with evtLost := satAdd 65535 h.evtLost }
  else { h with evtLost := satAdd 65535 h.evtLost }

/-- The lowest device-to-host slot that belongs to the device. -/
def HPort.freeSlot (h : HPort) : Option Nat := (List.range 8).find? fun k => (Map.get none h.d2h k).isNone

/-- Fills a device-to-host slot from the queue where one is free (R367). -/
def State.fillSlot (s : State) (p : HostPort) : State :=
  let h := s.hostAt p.idx
  match h.evtQ, h.freeSlot with
  | (v, e) :: q, some k =>
    ((s.setHost p.idx { h with evtQ := q, d2h := Map.put none h.d2h k (some (v, e)) }).emit (.event p v e)).raiseVector p v
  | _, _ => s

/-- An event for a host: vector 1, or 8 + p for an event of partition p (R365). -/
def State.event (s : State) (p : HostPort) (part : Option Nat) (e : Ev) : State :=
  let v := match part with | some q => 8 + q | none => 1
  let h := s.hostAt p.idx
  let s := s.setHost p.idx (h.queueEvent v e)
  if s.mailbox p && h.evtQ.isEmpty then s.fillSlot p else s

/-- An event for a partition's owner. -/
def State.partEvent (s : State) (p : Nat) (e : Ev) : State := s.event (s.partAt p).owner (some p) e

/-- The steward's host port, where it has one (Table 15-5). -/
def State.stewardPort (s : State) : Option HostPort :=
  if s.fw.config.steward = 0 then some .A else if s.fw.config.steward = 1 then some .B else none

/-! ## Messages -/

/-- Who may send a message (Tables 14-10, 15-9). -/
inductive Right where | steward | owner | any | mgmtOnly | pack | image
  deriving DecidableEq, Repr

/-- Whether a sender holds the steward's rights (R371, R401). -/
def State.isSteward (s : State) : Sender → Bool
  | .port p => decide (s.stewardPort = some p)
  | .mgmt => decide (s.fw.config.steward = 2)
  | .i3c => false

/-- Whether the sender may send a message of this right for the partition it names (R371, R401). -/
def State.permits (s : State) (h : MsgHdr) : Right → Bool
  | .any => true
  | .mgmtOnly => decide (h.src = .mgmt)
  | .steward => s.isSteward h.src
  | .owner => s.isSteward h.src ||
      match h.src with
      | .port p => decide (h.part.toNat < 8) && (s.partAt h.part.toNat).valid && decide ((s.partAt h.part.toNat).owner = p)
      | _ => false
  | .pack => s.isSteward h.src || decide (h.src = .mgmt) || decide (h.src = .i3c)
  | .image => s.isSteward h.src || (decide (h.src = .i3c) && decide (s.fw.stage = 4))

/-- The header and payload bytes the CRC covers (Table 14-7), and the bytes a management signature covers before the nonce. -/
def crcBytes (h : MsgHdr) (type : BitVec 16) : List Byte :=
  [h.major, h.minor, h.part] ++ natLe 2 type.toNat ++ [0, 0] ++ natLe 4 h.length.toNat ++ natLe 4 h.seq.toNat ++
    natLe 8 h.cookie.toNat ++ [0, 0, 0, 0] ++ h.payload

def signedBytes (h : MsgHdr) (type : BitVec 16) : List Byte :=
  [0, h.major, h.minor, h.part] ++ natLe 2 type.toNat ++ [0, 0] ++ natLe 4 h.length.toNat ++ natLe 4 h.seq.toNat ++
    natLe 4 h.crc.toNat ++ natLe 8 h.cookie.toNat ++ [0, 0, 0, 0] ++ h.payload

/-- Payload limit of the sender's framing (Table 14-7; the management datagram of R401; the 1,072 bytes of Table 17-9). -/
def State.payloadLimit (s : State) : Sender → Nat
  | .port p => if s.mailbox p then 4064 else 1312
  | .mgmt => 9216 - 32
  | .i3c => 1040

/-- The owner public key that authenticates management messages (R401): that of the configuration block in force, which must be the enrolled key
once one is enrolled. -/
def State.ownerKey (s : State) : Option (List Byte) :=
  let o := s.fw.config.ownerOff.toNat
  if o = 0 then none
  else
    let k := slice s.fw.config.bytes o 60
    match s.fw.owner with
    | none => some k
    | some h => if sha256 k = h then some k else none

/-- Whether an HSS public key names parameter sets that R392 accepts: L from 1 to 8, an LMS type with M = 32 and an LMOTS type with N = 32, SHA-256 (the
type codes of NIST SP 800-208, PRESUMED, log 101). -/
def hssSetOk (pub : List Byte) : Bool :=
  let v := fun (o : Nat) => leNat (slice pub o 4).reverse
  decide (pub.length = 60 ∧ 1 ≤ v 0 ∧ v 0 ≤ 8 ∧ 5 ≤ v 4 ∧ v 4 ≤ 9 ∧ 1 ≤ v 8 ∧ v 8 ≤ 4)

/-- The verification of an HSS signature (R392). -/
def hssVerify (pub msg sig : List Byte) : Bool := hssSetOk pub && Config.hssVerify pub msg sig

/-- Whether a management message's trailer verifies with an outstanding nonce (R401). -/
def State.trailerOk (s : State) (h : MsgHdr) (type : BitVec 16) : Bool :=
  match h.trailer, s.ownerKey with
  | some t, some k =>
    s.fw.nonces.contains t.nonce && hssVerify k (signedBytes h type ++ natLe 16 t.nonce.toNat) t.sig
  | _, _ => false

/-- Messages a management sender needs no trailer for: CHALLENGE, IDENTITY, MR_READ, and the transfers that carry their own signatures. -/
def needsTrailer (type : BitVec 16) (r : Right) : Bool :=
  !(type == 0x0A00 || type == 0x0A01 || type == 0x0A02) && r != .pack

/-- The messages the I3C target takes (R463): IDENTITY, MR_READ, the PACK and IMAGE transfers. -/
def i3cTakes (type : BitVec 16) : Bool :=
  type == 0x0A01 || type == 0x0A02 || type == 0x00B1 || type == 0x00B2 || type == 0x00B4 || type == 0x0A10 || type == 0x0A11 || type == 0x0A13

/-- The bytes of a response as they stand in a slot, the emulated response area, a datagram or the MSG index: the header of Table 14-7 with OWN 0, MAJOR 1
and MINOR 0, then the payload (R367, R368). -/
def Resp.encode (r : Resp) : List Byte :=
  let a := [1, 0, r.part] ++ natLe 2 r.type.toNat ++ natLe 2 r.status ++ natLe 4 r.data.length ++ natLe 4 r.seq.toNat
  let b := natLe 8 r.cookie.toNat ++ [0, 0, 0, 0]
  [0] ++ a ++ natLe 4 (crc32c (a ++ b ++ r.data)).toNat ++ b ++ r.data

/-- The response to a message goes where the message came from (R367, R370, R401, R463). -/
def State.respond (s : State) (h : MsgHdr) (type : BitVec 16) (status : Nat) (data : List Byte) : State :=
  let r : Resp := { type := type, status := status, seq := h.seq, cookie := h.cookie, part := h.part, data := data }
  match h.src with
  | .port p =>
    let s := s.modHost p.idx fun x =>
      if s.mailbox p then { x with h2dResp := Map.put none x.h2dResp h.slot (some r) } else { x with emuResp := some r }
    (s.emit (.resp h.src r)).raiseVector p 0
  | .mgmt => s.emit (.resp h.src r)
  | .i3c => { s with i3c := { s.i3c with msgResp := some r } }

/-- Whether requests wait: before READY outside recovery, and in a handoff window (R368, R382). -/
def State.requestsWait (s : State) : Bool := (!s.fw.ready && decide (s.fw.stage ≠ 4)) || s.fw.handoff

/-- Streams go on after sleep; a tile whose move under R26 is due stays frozen. -/
def State.unfreeze (s : State) : State :=
  { s with tile := Map.mapv {} (fun n t => { t with frozen := match s.physOf n with | some m => (s.ptileAt m).state == .fenced && t.frozen | none => false }) s.tile }

/-- Proving runs that waited for the end of sleep go on (log 77). -/
def State.resumeRuns (s : State) : State :=
  { s with ptile := Map.mapv {} (fun _ p => { p with run := p.run.map fun r => { r with paused := false } }) s.ptile }

/-- A wake event ends sleep (R433); each completed transition emits PWR_STATE (R435). -/
def State.wakeSleep (s : State) : State :=
  if s.pwr.state = .sleep then { s with pwr := { s.pwr with state := .run } }.unfreeze.resumeRuns.crumbOut 0 0x090F uPackage [] else s

/-- A mailbox request that names a partition wakes the package from sleep (R433). -/
def State.wakeFor (s : State) (h : MsgHdr) : State :=
  match h.src with
  | .port _ => if h.part.toNat < 8 then s.wakeSleep else s
  | _ => s

/-- A request passes the checks of Table 14-9 in their order and then runs `body`, which answers its status, the state it leaves and its data;
a refused request takes no effect (R368). -/
def State.message (s : State) (h : MsgHdr) (type : BitVec 16) (r : Right) (body : State → Nat × State × List Byte) : State :=
  if s.requestsWait && !(decide (h.src = .i3c) && decide (s.fw.stage = 4)) then s
  else
  let s := s.wakeFor h
  if h.major ≠ 1 then s.respond h type 1 []
  else if h.crc ≠ crc32c (crcBytes h type) then s.respond h type 2 []
  else if s.payloadLimit h.src < h.length.toNat ∨ h.length.toNat ≠ h.payload.length then s.respond h type 4 []
  else
    let authFail := decide (h.src = .mgmt) && needsTrailer type r && !s.trailerOk h type
    let s := match h.src, h.trailer with
      | .mgmt, some t => { s with fw := { s.fw with nonces := s.fw.nonces.filter fun x => decide (x ≠ t.nonce) } }
      | _, _ => s
    if authFail then (s.crumbOut 0 0x080B uPackage []).respond h type 5 []
    else if !s.permits h r || (decide (h.src = .i3c) && !i3cTakes type) then s.respond h type 5 []
    else if !s.fw.ready && !(decide (r = .image) && decide (s.fw.stage = 4) && decide (h.src = .i3c)) then s.respond h type 6 []
    else
      let (st, s', d) := body s
      s'.respond h type st d

/-- Status codes of Table 14-9. -/
def stOk : Nat := 0
def stBusy : Nat := 7
def stRange : Nat := 8
def stNoJob : Nat := 9
def stFull : Nat := 10
def stNoLoaf : Nat := 11
def stCycle : Nat := 12
def stDupTile : Nat := 13
def stForeign : Nat := 14
def stDegraded : Nat := 15
def stDupTensor : Nat := 16
def stLate : Nat := 17
def stDupShard : Nat := 18
def stNoCrust : Nat := 19
def stNeighbour : Nat := 20
def stMapInvalid : Nat := 21
def stNotInMap : Nat := 22
def stMapMismatch : Nat := 23
def stProgDigest : Nat := 24
def stDenied : Nat := 5

/-- A refusal by a message's own rule: no effect. -/
def refuse (s : State) (st : Nat) : Nat × State × List Byte := (st, s, [])
/-- Accepted, with the state it leaves. -/
def accept (s : State) : Nat × State × List Byte := (0, s, [])

end Sys2Proof.Machine
end

