-- ==== Sys2Proof/Machine/Loaves.lean ====
section
/-! DEFINITION. Loaves (chapter 02): references, expansion into ranked tiles, membership of a partition, shares of a copy. -/

namespace Sys2Proof.Machine

/-- Whether a reference names a tile (Table 02-7). -/
def refIsTile (r : BitVec 16) : Bool := r.getLsbD 15
def refIndex (r : BitVec 16) : Nat := bits r.toNat 9 0
def refRow (r : BitVec 16) : Nat := bits r.toNat 7 4
def refCol (r : BitVec 16) : Nat := bits r.toNat 3 0
def refTile (r : BitVec 16) : Nat := 144 * bits r.toNat 14 13 + 12 * refRow r + refCol r
/-- The loaf reference of a logical tile. -/
def tileRef (n : Nat) : BitVec 16 := BitVec.ofNat 16 (0x8000 + tileDie n * 8192 + tileRow n * 16 + tileCol n)

/-- A reserved bit set, or a row or column beyond 11 (R130). -/
def refMalformed (r : BitVec 16) : Bool :=
  if refIsTile r then decide (bits r.toNat 12 8 ≠ 0 ∨ 11 < refRow r ∨ 11 < refCol r) else decide (bits r.toNat 14 10 ≠ 0)

/-- The members of a LIST with its continuations, in member order. -/
def listMembers (s : State) : Nat → Nat → List (BitVec 16)
  | 0, _ => []
  | fuel + 1, i =>
    let d := s.loafAt i
    d.members ++ if d.contV then listMembers s fuel d.cont else []

/-- The tiles of a RECT in rank order: by die, row, column (R36). -/
def rectTiles (d : Loaf) : List Nat :=
  ((List.range 4).filter fun x => d.dieMask.getLsbD x).flatMap fun x =>
    (List.range (d.rowHi + 1 - d.rowLo)).flatMap fun r =>
      (List.range (d.colHi + 1 - d.colLo)).map fun c => 144 * x + 12 * (d.rowLo + r) + d.colLo + c

/-- The logical tiles of a loaf in rank order (R36); `fuel` bounds the nesting. A reference to nothing expands to nothing, and so does a bench loaf: its
members are physical tiles that serve no logical tile, ranked by `State.benchTiles`. -/
def expandRef (s : State) : Nat → BitVec 16 → List Nat
  | 0, _ => []
  | fuel + 1, r =>
    if refIsTile r then [refTile r]
    else
      let d := s.loafAt (refIndex r)
      if !d.valid then []
      else if d.kind = 1 then rectTiles d
      else if d.kind = 0 then (listMembers s 1024 (refIndex r)).flatMap (expandRef s fuel)
      else []

/-- The tiles of a loaf in rank order. -/
def State.loafTiles (s : State) (r : BitVec 16) : List Nat := expandRef s 1025 r

/-- The top-level members of a loaf: one for a RECT or a tile (s12 of R37). -/
def State.topMembers (s : State) (r : BitVec 16) : List (BitVec 16) :=
  if refIsTile r || decide ((s.loafAt (refIndex r)).kind ≠ 0) then [r] else listMembers s 1024 (refIndex r)

/-- The index of the top-level member that contains tile `n` (R37). -/
def State.memberIndex (s : State) (r : BitVec 16) (n : Nat) : Nat :=
  (s.topMembers r).findIdx fun m => (s.loafTiles m).contains n

/-- Whether a reference names a tile or an addressable descriptor (R130): not invalid, not a continuation, not a bench loaf. -/
def State.refNames (s : State) (r : BitVec 16) : Bool :=
  !refMalformed r && (refIsTile r || ((s.loafAt (refIndex r)).valid && !(s.loafAt (refIndex r)).isCont && decide (refIndex r < 1020)))

/-- Whether the reference raises FOREIGN for partition `p` (R130): malformed, naming nothing, or with a tile outside the partition. -/
def State.foreign (s : State) (p : Nat) (r : BitVec 16) : Bool :=
  !s.refNames r || !(s.loafTiles r).all fun n => decide (s.tilePart n = some p)

/-- Whether loaf `r` contains loaf or tile `x` at any depth, itself included. -/
def contains (s : State) : Nat → BitVec 16 → BitVec 16 → Bool
  | 0, _, _ => false
  | fuel + 1, r, x => decide (r = x) ||
    (!refIsTile r && decide ((s.loafAt (refIndex r)).kind = 0) && (listMembers s 1024 (refIndex r)).any fun m => contains s fuel m x)

/-- The descriptors whose BUSY is set by runs addressed to loaves that contain them (Table 02-8, R38). -/
def State.loafBusy (s : State) (i : Nat) : Bool :=
  s.runs.any fun r => contains s 1025 r.loaf (BitVec.ofNat 16 i)

/-- Sets BUSY on each listed descriptor from the runs in progress. -/
def State.refreshBusy (s : State) : State :=
  { s with loaf := Map.mapv {} (fun i d => { d with busy := d.valid && s.loafBusy i }) s.loaf }

/-- Whether a tile is absent from every loaf that names it (R26, Table 14-13). -/
def State.tileAbsent (s : State) (n : Nat) : Bool := (s.tileAt n).absent

/-- Sets DEGRADED on each descriptor with an absent member, or a member that has left its partition (R42, Table 14-13). -/
def State.refreshDegraded (s : State) : State :=
  { s with loaf := Map.mapv {} (fun i d =>
      { d with degraded := d.degraded || (d.valid && !d.isCont && decide (d.kind ≠ 2) && (s.loafTiles (BitVec.ofNat 16 i)).any fun n =>
          s.tileAbsent n || decide (s.tilePart n ≠ some d.part)) }) s.loaf }

/-- The NAME_TAG of a reference (0 for a tile). -/
def State.nameTag (s : State) (r : BitVec 16) : Nat := if refIsTile r then 0 else (s.loafAt (refIndex r)).nameTag.toNat

/-- The slices of rank `r` of a loaf of `size` members sharing `n` slices: first slice and count (R39). -/
def share (n size r : Nat) : Nat × Nat :=
  let q := n / size
  let m := n % size
  if r < m then (r * (q + 1), q + 1) else (m * (q + 1) + (r - m) * q, q)

/-- The largest share (R164). -/
def maxShare (n size : Nat) : Nat := if n % size = 0 then n / size else n / size + 1

end Sys2Proof.Machine
end

