-- ==== Sys2Proof/Machine/Streams.lean ====
section
/-! DEFINITION. What happens to a stream other than by its own instructions: signals reaching it, bank ownership, brew spills, faults, the end
of its program (chapters 06, 07, 09, 14). -/

namespace Sys2Proof.Machine

/-- Scalar register read: s0 reads zero (R119). -/
def Stream.readS (x : Stream) (r : Nat) : Word := if r = 0 then 0 else Map.get 0 x.sreg r

/-- Scalar register write: s0 ignores it, s12 to s15 discard it (R119, R37). -/
def Stream.writeS (x : Stream) (r : Nat) (v : Word) : Stream :=
  if r = 0 ∨ 12 ≤ r then x else { x with sreg := Map.put 0 x.sreg r v }

/-- Predicate read: p0 reads 1 (R149). -/
def Stream.readP (x : Stream) (r : Nat) : Bool := if r = 0 then true else Map.get false x.preg r

/-- Predicate write: p0 ignores it (R149). -/
def Stream.writeP (x : Stream) (r : Nat) (v : Bool) : Stream := if r = 0 then x else { x with preg := Map.put false x.preg r v }

/-- The next instruction of a stream. -/
def Stream.advance (x : Stream) : Stream := { x with pc := x.pc + 16, waiting := false }

def Stream.stall (x : Stream) (c : Cause) : Stream := { x with waiting := true, cause := c }

/-- A bank of a tile. -/
def Tile.bankAt (t : Tile) (b : Nat) : Bank := Map.get {} t.bank b
def Tile.modBank (t : Tile) (b : Nat) (f : Bank → Bank) : Tile := { t with bank := Map.upd {} t.bank b f }

/-- Whether an MMA of stream `st` into bank `b` is not yet complete (R134). -/
def Tile.bankInFlight (t : Tile) (st : StreamId) (b : Nat) : Bool :=
  (t.mmaQ ++ t.array).any (fun m => m.stream == st && decide (m.bank = b)) ||
    match t.held with
    | some h => h.mma.stream == st && decide (h.mma.bank = b)
    | none => false

/-- Gives free banks to the acquirers waiting for them, in the order they began waiting (R133). -/
def Tile.grantAcqs (t : Tile) : Tile :=
  t.acqs.foldl (fun t a =>
    if (t.bankAt a.1).owner = none then
      { (t.modBank a.1 fun b => { b with owner := some a.2 }).modStream a.2 Stream.advance with acqs := t.acqs.erase a }
    else t) t

/-- Banks whose owner's program has ended are released once their operations are done (R134). -/
def Tile.freeLeaving (t : Tile) : Tile :=
  ([0, 1].foldl (fun t b =>
    match (t.bankAt b).owner with
    | some st => if (t.bankAt b).leaving && !t.bankInFlight st b then t.modBank b fun k => { k with owner := none, leaving := false } else t
    | none => t) t).grantAcqs

/-- The program of a stream ends: its banks are released, at once or when their operations are done (R134). A bank on its way out counts as owned by no
program: a later program of the same stream waits for it like any other acquirer. -/
def Tile.releaseBanks (t : Tile) (st : StreamId) : Tile :=
  Tile.freeLeaving ([0, 1].foldl (fun t b => if (t.bankAt b).owner = some st then t.modBank b fun k => { k with leaving := true } else t) t)

/-- Whether a stream's program owns a bank (R133, R134). -/
def Bank.ownedBy (b : Bank) (st : StreamId) : Bool := b.owner == some st && !b.leaving

/-! ## Step boundaries -/

/-- The lowest step among the tile's running streams, none where none runs. -/
def Tile.minStep (t : Tile) : Option Nat :=
  (allStreams.filter fun st => (t.streamAt st).run).foldl (fun a st =>
    let x := (t.streamAt st).step.toNat
    match a with | none => some x | some y => some (min x y)) none

/-- Whether every running stream of the tile has stepped out of step `e`. -/
def Tile.hasPassed (t : Tile) (e : Nat) : Bool := match t.minStep with | none => true | some m => decide (e < m)

/-- Whether a counter of a health entry has reached 2^31 (R104). -/
def HealthEntry.full (e : HealthEntry) : Bool := e.cnt.any fun c => decide (2 ^ 31 ≤ c.2)

/-- Entries whose step every stream of the tile has passed, and those with a counter at 2^31, are flushed (R104), while the queue has room. -/
def Tile.flushPassed (t : Tile) : Tile :=
  let go := (t.health.filter fun e => t.hasPassed e.step.toNat || e.full).take (16 - t.flushQ.length)
  { t with health := t.health.filter (fun e => !go.contains e), flushQ := t.flushQ ++ go }

/-- The counters IDLE_CLEAR clears (R142). -/
def Tile.clearIdle (t : Tile) : Tile := { t with idle := [], wait := [], miss := [], xhaz := 0 }

/-- Pending idle clears whose tile step boundary has passed (R122, R142). -/
def Tile.applyIdleClear (t : Tile) : Tile :=
  let due := t.idleClear.filter fun e => t.hasPassed e.toNat
  if due.isEmpty then t else { t.clearIdle with idleClear := t.idleClear.filter fun e => !due.contains e }

/-- What a STEP or the end of a program brings about at the tile (R122): where the lowest step of the running streams, `before` it, has risen, a step
boundary is reached, at tick `now`. -/
def Tile.passBoundary (t : Tile) (now : BitVec 64) (before : Option Nat) : Tile :=
  let risen := match before, t.minStep with | some a, some b => decide (a < b) | _, _ => false
  { t.flushPassed.applyIdleClear with boundaryAt := if risen then some now else t.boundaryAt }

/-! ## Signal counters -/

/-- Serves the waits of one counter in order: those left, those satisfied, the value left (R128). -/
def serveWaits (k : Nat) : List Waiter → Nat → List Waiter × List Waiter × Nat
  | [], v => ([], [], v)
  | w :: ws, v =>
    if w.k = k ∧ w.n ≤ v then
      let r := serveWaits k ws (if w.peek then v else v - w.n)
      (r.1, w :: r.2.1, r.2.2)
    else
      let r := serveWaits k ws v
      (w :: r.1, r.2.1, r.2.2)

/-- A brew notes a WAIT that subtracts (R219, R222). -/
def Brew.noteWait (b : Brew) (k n : Nat) : Brew :=
  if b.phase == .open_ then
    if b.waits.length < 8 then { b with waits := b.waits ++ [(k, n)] } else { b with unreplayable := true }
  else b

/-- A satisfied WAIT completes, and its entry frees. -/
def Tile.finishWait (t : Tile) (w : Waiter) : Tile :=
  { t with sb := t.sb.filter fun e => decide (e.op ≠ w.id) }.modStream w.stream fun x => { x.advance with brew := if w.peek then x.brew else x.brew.noteWait w.k w.n }

/-- Adds to a counter; beyond 65,535 it saturates and sets OVF (R131). -/
def Tile.addSc (t : Tile) (k amount : Nat) : Tile :=
  let c := Map.get {} t.sc k
  let v := c.value.toNat + amount
  if 65535 < v then { t with sc := Map.put {} t.sc k { value := 65535, ovf := true } }
  else
    let (left, done, v') := serveWaits k t.waits v
    done.foldl Tile.finishWait { t with sc := Map.put {} t.sc k { c with value := BitVec.ofNat 16 v' }, waits := left }

/-! ## Brews -/

/-- BRW_CNT[s][c] gains one (Table 09-8). -/
def Tile.countBrew (t : Tile) (st : StreamId) (c : Nat) : Tile :=
  { t with brwCnt := Map.upd 0 t.brwCnt (8 * st.code + c) (satAdd max48 ·) }

/-- The WAITs and ACC.ACQs a stream is in are over, with their entries. -/
def Tile.dropWaits (t : Tile) (st : StreamId) : Tile :=
  { t with
    sb := t.sb.filter fun e => !(e.stream == st && t.waits.any fun w => w.stream == st && decide (w.id = e.op))
    waits := t.waits.filter fun w => w.stream != st
    acqs := t.acqs.filter fun a => a.2 != st }

/-- Forgets what an open brew holds: staging, in-flight copies (R214), signals held back, waits in progress, each with its entry. -/
def Tile.dropBrew (t : Tile) (st : StreamId) (spilled : Bool) : Tile :=
  let gone := ((t.copyQ.filter fun c => c.stream == st && c.inBrew).map (·.id)) ++ (t.streamAt st).brew.held.map (·.id)
  Tile.dropWaits { (t.modStream st fun x => { x with brew := { spilled := spilled } }) with
    copyQ := t.copyQ.filter fun c => !(c.stream == st && c.inBrew)
    sb := t.sb.filter fun e => !(e.stream == st && gone.contains e.op) } st

/-- Releases the line locks of a pour (R216), by owner: a tile with the stream's code, or an engine with a journal slot. -/
def State.unlockAs (s : State) (owner code : Nat) : State := { s with locks := s.locks.filter fun l => !decide (l.2 = (owner, code)) }
def State.unlock (s : State) (n : Nat) (st : StreamId) : State := s.unlockAs n st.code

/-- A spill delivered to the program (R174, R214): status word, depth 0, fetch at the resume point, BRW_TSTAT. -/
def State.spillBrew (s : State) (n : Nat) (st : StreamId) (code user : Nat) : State :=
  let b := (s.streamAt n st).brew
  if b.phase == .idle then s
  else
    let s := s.modTile n fun t => (t.dropBrew st (decide (code ≠ 3))).countBrew st code
    (s.modStream n st fun x =>
      { (x.writeS b.statusReg (BitVec.ofNat 64 (256 * user + code))) with
        pc := b.resume, waiting := false
        tstat := { x.tstat with openPc := b.openPc, user := BitVec.ofNat 8 user, code := BitVec.ofNat 8 code } }).unlock n st

/-- The cause a stream with a program waits for, if it waits (R138, Table 06-2): the first that holds in the order BENCH, CHECK, PEER, COPY, BREW, DEP.
BREW lasts from a spill to the next BREW.OPEN (R214); a stream whose next instruction has not been fetched waits for DEP (R152). -/
def Tile.waitCause (t : Tile) (migrating : Bool) (st : StreamId) : Option Cause :=
  let x := t.streamAt st
  let checked := match t.held with
    | some h => (t.mmaQ.any fun m => m.stream == st) || (t.bankAt h.mma.bank).owner == some st
    | none => false
  if !x.run then none
  else if migrating then some .bench
  else if checked then some .check
  else if x.waiting && (x.cause == .peer || x.cause == .copy) then some x.cause
  else if x.brew.spilled then some .brew
  else if x.waiting then some x.cause
  else if x.fetchBuf.contains (x.pc.toNat / 1024) then none
  else some .dep

/-- TILE_STREAM (Table 06-4). -/
def State.streamWord (s : State) (n : Nat) (st : StreamId) : Word :=
  let x := s.streamAt n st
  let c := (s.tileAt n).waitCause (s.tmapAt n).migrating st
  BitVec.ofNat 64 (x.step.toNat * 2 ^ 32 + b2n x.run * 2 ^ 31 + b2n c.isSome * 2 ^ 30 + (c.getD .host).code * 2 ^ 27 + x.loaf.toNat)

/-- Keys of an event met by a stream: step, partition, tag, PC, NAME_TAG, TILE_STREAM, physical tile (R146, Table 13-11). -/
def State.streamKeys (s : State) (n : Nat) (st : StreamId) (pc : BitVec 48) (detail : Nat) : List (Nat × Cb) :=
  let x := s.streamAt n st
  [(6, .u x.step.toNat), (7, .u x.part)] ++ (if (s.partAt x.part).job then [(8, Cb.u (s.partAt x.part).tag.toNat)] else []) ++
    [(10, .u detail), (14, .u pc.toNat), (15, .u (s.nameTag x.loaf)), (16, .u (s.streamWord n st).toNat)]

/-- Key 21: the physical tile that serves a logical unit. -/
def State.physKey (s : State) (n : Nat) : List (Nat × Cb) :=
  match s.physOf n with
  | some m => [(21, .a [m / 156, m % 156 / 13, m % 13])]
  | none => []

/-- The unit of an error of tile `n`: its physical tile (R336). -/
def State.tileUnit (s : State) (n : Nat) : UnitId := match s.physOf n with | some m => uPhys m | none => uTile n

/-! ## The end of a program -/

/-- The steps EV_PARKED reports: each stream of the partition's tiles. -/
def State.partSteps (s : State) (p : Nat) : List (Nat × StreamId × BitVec 32) :=
  (s.ptTile.filter fun e => e.2.owned && decide (e.2.part = p)).flatMap fun e =>
    allStreams.map fun st => (e.1, st, (s.streamAt e.1 st).step)

/-- A parking or orphaned partition whose streams have all stopped becomes PARKED (R373, R379). -/
def State.checkParked (s : State) (p : Nat) : State :=
  let q := s.partAt p
  if (q.state = .parking ∨ q.state = .orphan) ∧ (s.runningOf p).isEmpty then
    (s.modPart p fun q => { q with state := .parked }).partEvent p (.parked p (s.partSteps p))
  else s

/-- One member of a loaf's program has ended: the run's record, and EV_END with the last member (R38, R372). Reason 4 of any member stands. -/
def State.endMember (s : State) (n : Nat) (st : StreamId) (loaf : BitVec 16) (step : BitVec 32) (reason : Nat) : State :=
  match s.runs.find? (fun r => r.loaf == loaf && r.stream == st && r.left.contains n) with
  | none => s
  | some r =>
    let r' : LoafRun := { r with left := r.left.erase n, reason := if r.reason = 4 then 4 else reason }
    if r'.left.isEmpty then
      ({ s with runs := s.runs.erase r }).refreshBusy.partEvent r.part (.end_ loaf st step r'.reason)
    else { s with runs := s.runs.map fun y => if y = r then r' else y }

/-- The stream has no program any more (R134, R161, R373); where it was the last to lag, the tile reaches a step boundary (R122). -/
def State.endStream (s : State) (n : Nat) (st : StreamId) (reason : Nat) : State :=
  let x := s.streamAt n st
  if !x.run then s
  else
    let before := (s.tileAt n).minStep
    let now := s.refTick
    let s := s.modTile n fun t =>
      ((t.modStream st fun x => { x with run := false, waiting := false, cause := .host, halt := none }).dropWaits st).passBoundary now before
    let s := s.modTile n fun t => t.releaseBanks st
    (s.endMember n st x.loaf x.step reason).checkParked x.part

/-- The syndrome and unit of a hardware fault code (Table 07-5, Table 13-13). -/
def hwSyndrome (code : Nat) : Nat := if code = 0x20 then 0x0007 else if code = 0x21 then 0x0008 else if code = 0x22 then 0x0101 else 0x000D

/-- A halting fault of an instruction (R155), found at issue or later (R157): TILE_FAULT, the brew spilled with code 6 and USER 0xFF, EV_FAULT, the program ended with reason 4;
a hardware error also goes to the error queue (R146, R158). DESIGN CHOICE (log 84): where the fault is found while a BREW.POUR has written its record and
COMMIT is not yet acknowledged, the poured brew spills with code 6 like an open one. -/
def State.haltStream (s : State) (n : Nat) (st : StreamId) (pc : BitVec 48) (code : Nat) (detail : Word) (syn : Nat) : State :=
  let x := s.streamAt n st
  if !x.run then s
  else
    let u := if code = 0x22 then uLoaf x.loaf.toNat else s.tileUnit n
    let keys := s.streamKeys n st pc detail.toNat ++ if code = 0x22 then s.physKey n else []
    let f : FaultReg := { valid := true, code := BitVec.ofNat 8 code, pc := pc, detail := detail }
    let s := (s.spillBrew n st 6 0xFF).modStream n st fun x => { x with fault := f }
    let s := s.partEvent x.part (.fault n st f)
    let s := if 0x20 ≤ code ∧ code ≠ 0x23 then s.errorEvent 2 syn u keys else if code = 0x23 then s.crumbOut 2 syn u keys else s
    s.endStream n st 4

/-- A halting fault with its own syndrome. -/
def State.faultStream (s : State) (n : Nat) (st : StreamId) (pc : BitVec 48) (code : Nat) (detail : Word) : State :=
  s.haltStream n st pc code detail (hwSyndrome code)

/-- The streams whose WAIT on a counter an overflow faults (R131). -/
def State.overflowWaits (s : State) (n k : Nat) : State :=
  ((s.tileAt n).waits.filter fun w => decide (w.k = k)).foldl
    (fun s w => s.faultStream n w.stream (s.streamAt n w.stream).pc 0x0E (BitVec.ofNat 64 k)) s

/-- Adds to counter `k` of tile `n`; an overflow faults the WAITs on it (R128, R131). -/
def State.addCounter (s : State) (n k amount : Nat) : State :=
  let c := Map.get {} (s.tileAt n).sc k
  let s := s.modTile n fun t => t.addSc k amount
  if 65535 < c.value.toNat + amount then s.overflowWaits n k else s

/-- An addition reaches counter `k` of tile `n` (R128, R131), or is held at the network port while the tile migrates (R31). -/
def State.arrive (s : State) (n k amount : Nat) (src : Sig) : State :=
  if (s.tmapAt n).migrating then s.modTile n fun t => { t with deliveries := t.deliveries ++ [{ src with tiles := [n], k := k, amount := amount }] }
  else s.addCounter n k amount

/-- A checker spill (R218–R222): a replay, or delivery to the program when it is unreplayable or two replays have failed. -/
def State.checkerSpill (s : State) (n : Nat) (st : StreamId) : State :=
  let x := s.streamAt n st
  let b := x.brew
  if b.phase == .idle then s
  else if b.unreplayable then
    (s.spillBrew n st 3 0).errorEvent 1 0x000E (s.tileUnit n) (s.streamKeys n st b.openPc 3)
  else if 2 ≤ b.replays then
    (s.spillBrew n st 3 0).errorEvent 2 0x000A (s.tileUnit n) (s.streamKeys n st b.openPc 3)
  else
    let s1 := s.modTile n fun t => (t.dropBrew st false).countBrew st 7
    let s2 := s1.modTile n fun t =>
      b.preV.foldl (fun t v => { t with vreg := Map.putRange 0 t.vreg (128 * v.1) v.2 }) t
    let s2 := b.waits.foldl (fun s w => s.addCounter n w.1 w.2) s2
    let s3 := s2.modStream n st fun y =>
      { y with
        sreg := (List.range 11).foldl (fun m i =>
          Map.put 0 m (i + 1) (Map.get 0 b.preS (i + 1))) y.sreg
        preg := (List.range 7).foldl (fun m i => Map.put false m (i + 1) (b.preP.getLsbD (i + 1))) y.preg
        pc := b.openPc, waiting := false
        brew := { replays := b.replays + 1 } }
    (s3.unlock n st).errorEvent 1 0x0009 (s.tileUnit n) (s.streamKeys n st b.openPc 0)

/-- A stop takes effect where its point is reached: at once at an instruction boundary, or outside any brew for a safe stop (R373). -/
def State.tryHalt (s : State) (n : Nat) (st : StreamId) : State :=
  let x := s.streamAt n st
  match x.halt with
  | some h => if x.run && !h.steps.isSome && (!h.safe || x.brew.phase == .idle) then s.endStream n st h.reason else s
  | none => s

/-- STOP of one stream (R373). A brew whose record is written completes its pour (log 12). -/
def State.stopStream (s : State) (n : Nat) (st : StreamId) (reason : Nat) : State :=
  let x := s.streamAt n st
  if !x.run then s
  else if x.brew.phase == .poured then s.modStream n st fun x => { x with halt := some { reason := reason, safe := true } }
  else (s.spillBrew n st 6 0xFE).endStream n st reason

/-- A safe-point stop of one stream (PARK, orphan policy): at once outside a brew, else after it (R373). -/
def State.parkStream (s : State) (n : Nat) (st : StreamId) (reason : Nat) : State :=
  (s.modStream n st fun x =>
    if x.run && !x.halt.any fun h => h.safe && h.steps.isNone then { x with halt := some { reason := reason, safe := true } } else x).tryHalt n st

end Sys2Proof.Machine
end

