-- ==== Sys2Proof/Machine/Ops.lean ====
section
/-! DEFINITION. The issue of one instruction (chapter 06, 07): fetch, ILLEGAL, guard, brew fences, scoreboard, faults, and then its own effect. -/

namespace Sys2Proof.Machine

/-- What an instruction asks of the machine before it takes effect, computed from its operands and the state. -/
structure Needs where
  /-- starting bits of the offending fields (R150) -/
  ill    : List Nat := []
  /-- a fence instruction of R175 or a case of R210 -/
  fence  : Bool := false
  /-- waits for all entries of the stream -/
  drain  : Bool := false
  /-- register, bank and counter resources (Table 06-1) -/
  reads  : List Res := []
  writes : List Res := []
  /-- local-store byte ranges: offset, length -/
  lsR    : List (Nat × Nat) := []
  lsW    : List (Nat × Nat) := []
  /-- external ranges: package address, length -/
  exR    : List (Nat × Nat) := []
  exW    : List (Nat × Nat) := []
  /-- fault conditions met: code, DETAIL -/
  faults : List (Nat × Word) := []
  /-- a stall of the instruction's own unit, with its cause -/
  stall  : Option Cause := none
  /-- a spill the instruction itself brings about -/
  spill  : Option Nat := none
  isMma  : Bool := false
  /-- the local-store ranges are read after issue, by an engine (R157) -/
  late   : Bool := false
  /-- makes an open brew unreplayable (R222) -/
  unreplay : Bool := false
  /-- reads the brew's staging, as a pour does (R218) -/
  staging : Bool := false
  /-- the operation a ninth issue to an engine waits for (R179) -/
  ninth  : Option Nat := none
  deriving DecidableEq, Repr

/-- What becomes of an instruction that reaches issue. -/
inductive Verdict where
  /-- the stream has no program, or is inside a WAIT, an ACC.ACQ or a pour: nothing is due to issue -/
  | idle
  | wait (c : Cause)
  | fault (code : Nat) (detail : Word)
  | spill (code : Nat)
  /-- a staged word failed its check (R218) -/
  | check
  /-- guard false (R149) -/
  | skip
  | run
  deriving DecidableEq, Repr

/-- Overlap of two resources of Table 06-1. -/
def Res.overlaps : Res → Res → Bool
  | .s a, .s b => decide (a = b)
  | .p a, .p b => decide (a = b)
  | .v a, .v b => decide (a = b)
  | .acc a, .acc b => decide (a = b)
  | .sc a, .sc b => decide (a = b)
  | .ls a b, .ls c d => decide (a ≤ d ∧ c ≤ b)
  | .ext a b, .ext c d => decide (a ≤ d ∧ c ≤ b)
  | _, _ => false

def Res.isAcc : Res → Bool
  | .acc _ => true
  | _ => false

/-- A resource that other streams' use of counts in TILE_XHAZ (R126). -/
def Res.crosses : Res → Bool
  | .v _ => true
  | .ls .. => true
  | _ => false

def anyOverlap (xs ys : List Res) : Bool := xs.any fun x => ys.any x.overlaps

/-- The granules of a local-store range. -/
def lsRes (r : Nat × Nat) : List Res := if r.2 = 0 then [] else [.ls (r.1 / 256) ((r.1 + r.2 - 1) / 256)]

/-- The 16 KiB units of an external range, after decoding (R188); a window's units keep their package address. -/
def State.extRes (s : State) (r : Nat × Nat) : List Res :=
  (pieces r.1 r.2).map fun x =>
    match place s.pkg x.1 with
    | .mem b => .ext (b / 16384) (b / 16384)
    | _ => .ext (x.1 / 16384) (x.1 / 16384)

def Needs.allReads (g : Needs) (s : State) : List Res := g.reads ++ g.lsR.flatMap lsRes ++ g.exR.flatMap s.extRes
def Needs.allWrites (g : Needs) (s : State) : List Res := g.writes ++ g.lsW.flatMap lsRes ++ g.exW.flatMap s.extRes

/-- Whether an entry holds back an instruction with these resources (R124). -/
def SbEntry.blocks (e : SbEntry) (reads writes : List Res) (mma : Bool) : Bool :=
  let w := if mma && e.isMma then writes.filter fun r => !r.isAcc else writes
  anyOverlap reads e.writes || anyOverlap w e.reads || anyOverlap w e.writes

/-- The cause of a stream several conditions hold back: the first in the order BENCH, CHECK, PEER, COPY, BREW, DEP (R138). -/
def firstCause (cs : List Cause) : Cause :=
  (([.bench, .check, .peer, .copy, .brew] : List Cause).find? fun c => cs.contains c).getD .dep

/-- The cause of a wait on several entries. -/
def worstCause (es : List SbEntry) : Cause := firstCause (es.map (·.cause))

/-- The entries of a stream. -/
def Tile.entriesOf (t : Tile) (st : StreamId) : List SbEntry := t.sb.filter fun e => e.stream == st

/-- The entries that hold back an instruction of stream `st`. -/
def Tile.blockers (t : Tile) (st : StreamId) (reads writes : List Res) (mma : Bool) : List SbEntry :=
  (t.entriesOf st).filter fun e => e.blocks reads writes mma

/-- The stream's earlier instructions that write local store, external memory, another tile or a bank and are not complete (R129). -/
def Tile.pendingWrites (t : Tile) (st : StreamId) : List SbEntry :=
  (t.entriesOf st).filter fun e => e.remote || e.writes.any fun r => match r with | .ls .. => true | .ext .. => true | .acc _ => true | _ => false

/-- Whether an entry is available to the stream (R125): 64 in all, 8 reserved for each stream. -/
def Tile.sbRoom (t : Tile) (st : StreamId) : Bool :=
  let own := (t.entriesOf st).length
  let others := (allStreams.filter (· != st)).foldl (fun n x => n + max 8 (t.entriesOf x).length) 0
  decide (own < 48) && (decide (own < 8) || decide (own + others < 64))

/-- Bytes of one slice in local store and of its scale plane (Table 07-10). -/
def sliceBytes (f : Nat) : Nat := if f = 11 then 262144 else if f = 12 then 32768 else fmtWidth f * 2048
def planeBytes (f : Nat) : Nat := if isMx f then 512 else 0

/-- The local-store ranges an MMA reads. -/
def Mma.ranges (m : Mma) : List (Nat × Nat) :=
  [(256 * m.toff, sliceBytes m.tfmt), (256 * m.tsoff, planeBytes m.tfmt), (256 * m.soff, sliceBytes m.sfmt), (256 * m.ssoff, planeBytes m.sfmt)]

/-- The ranges reserved while a check failure is settled (R58). -/
def Tile.heldRes (t : Tile) : List Res :=
  match t.held with
  | some h => h.mma.ranges.flatMap lsRes
  | none => []

/-- The lowest fault code met (R156). DESIGN CHOICE (log 85): of several faults of one code the first of the list gives DETAIL. -/
def lowestFault : List (Nat × Word) → Option (Nat × Word)
  | [] => none
  | f :: fs =>
    match lowestFault fs with
    | none => some f
    | some g => if g.1 < f.1 then some g else some f

/-- The lowest starting bit of the offending fields (R150). -/
def lowestBit : List Nat → Option Nat
  | [] => none
  | b :: bs => match lowestBit bs with | none => some b | some c => some (min b c)

/-- The first local-store word of the ranges that fails its check beyond correction (R186). -/
def Tile.badWord (t : Tile) (hw : Hw) (rs : List (Nat × Nat)) : Option Nat :=
  (rs.flatMap fun r => spanOf 8 r.1 r.2).find? fun w => hw.lsUncorr.contains w || Map.get false t.lsBad w

/-- New granules, lines and read lines an instruction would add to its brew. -/
def State.brewNeeds (s : State) (n : Nat) (st : StreamId) (g : Needs) : Nat × Nat × Nat :=
  let b := (s.streamAt n st).brew
  let news (old xs : List Nat) : Nat := (addNew old xs).length - old.length
  (news b.lsGran (g.lsW.flatMap fun r => spanOf 256 r.1 r.2), news b.extLines (s.linesOf g.exW), news b.extReads (s.linesOf g.exR))

/-- The pool of a tile in use by its three streams' brews (R211): granules, write lines, read lines. -/
def Tile.pool (t : Tile) : Nat × Nat × Nat :=
  allStreams.foldl (fun a st =>
    let b := (t.streamAt st).brew
    (a.1 + b.lsGran.length, a.2.1 + b.extLines.length, a.2.2 + b.extReads.length)) (0, 0, 0)

/-- Whether an instruction would take its brew past a limit of Table 09-1. -/
def State.brewOver (s : State) (n : Nat) (st : StreamId) (g : Needs) : Bool :=
  let (a, b, c) := s.brewNeeds n st g
  let (x, y, z) := (s.tileAt n).pool
  decide (1024 < x + a ∨ 4096 < y + b ∨ 8192 < z + c)

/-- The granules a brew of the tile has staged hold a word. -/
def Brew.stagesWord (b : Brew) (w : Nat) : Bool := b.phase == .open_ && b.lsGran.contains (w / 32)

/-- Whether staging fails a check beyond correction (R218): a word of a granule newly staged and only partly written (R209), a word read in a granule
already staged, a granule or line a pour reads. -/
def State.stageBad (s : State) (n : Nat) (st : StreamId) (hw : Hw) (g : Needs) : Bool :=
  let t := s.tileAt n
  let b := (t.streamAt st).brew
  (g.lsW.any fun r =>
    ((spanOf 256 r.1 r.2).filter fun k => !b.lsGran.contains k && !decide (r.1 ≤ 256 * k ∧ 256 * k + 256 ≤ r.1 + r.2)).any fun k =>
      (t.badWord hw [(256 * k, 256)]).isSome) ||
  (!g.late && (g.lsR.flatMap fun r => spanOf 8 r.1 r.2).any fun w => b.stagesWord w && hw.lsUncorr.contains w) ||
  (g.staging && ((hw.lsUncorr.any b.stagesWord) || b.extLines.any hw.memUncorr.contains))

/-- The first local-store word outside the stream's staging that an instruction reads and that fails its check (R186). -/
def Tile.badRead (t : Tile) (i : Issue) (g : Needs) : Option Nat :=
  if g.late then none
  else (g.lsR.flatMap fun r => spanOf 8 r.1 r.2).find? fun w =>
    !(t.streamAt i.stream).brew.stagesWord w && (i.hw.lsUncorr.contains w || Map.get false t.lsBad w)

/-! ## Fetch (R152) -/

/-- Whether a stream has an instruction due to issue: it runs, its tile is present and not frozen, no fault of it waits to be recorded (R157), and it is
not inside a WAIT, an ACC.ACQ or a pour. -/
def State.due (s : State) (n : Nat) (st : StreamId) : Bool :=
  let t := s.tileAt n
  let x := t.streamAt st
  x.run && !t.absent && !(s.tmapAt n).migrating && !t.frozen && !(t.deferred.any fun d => d.stream == st) && !(t.waits.any fun w => w.stream == st) &&
    !(t.acqs.any fun a => a.2 == st) && x.brew.phase != .poured

/-- The lines of a 1 KiB block of instructions. -/
def State.blockLines (s : State) (b : Nat) : List Nat := s.linesOf [(1024 * b, 1024)]

/-- Whether the block can be fetched now: in the stream's partition memory, no line of it locked by another pour or held (R191, R205, R216). -/
def State.mayFetch (s : State) (n : Nat) (st : StreamId) (b : Nat) : Bool :=
  let ls := s.blockLines b
  decide (ls.length = 16) && ls.all fun l => s.owns (s.streamAt n st).part l && !s.lockedAgainst n st l && !s.lineHeld l

/-- The blocks the buffer fetches next: that of the PC and the two after it, as far as they are not held yet and can be fetched. -/
def State.missing (s : State) (n : Nat) (st : StreamId) : List Nat :=
  let x := s.streamAt n st
  let b := x.pc.toNat / 1024
  [b, b + 1, b + 2].filter fun k => !x.fetchBuf.contains k && s.mayFetch n st k

/-- The lines a fetch adds to the read set of an open brew (R209). -/
def State.fetchNews (s : State) (n : Nat) (st : StreamId) : List Nat :=
  let b := (s.streamAt n st).brew
  if b.phase == .open_ then ((s.missing n st).flatMap s.blockLines).filter fun l => !b.extReads.contains l else []

/-- Whether a fetch would take the brew past its read set (R211). -/
def State.fetchOver (s : State) (n : Nat) (st : StreamId) : Bool :=
  let new := s.fetchNews n st
  !new.isEmpty && decide (8192 < (s.tileAt n).pool.2.2 + new.length)

/-- The buffer with a block fetched: eight blocks in all, the one used least recently replaced. -/
def Stream.putBlock (x : Stream) (b : Nat) : Stream := { x with fetchBuf := (b :: x.fetchBuf.filter fun k => decide (k ≠ b)).take 8 }

/-- One line of a block is read through the stack's ECC (R203); a line that fails is kept as such in the buffer. -/
def State.fetchLine (n : Nat) (st : StreamId) (hw : Hw) (s : State) (l : Nat) : State :=
  let r := s.eccRead hw [l]
  r.1.modStream n st fun x =>
    { x with
      fetchBad := (x.fetchBad.filter fun k => decide (k ≠ l)) ++ r.2.toList
      brew := if x.brew.phase == .open_ then { x.brew with extReads := addNew x.brew.extReads [l] } else x.brew }

/-- The fetch buffer as it is used at `pc`: the blocks it holds of `pc`'s and the two after it are the most recently used. -/
def touchFetch (buf : List Nat) (pc : Nat) : List Nat :=
  let near := fun (x : Nat) => decide (pc / 1024 ≤ x ∧ x ≤ pc / 1024 + 2)
  ([pc / 1024, pc / 1024 + 1, pc / 1024 + 2].filter buf.contains) ++ buf.filter fun x => !near x

/-- A block is fetched: its lines are read, and it takes its place in the buffer. -/
def State.fetchBlock (i : Issue) (s : State) (b : Nat) : State :=
  ((s.blockLines b).foldl (State.fetchLine i.tile i.stream i.hw) s).modStream i.tile i.stream fun x => x.putBlock b

/-- What the fetch buffer of a stream due to issue does first: it fetches the blocks it lacks. -/
def State.fetch (s : State) (i : Issue) : State :=
  match s.missing i.tile i.stream with
  | [] => s
  | bs =>
    if !s.due i.tile i.stream || s.fetchOver i.tile i.stream then s
    else bs.foldl (State.fetchBlock i) (s.modStream i.tile i.stream fun x => { x with fetchBuf := touchFetch x.fetchBuf x.pc.toNat })

/-! ## The verdict -/

/-- What keeps an instruction whose guard holds from issuing, besides its faults (R123, R125, R138, Table 06-2). While a scalar register it reads is
still to be written its operands are not known, and only that wait and those of a drain are. A write meets a lock of any pour, its own stream's too, but for
one that an open brew stages (R209, R216). DESIGN CHOICE (log 83): a write into a range reserved
under R58 waits as for any other hazard, cause DEP, where Table 06-2 gives its stream no CHECK of its own. -/
def waitsFor (i : Issue) (g : Needs) (s : State) : List Cause :=
  let t := s.tileAt i.tile
  let x := t.streamAt i.stream
  let rs := g.allReads s
  let ws := g.allWrites s
  let staged := x.brew.phase == .open_
  let scalars := (t.blockers i.stream (g.reads.filter fun r => match r with | .s _ => true | _ => false) [] false).map (·.cause)
  let drains := if g.drain then (t.entriesOf i.stream).map (·.cause) ++ (if x.opsOut.isEmpty then [] else [.peer]) else []
  if !scalars.isEmpty then scalars ++ drains
  else
    drains ++ g.stall.toList ++ (t.blockers i.stream rs ws g.isMma).map (·.cause) ++
    (if (rs.isEmpty && ws.isEmpty) || t.sbRoom i.stream then [] else [.dep]) ++
    (if !staged && anyOverlap ws t.heldRes then [.dep] else []) ++
    (if (s.linesOf g.exR).any (fun l => s.lockedAgainst i.tile i.stream l || s.lineHeld l) ||
        (s.linesOf g.exW).any (fun l => (!staged && s.locked l) || s.lineHeld l) then [.copy] else []) ++
    (if !staged && g.lsW.any (fun r => t.pourHolds (some i.stream) r.1 r.2) then [.copy] else [])

/-- The faults an instruction with its operands at hand raises (R155, R156, R186). -/
def faultsOf (i : Issue) (g : Needs) (s : State) : Option (Nat × Word) :=
  lowestFault (g.faults ++ match (s.tileAt i.tile).badRead i g with | some w => [(0x21, BitVec.ofNat 64 (8 * w))] | none => [])

/-- The fate of an instruction that is due, its block fetched. -/
def verdictOf (i : Issue) (g : Needs) (s : State) : Verdict :=
  let t := s.tileAt i.tile
  let x := t.streamAt i.stream
  let line := s.lineOf x.pc.toNat
  let inBrew := x.brew.phase == .open_
  let guardWaits := t.blockers i.stream [.p i.word.guard.toNat] [] false
  if inBrew && x.brew.conflict then .spill 1
  else if !(match line with | some l => s.owns x.part l | none => false) then .fault 0x05 (BitVec.ofNat 64 x.pc.toNat)
  else if inBrew && s.fetchOver i.tile i.stream then .spill 2
  else if !x.fetchBuf.contains (x.pc.toNat / 1024) then .wait .copy
  else if (match line with | some l => x.fetchBad.contains l | none => false) then .fault 0x22 (BitVec.ofNat 64 x.pc.toNat)
  else match lowestBit g.ill with
  | some b => .fault 0x01 (BitVec.ofNat 64 b)
  | none =>
    if !guardWaits.isEmpty then .wait (worstCause guardWaits)
    else if x.readP i.word.guard.toNat = i.word.gneg then .skip
    else if inBrew && g.fence then .spill 4
    else match waitsFor i g s with
    | c :: cs => .wait (firstCause (c :: cs))
    | [] =>
      match g.spill with
      | some c => .spill c
      | none =>
        match faultsOf i g s with
        | some f => .fault f.1 f.2
        | none =>
          if inBrew && s.brewOver i.tile i.stream g then .spill 2
          else if inBrew && s.stageBad i.tile i.stream i.hw g then .check
          else .run

/-- The fate of an instruction at issue. A stream with no program, or one whose instruction is not due, does nothing; one whose tile migrates or is
frozen waits for BENCH. -/
def verdict (i : Issue) (g : Needs) (s : State) : Verdict :=
  let t := s.tileAt i.tile
  if !(t.streamAt i.stream).run || t.absent then .idle
  else if (s.tmapAt i.tile).migrating || t.frozen then .wait .bench
  else if !s.due i.tile i.stream then .idle
  else verdictOf i g (s.fetch i)

/-! ## Deliveries from other tiles -/

/-- Whether a code carries scales: an MX format, or BLEND, whose plane may be used. -/
def scaled (f : Nat) : Bool := isMx f || decide (f = 12)

/-- The local-store ranges of `slices` slices at slice and scale-plane offsets in units of 256 bytes. -/
def lsRun (off soff slices f : Nat) : List (Nat × Nat) :=
  [(256 * off, slices * sliceBytes f), (256 * soff, if scaled f then slices * 512 else 0)]

/-- The slices of this tile's own part of a copy addressed to a loaf (0 where it is no member). -/
def Copy.shareOf (c : Copy) (n : Nat) : Nat := match c.members.findIdx? (fun x => decide (x = n)) with | some r => (share c.count c.members.length r).2 | none => 0

/-- The local-store ranges a copy delivers into on tile `m`. -/
def Copy.delivers (c : Copy) (m : Nat) : List (Nat × Nat) :=
  match c.dir with
  | .in_ => lsRun c.loff c.lsoff (c.shareOf m) c.lfmt
  | .tt => lsRun c.dst c.dstS (c.shareOf m) c.mfmt
  | .out => []

/-- Overlaps of an issuing instruction with what other streams' instructions in flight write, or read where it writes, and with what copies of other
tiles are delivering (R126). -/
def State.crossing (s : State) (i : Issue) (rs ws : List Res) : Bool :=
  let mine := (rs ++ ws).filter Res.crosses
  let put := ws.filter Res.crosses
  ((s.tileAt i.tile).sb.any fun e => e.stream != i.stream && (anyOverlap mine e.writes || anyOverlap put e.reads)) ||
    s.tile.any fun e => e.1 != i.tile && e.2.copyQ.any fun c => anyOverlap mine ((c.delivers i.tile).flatMap lsRes)

/-- TILE_XHAZ of the other tiles a copy just issued delivers into: one for each instruction in flight there that uses a granule it writes (R126). -/
def State.noteDelivery (s : State) (n : Nat) (c : Copy) : State :=
  (c.members.filter fun m => decide (m ≠ n)).foldl (fun (s : State) m =>
    let rs := (c.delivers m).flatMap lsRes
    let k := ((s.tileAt m).sb.filter fun e => anyOverlap rs (e.reads ++ e.writes)).length
    if k = 0 then s else s.modTile m fun t => { t with xhaz := satAdd max48 t.xhaz k }) s

/-- An open brew's log after an issue: its read set, the pre-images of the vector registers written, whether it can still be replayed. -/
def State.brewAfter (s : State) (i : Issue) (g : Needs) : Brew :=
  let t := s.tileAt i.tile
  let x := t.streamAt i.stream
  let b := x.brew
  let vs := ((g.allWrites s).filterMap fun r => match r with | .v n => some n | _ => none).filter fun n => !(b.preV.any fun p => decide (p.1 = n))
  if b.phase == .open_ then
    { b with
      lsReads := addNew b.lsReads (g.lsR.flatMap fun r => spanOf 64 r.1 r.2)
      extReads := addNew b.extReads (s.linesOf g.exR)
      preV := b.preV ++ vs.map fun n => (n, Map.getRange 0 t.vreg (128 * n) 128)
      unreplayable := b.unreplayable || g.unreplay }
  else b

/-- The stream after an issue, before the instruction's own effect: the next PC, the fetch buffer, the brew log. -/
def Stream.afterIssue (b : Brew) (x : Stream) : Stream := { x.advance with brew := b, fetchBuf := touchFetch x.fetchBuf x.pc.toNat }

/-- The tile after an issue: the stream, and the counters of overlaps and of the scoreboard. -/
def Tile.afterIssue (t : Tile) (st : StreamId) (b : Brew) (cross entry : Bool) : Tile :=
  { (t.modStream st (Stream.afterIssue b)) with
    xhaz := if cross then satAdd max48 t.xhaz else t.xhaz
    sbHwm := if entry then max t.sbHwm (min 64 (t.sb.length + 1)) else t.sbHwm }

/-- Local-store words an issue reads with a corrected error (R186). -/
def corrected (i : Issue) (g : Needs) : Nat := if g.late then 0 else ((g.lsR.flatMap fun r => spanOf 8 r.1 r.2).filter i.hw.lsCorr.contains).length

/-- What every issuing instruction does beside its own effect: the fetch, the brew's read set and pre-images, corrected words, the counters
of overlaps and of the scoreboard, and the advance of the PC. -/
def begin_ (i : Issue) (g : Needs) (s0 : State) : State :=
  let s := s0.fetch i
  let rs := g.allReads s
  let ws := g.allWrites s
  (s.modTile i.tile fun t => t.afterIssue i.stream (s.brewAfter i g) (s.crossing i rs ws) (!(rs.isEmpty && ws.isEmpty))).modPhysOf i.tile fun m =>
    { m with lsCorr := satAdd max48 m.lsCorr (corrected i g) }

/-- BRW_POOL after an effect (Table 09-9). -/
def Tile.notePools (t : Tile) : Tile :=
  let (a, b, c) := t.pool
  { t with granHwm := max t.granHwm a, linesHwm := max t.linesHwm b, rlinesHwm := max t.rlinesHwm c }

/-- One instruction at issue; `eff` is its own effect, given its own address, on the state after `begin_`. -/
def issue (i : Issue) (g : Needs) (eff : BitVec 48 → State → State) (s : State) : Host.Outcome State Fault Refusal :=
  if nTiles ≤ i.tile then .fault (.noSuchUnit "tile" i.tile)
  else
    let x := s.streamAt i.tile i.stream
    let f := s.fetch i
    match verdict i g s with
    | .idle => .next s
    | .wait c => .next (f.modStream i.tile i.stream fun x => { (x.stall c) with ninth := g.ninth })
    | .fault c d => .next (f.faultStream i.tile i.stream x.pc c d)
    | .spill c => .next ((f.spillBrew i.tile i.stream c 0).tryHalt i.tile i.stream)
    | .check => .next (f.checkerSpill i.tile i.stream)
    | .skip => .next (f.modStream i.tile i.stream fun x => { x.advance with fetchBuf := touchFetch x.fetchBuf x.pc.toNat })
    | .run => .next (((eff x.pc (begin_ i g s)).modTile i.tile Tile.notePools).tryHalt i.tile i.stream)

/-- Writes a scalar register of the issuing stream. -/
def State.putS (s : State) (i : Issue) (r : Nat) (v : Word) : State := s.modStream i.tile i.stream fun x => x.writeS r v
/-- Reads one. -/
def State.getS (s : State) (i : Issue) (r : Nat) : Word := (s.streamAt i.tile i.stream).readS r
def State.putP (s : State) (i : Issue) (r : Nat) (v : Bool) : State := s.modStream i.tile i.stream fun x => x.writeP r v
def State.getP (s : State) (i : Issue) (r : Nat) : Bool := (s.streamAt i.tile i.stream).readP r
/-- The 128 lanes of a vector register of the tile. -/
def State.getV (s : State) (i : Issue) (r : Nat) : List Lane := Map.getRange 0 (s.tileAt i.tile).vreg (128 * r) 128
def State.putV (s : State) (i : Issue) (r : Nat) (v : List Lane) : State :=
  s.modTile i.tile fun t => { t with vreg := Map.putRange 0 t.vreg (128 * r) v }
/-- Sets the PC of the issuing stream. -/
def State.jump (s : State) (i : Issue) (pc : BitVec 48) : State := s.modStream i.tile i.stream fun x => { x with pc := pc }
/-- The partition of the issuing stream. -/
def State.issuerPart (s : State) (i : Issue) : Nat := (s.streamAt i.tile i.stream).part

end Sys2Proof.Machine
end

