-- ==== Sys2Proof/Machine/Operands.lean ====
section
/-! DEFINITION. Operand forms (Table 07-3) and the ILLEGAL checks of R150: each check yields the starting bit of the field that offends. -/

namespace Sys2Proof.Machine

/-- Operand bytes: scalar register, predicate, vector register, bank, none. -/
def isS (b : Byte) : Bool := decide (b.toNat < 16)
def isP (b : Byte) : Bool := decide (0x40 ≤ b.toNat ∧ b.toNat < 0x48)
def isV (b : Byte) : Bool := decide (0x80 ≤ b.toNat ∧ b.toNat < 0xC0)
def isAcc (b : Byte) : Bool := decide (b.toNat = 0xC0 ∨ b.toNat = 0xC1)
def isNone (b : Byte) : Bool := decide (b.toNat = 0xFF)
/-- The register number an operand byte names. -/
def rn (b : Byte) : Nat := if isP b then b.toNat - 0x40 else if isV b then b.toNat - 0x80 else if isAcc b then b.toNat - 0xC0 else b.toNat

/-- Which operand a position accepts. -/
inductive Kind where | s | p | v | acc | none | sOrNone | pOrNone
  deriving DecidableEq, Repr

def Kind.ok (k : Kind) (b : Byte) : Bool :=
  match k with
  | .s => isS b | .p => isP b | .v => isV b | .acc => isAcc b | .none => isNone b
  | .sOrNone => isS b || isNone b | .pOrNone => isP b || isNone b

/-- An offending field, or nothing. -/
def need (ok : Bool) (pos : Nat) : List Nat := if ok then [] else [pos]

/-- The three operand bytes (starting bits 16, 24, 32). -/
def opsIll (w : IWord) (d a b : Kind) : List Nat := need (d.ok w.dst) 16 ++ need (a.ok w.srca) 24 ++ need (b.ok w.srcb) 32

/-- FUNC (starting bit 8) within the values the opcode defines. -/
def funcIll (w : IWord) (ok : Nat → Bool) : List Nat := need (ok w.func.toNat) 8

/-- A field of IMM: bits `hi` to `lo` of the immediate, starting bit 40 + lo of the word. -/
def immF (w : IWord) (hi lo : Nat) : Nat := bits w.imm.toNat hi lo
def immIll (w : IWord) (hi lo : Nat) (ok : Nat → Bool) : List Nat := need (ok (immF w hi lo)) (40 + lo)

/-- A field of EXT by its bit numbers in the word, 127 to 64. -/
def extF (w : IWord) (hi lo : Nat) : Nat := bits w.ext.toNat (hi - 64) (lo - 64)
def extIll (w : IWord) (hi lo : Nat) (ok : Nat → Bool) : List Nat := need (ok (extF w hi lo)) lo

def zero (n : Nat) : Bool := decide (n = 0)
/-- Format codes 13–15 are reserved, rounding mode 3 is reserved (R74, R150). -/
def fmtOk (n : Nat) : Bool := decide (n < 13)
def rndOk (n : Nat) : Bool := decide (n < 3)

/-- IMM and EXT both zero. -/
def immExtZero (w : IWord) : List Nat := immIll w 23 0 zero ++ extIll w 127 64 zero
def extZero (w : IWord) : List Nat := extIll w 127 64 zero

/-- Operand B with the immediate form of R151. -/
def operandB (i : Issue) (s : State) : Word :=
  if isNone i.word.srcb then BitVec.ofInt 64 (sext 24 i.word.imm.toNat) else s.getS i (rn i.word.srcb)

/-- IMM must be 0 where SRCB names a register (R148, R151). -/
def immWithB (w : IWord) : List Nat := if isNone w.srcb then [] else immIll w 23 0 zero

/-- Signed immediates in bytes and in instructions. -/
def immSigned (w : IWord) : Int := sext 24 w.imm.toNat
/-- A branch target: PC + 16 × IMM in the 48-bit address space (Table 07-7). -/
def target (pc : BitVec 48) (w : IWord) : BitVec 48 := pc + BitVec.ofInt 48 (16 * immSigned w)

/-- The resources operand bytes name. -/
def resS (b : Byte) : List Res := if isS b then [.s (rn b)] else []
def resP (b : Byte) : List Res := if isP b then [.p (rn b)] else []
def resV (b : Byte) : List Res := if isV b then [.v (rn b)] else []
def resAcc (b : Byte) : List Res := if isAcc b then [.acc (rn b)] else []

/-- The local-store address sA + IMM, modulo 2^64. -/
def lsAddr (i : Issue) (s : State) : Nat := (s.getS i (rn i.word.srca) + BitVec.ofInt 64 (immSigned i.word)).toNat

/-- ALIGN and LS_RANGE of an access of `len` bytes at a local-store address (Table 07-5). -/
def lsFaults (a len align : Nat) : List (Nat × Word) :=
  (if a % align = 0 then [] else [(0x03, BitVec.ofNat 64 a)]) ++
    (if a + len ≤ lsSize then [] else [(0x04, BitVec.ofNat 64 (a + len))])

/-- The range of an access, empty where it would fault. -/
def lsSpan (a len align : Nat) : List (Nat × Nat) := if a % align = 0 ∧ a + len ≤ lsSize then [(a, len)] else []

/-- LS_RANGE of ranges given in bytes: DETAIL is the first byte past the range (R164). -/
def rangeFaults (rs : List (Nat × Nat)) : List (Nat × Word) :=
  (rs.filter fun r => decide (lsSize < r.1 + r.2 ∧ 0 < r.2)).map fun r => (0x04, BitVec.ofNat 64 (r.1 + r.2))

/-- MEM_RANGE and MEM_PROT of external frames (R187, R189). -/
def memFaults (s : State) (p : Nat) (frames : List (Nat × Nat)) (write : Bool) : List (Nat × Word) :=
  (match s.firstBad p frames with | some a => [(0x06, BitVec.ofNat 64 a)] | none => []) ++
    (if write then match s.firstProt p frames with | some a => [(0x07, BitVec.ofNat 64 a)] | none => [] else [])

/-- FORMAT with the code (Table 07-5). -/
def fmtFault (ok : Bool) (code : Nat) : List (Nat × Word) := if ok then [] else [(0x02, BitVec.ofNat 64 code)]

end Sys2Proof.Machine
end

