-- ==== Sys2Proof/Machine/Slices.lean ====
section
/-! DEFINITION. Slices (R181, R182): the elements and scales of a 128 × 128 slice, and the conversion of a whole slice with its health events. -/

namespace Sys2Proof.Machine

/-- The code of element `e` of format `f` in a byte string (R181). -/
def elemAt (rd : Nat → Byte) (f e : Nat) : Nat :=
  let w := fmtWidth f
  let o := w * e / 8
  let k := w * e % 8
  leNat ((List.range ((w + k + 7) / 8)).map fun i => rd (o + i)) / 2 ^ k % 2 ^ w

/-- The index of a scale in its plane: block axis 0 rows, 1 columns (R182). -/
def scaleIdx (blk : Bool) (r c : Nat) : Nat := if blk then 4 * c + r / 32 else 4 * r + c / 32

/-- The exact value of element (r, c) of a slice with its scale plane (R73, R74). -/
def valAt (rd sc : Nat → Byte) (f : Nat) (blk : Bool) (r c : Nat) : Val :=
  let v := decodeElem f (elemAt rd f (128 * r + c))
  if isMx f then scaleVal (sc (scaleIdx blk r c)).toNat v else v

/-- Byte `i` of a list, as a function. -/
def rdOf (a : Array Byte) (i : Nat) : Byte := a.getD i 0

/-- Packs codes of width `w`, element 0 lowest (R181). -/
def packCodes (w : Nat) (codes : List Nat) : List Byte :=
  if w % 8 = 0 then codes.flatMap (natLe (w / 8))
  else natLe (w * codes.length / 8) (codes.foldr (fun c n => c + 2 ^ w * n) 0)

/-- A conversion's result: element bytes, scale plane, counter increments of each element in turn. -/
structure Conv where
  elems  : List Byte
  plane  : List Byte
  events : List (List Nat)
  deriving DecidableEq, Repr

/-- Converts a slice given by its exact values into format `f` (R74–R78): `rnd r c` is the SR comparison value of the element written at (r, c). -/
def convSlice (f : Nat) (md : Rnd) (sat blk : Bool) (rnd : Nat → Nat → Nat) (src : Nat → Nat → Val) : Conv :=
  if isMx f then
    -- line l, block j: elements along the block axis
    let at_ := fun (l k : Nat) => if blk then (k, l) else (l, k)
    let lines := (List.range 128).map fun l =>
      (List.range 4).map fun j =>
        let ps := (List.range 32).map fun k => at_ l (32 * j + k)
        convBlock f md (ps.map fun p => rnd p.1 p.2) (ps.map fun p => src p.1 p.2)
    let tab := (lines.map fun l => (l.flatMap fun b => b.2.1.zip b.2.2).toArray).toArray
    let els := (List.range 128).flatMap fun r => (List.range 128).map fun c =>
      let p := if blk then (c, r) else (r, c)
      (tab.getD p.1 #[]).getD p.2 (0, [])
    { elems := packCodes (fmtWidth f) (els.map (·.1))
      plane := lines.flatMap fun l => l.map fun b => BitVec.ofNat 8 b.1
      events := els.map (·.2) }
  else
    let els := (List.range 128).flatMap fun r => (List.range 128).map fun c => convElem f md sat (rnd r c) (src r c)
    { elems := packCodes (fmtWidth f) (els.map (·.1)), plane := [], events := els.map (·.2) }

/-- The SH43 and SH52 increments of a block converted to BLEND (R102). -/
def shadowBlock (vs : List Val) : List (List Nat) :=
  let a := (convBlock 5 .rne (vs.map fun _ => 0) vs).2.2
  let b := (convBlock 6 .rne (vs.map fun _ => 0) vs).2.2
  (a.zip b).map fun p => (if p.1.contains hUnder then [hSh43] else []) ++ if p.2.contains hUnder then [hSh52] else []

/-- SH43 and SH52 increments of a whole slice, blocks along `blk`; only their number matters. -/
def shadowSlice (blk : Bool) (src : Nat → Nat → Val) : List (List Nat) :=
  (List.range 128).flatMap fun l => (List.range 4).flatMap fun j =>
    shadowBlock ((List.range 32).map fun k => if blk then src (32 * j + k) l else src l (32 * j + k))

end Sys2Proof.Machine
end

