-- ==== Sys2Proof/Machine/Flags.lean ====
section
/-! DEFINITION. Health events and the format in force (chapter 05): counting per tensor and step, the tile health table and its flushes, the blend
row fields and the format a BLEND conversion takes. -/

namespace Sys2Proof.Machine

/-- Adds one to each listed counter. -/
def addCounts (m : Map Nat) (ev : List Nat) : Map Nat := ev.foldl (fun m i => Map.upd 0 m i (satAdd (2 ^ 32 - 1) ·)) m

/-- The entry of a tensor and step, if the tile has one (R104). -/
def Tile.healthEntry (t : Tile) (tensor : Nat) (step : BitVec 32) : Option HealthEntry :=
  t.health.find? fun e => decide (e.tensor = tensor ∧ e.step = step)

/-- Counts events against a tensor id at a step (R99, R104): the entry becomes the most recently used; a new entry evicts the least recently used
of 64; an entry whose counter reaches 2^31 is flushed, once the queue has room. -/
def Tile.count (t : Tile) (tensor : Nat) (step : BitVec 32) (ev : List Nat) : Tile :=
  let e := (t.healthEntry tensor step).getD { tensor := tensor, step := step }
  let rest := t.health.filter fun x => !decide (x.tensor = tensor ∧ x.step = step)
  let e' := { e with cnt := addCounts e.cnt ev }
  let (rest, out) := match rest with
    | o :: r => if 63 < rest.length then (r, [o]) else (rest, [])
    | [] => ([], [])
  if e'.full && decide ((t.flushQ ++ out).length < 16) then { t with health := rest, flushQ := t.flushQ ++ out ++ [e'] }
  else { t with health := rest ++ [e'], flushQ := t.flushQ ++ out }

/-- Events of a conversion by tile `n` in partition `p`, counted where counting is enabled and a tensor is named (R100, R108). -/
def State.countHealth (s : State) (n p tensor : Nat) (step : BitVec 32) (ev : List (List Nat)) : State :=
  if tensor = 0 || !(s.partAt p).hvalid then s else s.modTile n fun t => t.count tensor step ev.flatten

/-- Whether a conversion must stall for its health entry (R104, R105). -/
def State.healthStall (s : State) (n p tensor : Nat) (step : BitVec 32) : Option Cause :=
  let q := s.partAt p
  let t := s.tileAt n
  if tensor = 0 || !q.hvalid then none
  else if q.s0.isSome && decide (q.oldest + 2 ≤ step.toNat) then some .dep
  else if (t.healthEntry tensor step).isNone && decide (64 ≤ t.health.length) && decide (16 ≤ t.flushQ.length) then some .dep
  else none



/-! ## Blend rows (Table 05-5) -/

def rowBits (w : BitVec 256) (hi lo : Nat) : Nat := bits w.toNat hi lo
def rowValid (w : BitVec 256) : Bool := w.getLsbD 40
def rowInit (w : BitVec 256) : Nat := rowBits w 33 32
def rowCarry (w : BitVec 256) : Nat := rowBits w 39 38
def rowFloor (w : BitVec 256) : Nat := rowBits w 37 36
def rowCeil (w : BitVec 256) : Nat := rowBits w 35 34
def rowCur (w : BitVec 256) : Nat := rowBits w 1 0
def rowPend (w : BitVec 256) : Nat := rowBits w 3 2
def rowPendStep (w : BitVec 256) : Nat := rowBits w 95 64
def rowHold (w : BitVec 256) : Nat := rowBits w 111 96
def rowHoldCnt (w : BitVec 256) : Nat := rowBits w 63 48
def rowMinN (w : BitVec 256) : Nat := rowBits w 223 192
def rowHi43 (w : BitVec 256) : Nat := rowBits w 191 172
def rowLo43 (w : BitVec 256) : Nat := rowBits w 171 152
def rowHi52 (w : BitVec 256) : Nat := rowBits w 151 132
def rowLo52 (w : BitVec 256) : Nat := rowBits w 131 112
/-- The THRESHOLDS bits of a row: VALID, CARRY, FLOOR, CEIL, INIT, MIN_N to HOLD. -/
def rowThreshMask : BitVec 256 := BitVec.ofNat 256 ((2 ^ 224 - 2 ^ 96) + (2 ^ 41 - 2 ^ 32))

/-- A row's word with new STATE fields. -/
def rowSetState (w : BitVec 256) (lastStep pendStep holdCnt pend cur : Nat) : BitVec 256 :=
  (w &&& rowThreshMask) ||| BitVec.ofNat 256
    (lastStep % 2 ^ 32 * 2 ^ 224 + pendStep % 2 ^ 32 * 2 ^ 64 + holdCnt % 2 ^ 16 * 2 ^ 48 + pend % 4 * 4 + cur % 4)

def Part.rowAt (p : Part) (i : Nat) : BlendRow := Map.get {} p.row i

/-- BLD_SLOT fields (Table 05-2). -/
def slotValid (w : BitVec 32) : Bool := w.getLsbD 31
def slotGrad (w : BitVec 32) : Bool := w.getLsbD 30
def slotRow (w : BitVec 32) : Nat := bits w.toNat 29 20
def slotTensor (w : BitVec 32) : Nat := bits w.toNat 19 0

/-- The slot whose valid entry names a tensor (R103). -/
def Part.slotOf (p : Part) (tensor : Nat) : Option (Nat × BitVec 32) :=
  p.slot.find? fun e => slotValid e.2 && decide (slotTensor e.2 = tensor)

/-- The valid row a GRAD slot of a tensor feeds. -/
def Part.gradRow (p : Part) (tensor : Nat) : Option BlendRow :=
  match p.slotOf tensor with
  | some (_, w) => if slotGrad w && rowValid (p.rowAt (slotRow w)).word then some (p.rowAt (slotRow w)) else none
  | none => none

/-- The format a row gives at step `t` by its stored decisions (R111). -/
def BlendRow.formatAt (r : BlendRow) (t : Nat) : Nat :=
  if !r.decided then rowInit r.word
  else if rowPendStep r.word ≤ t then rowPend r.word
  else match r.older with
    | some f => f.toNat
    | none => rowInit r.word

/-- Format codes of blend formats: 0 MXFP8 E4M3, 1 MXFP8 E5M2, 2 BF16 (R109). -/
def blendCode (f : Nat) : Nat := if f = 0 then 5 else if f = 1 then 6 else 1

/-- The element format a BLEND conversion of a tensor takes at step `t`, and whether the tensor is unmapped (R108, R111). -/
def Part.blendFormat (p : Part) (tensor t : Nat) : Nat × Bool :=
  match p.gradRow tensor with
  | none => (1, true)
  | some r => (blendCode (if p.hvalid then r.formatAt t else rowInit r.word), false)

/-- Whether a BLEND conversion of step `t` waits for the decision that governs it (R111): step t − LAG, at or above S0, still open or undecided. -/
def Part.blendWaits (p : Part) (tensor t : Nat) : Bool :=
  (p.gradRow tensor).isSome && decide (p.lag ≤ t) &&
    match p.s0 with
    | some s0 => decide (s0 ≤ t - p.lag) && (decide (p.oldest ≤ t - p.lag) || p.deciding.any fun d => decide (d.step = t - p.lag))
    | none => false

/-- Whether a reduction of a tensor with an AUTO carry waits for the format in force at step `t` (R112): only where the tensor's row leaves the choice to
that format. -/
def Part.carryWaits (p : Part) (tensor t : Nat) : Bool :=
  match p.gradRow tensor with
  | some r => decide (2 ≤ rowCarry r.word) && p.blendWaits tensor t
  | none => false

/-- UNMAPPED gains one (Table 05-6). -/
def State.countUnmapped (s : State) (p : Nat) (k : Nat) : State := s.modPart p fun q => { q with unmapped := satAdd (2 ^ 24 - 1) q.unmapped k }

/-- The reduction carry of a tensor at step `t` where CARRY is AUTO (R112): BF16 with SR when the format in force is MXFP8. -/
def Part.autoCarry (p : Part) (tensor t : Nat) : Bool :=
  match p.gradRow tensor with
  | none => false
  | some r =>
    if rowCarry r.word = 0 then false
    else if rowCarry r.word = 1 then true
    else decide ((p.blendFormat tensor t).1 ≠ 1)

/-- The format ACC.OUT, a copy or a VX store writes for a code: BLEND takes the format in force and always SR (R77, R111). -/
def State.resolveFmt (s : State) (p tensor : Nat) (step : BitVec 32) (f : Nat) : Nat × Bool :=
  if f = 12 then (s.partAt p).blendFormat tensor step.toNat else (f, false)

/-- The SR comparison value of an element (R80–R82). -/
def State.srAt (s : State) (p tensor : Nat) (step : BitVec 32) (purpose node index : Nat) : Nat :=
  genTop (s.partAt p).seed tensor step (elemIndex purpose node index)

/-- A disagreement of a lockstep converter (R333): recomputed once as C1, a second one C2 for the tile. -/
def State.convDisagree (s : State) (n k : Nat) : State :=
  if k = 0 then s
  else
    let s := s.modDie (tileDie n) fun d => { d with prvCnt := Map.upd 0 d.prvCnt 11 (satAdd max48 ·) }
    s.errorEvent (if k = 1 then 1 else 2) 0x0006 (s.tileUnit n) []

end Sys2Proof.Machine
end

