-- ==== Sys2Proof/Machine/Sy.lean ====
section
/-! DEFINITION. SY: signals, waits, pins, steps (Table 07-9), and the arrival of a signal (R128). -/

namespace Sys2Proof.Machine

/-- Counter and amount fields of the SY immediates. -/
def syK (w : IWord) : Nat := immF w 4 0
def syN (w : IWord) : Nat := immF w 23 8

def needsWaitOf (peek : Bool) (i : Issue) (s : State) : Needs :=
  let c := Map.get {} (s.tileAt i.tile).sc (syK i.word)
  { ill := funcIll i.word zero ++ opsIll i.word .none .none .none ++ immIll i.word 7 5 zero ++ extZero i.word
    reads := [.sc (syK i.word)], writes := if peek then [] else [.sc (syK i.word)]
    faults := if syN i.word ≠ 0 ∧ c.ovf then [(0x0E, BitVec.ofNat 64 (syK i.word))] else [] }

/-- Waits until the counter is at least n; WAIT then subtracts n (R128). n = 0 waits for nothing (R131). The stream stays at the instruction, with its
scoreboard entry (Table 06-1), until the counter serves it. -/
def effWaitOf (peek : Bool) (i : Issue) (pc : BitVec 48) (s : State) : State :=
  let k := syK i.word
  let n := syN i.word
  let c := Map.get {} (s.tileAt i.tile).sc k
  if n = 0 then s
  else if n ≤ c.value.toNat then
    if peek then s
    else s.modTile i.tile fun t =>
      { (t.modStream i.stream fun x => { x with brew := x.brew.noteWait k n }) with sc := Map.put {} t.sc k { c with value := c.value - BitVec.ofNat 16 n } }
  else
    let e : SbEntry := { stream := i.stream, reads := [.sc k], writes := if peek then [] else [.sc k], op := s.nextId }
    ((s.modTile i.tile fun t =>
      { t with waits := t.waits ++ [{ stream := i.stream, k := k, n := n, peek := peek, id := e.op }], sb := t.sb ++ [e] }).modStream i.tile i.stream
      fun x => { x with pc := pc, waiting := true, cause := .dep }).bumpId

def execWait (i : Issue) (s : State) : Host.Outcome State Fault Refusal := issue i (needsWaitOf false i s) (effWaitOf false i) s
def execWaitPeek (i : Issue) (s : State) : Host.Outcome State Fault Refusal := issue i (needsWaitOf true i s) (effWaitOf true i) s

/-! ## SIGNAL -/

/-- The loaf a stream's program is addressed to, where it has more than one tile (R40, R180). -/
def State.combining (s : State) (n : Nat) (st : StreamId) : Option (BitVec 16) :=
  let x := s.streamAt n st
  if !refIsTile x.loaf && decide (1 < (x.readS 14).toNat) then some x.loaf else none

/-- SIGNALs (`st` none: of any stream, R40) or issues of a stream that rank `r` has joined for one target and counter. -/
def State.genOf (s : State) (loaf : BitVec 16) (st : Option StreamId) (target : BitVec 16) (k op r : Nat) : Nat :=
  match s.gens.find? (fun g => g.loaf == loaf && g.stream == st && g.target == target && decide (g.k = k ∧ g.op = op ∧ g.rank = r)) with
  | some g => g.count
  | none => 0

def State.bumpGen (s : State) (loaf : BitVec 16) (st : Option StreamId) (target : BitVec 16) (k op r : Nat) : State :=
  let same := fun (g : Gen) => g.loaf == loaf && g.stream == st && g.target == target && decide (g.k = k ∧ g.op = op ∧ g.rank = r)
  let n := s.genOf loaf st target k op r
  { s with gens := (s.gens.filter fun g => !same g) ++ [{ loaf := loaf, stream := st, target := target, k := k, op := op, rank := r, count := n + 1 }] }

/-- Signals that the open brews of a tile hold back for combining (R176). -/
def Tile.heldComb (t : Tile) : List Sig := allStreams.flatMap fun st => (t.streamAt st).brew.held.filter fun g => g.loaf.isSome

/-- The generations the held signals of a tile will join: loaf, target, counter, generation; each follows those before it. -/
def State.heldGens (s : State) (n : Nat) : List (BitVec 16 × BitVec 16 × Nat × Nat) :=
  let gs := (s.tileAt n).heldComb
  ((List.range gs.length).zip gs).filterMap fun x =>
    x.2.loaf.map fun l =>
      (l, x.2.ref, x.2.k, s.genOf l none x.2.ref x.2.k 0 ((s.streamAt n x.2.stream).readS 13).toNat +
        ((gs.take x.1).filter fun h => h.loaf == x.2.loaf && h.ref == x.2.ref && decide (h.k = x.2.k)).length)

/-- Whether an entry for a generation is in the combining table. -/
def State.hasComb (s : State) (loaf target : BitVec 16) (k gen : Nat) : Bool :=
  s.comb.any fun c => c.loaf == loaf && c.target == target && decide (c.k = k ∧ c.op = 0 ∧ c.gen = gen)

/-- Entries of the combining table in use, those the signals held by open brews will need counted in (R40, R176). -/
def State.combUsed (s : State) : Nat :=
  s.comb.length + ((s.tile.flatMap fun e => s.heldGens e.1).eraseDups.filter fun x => !s.hasComb x.1 x.2.1 x.2.2.1 x.2.2.2).length

/-- Whether a member's SIGNAL must stall: 16 generations ahead of the slowest member, the signals its open brews hold counted, or no free entry of
4,096 (R40). -/
def State.combStall (s : State) (n : Nat) (loaf : BitVec 16) (target : BitVec 16) (k r : Nat) : Bool :=
  let size := (s.loafTiles loaf).length
  let joined := s.genOf loaf none target k 0 r
  let mine := joined + ((s.tileAt n).heldComb.filter fun g => g.loaf == some loaf && g.ref == target && decide (g.k = k)).length
  let slow := (List.range size).foldl (fun m x => min m (s.genOf loaf none target k 0 x)) joined
  decide (slow + 16 ≤ mine) || (decide (4096 ≤ s.combUsed) && !s.hasComb loaf target k mine)

/-- A combined entry, with member `r` joined; complete when every member has arrived. The one signal from the loaf then goes out with the amount of
rank 0, and carries the members' scoreboard entries. -/
def State.joinSignal (s : State) (loaf : BitVec 16) (g : Sig) (r : Nat) : State :=
  let gen := s.genOf loaf none g.ref g.k 0 r
  let same := fun (c : Comb) => c.loaf == loaf && c.target == g.ref && decide (c.k = g.k ∧ c.op = 0 ∧ c.gen = gen)
  let c : Comb := (s.comb.find? same).getD { loaf := loaf, stream := none, target := g.ref, k := g.k, gen := gen, op := 0, arrived := [], part := g.part }
  let c : Comb :=
    { c with
      arrived := c.arrived ++ [(r, g.amount)], amount := if r = 0 then g.amount else c.amount
      ids := if g.id = 0 then c.ids else c.ids ++ [(g.src, g.id)] }
  let s := { (s.bumpGen loaf none g.ref g.k 0 r) with comb := s.comb.filter fun c => !same c }
  if (s.loafTiles loaf).length ≤ c.arrived.length then
    { s with sigs := s.sigs ++ [{ g with id := 0, also := c.ids, amount := c.amount }] }
  else { s with comb := s.comb ++ [c] }

/-- Sends a signal: combined over the members of the issuing loaf, or on its way at once (R40, R128). -/
def State.sendSig (s : State) (g : Sig) : State :=
  match g.loaf with
  | some l => s.joinSignal l g ((s.streamAt g.src g.stream).readS 13).toNat
  | none => { s with sigs := s.sigs ++ [g] }

/-- A signal of a stream with an open brew is held until the outermost pour completes (R176). -/
def State.signalOut (s : State) (g : Sig) : State :=
  if (s.streamAt g.src g.stream).brew.phase == .open_ then
    s.modStream g.src g.stream fun x => { x with brew := { x.brew with held := x.brew.held ++ [g] } }
  else s.sendSig g

/-- The target reference of a SIGNAL. -/
def sigRef (i : Issue) (s : State) : BitVec 16 :=
  if isNone i.word.srca then tileRef i.tile else (s.getS i (rn i.word.srca)).extractLsb' 0 16

def needsSignal (i : Issue) (s : State) : Needs :=
  let r := sigRef i s
  let t := s.tileAt i.tile
  let x := t.streamAt i.stream
  let pend := t.pendingWrites i.stream
  { ill := funcIll i.word zero ++ opsIll i.word .none .sOrNone .none ++ immIll i.word 7 5 zero ++ immIll i.word 23 8 (fun n => decide (n ≠ 0)) ++ extZero i.word
    reads := resS i.word.srca
    writes := if (s.loafTiles r).contains i.tile then [.sc (syK i.word)] else []
    stall :=
      if !pend.isEmpty then some (worstCause pend)
      else match s.combining i.tile i.stream with
        | some l => if s.combStall i.tile l r (syK i.word) (x.readS 13).toNat then some .dep else none
        | none => none
    faults := if s.foreign x.part r then [(0x08, BitVec.ofNat 64 r.toNat)] else [] }

/-- The scoreboard entry of a SIGNAL that reaches this tile's own counter (Table 06-1). DEDUCED (log 87): one an open brew holds back has its entry
too, but is no hazard before it is sent; else a WAIT or a second SIGNAL of the brew on that counter could never issue. -/
def signalEntry (st : StreamId) (k id : Nat) (held : Bool) : SbEntry :=
  { stream := st, reads := [], writes := if held then [] else [.sc k], op := id }

/-- Adds the amount to the counter of the target (R128–R131, R40). A signal that reaches this tile holds its counter's entry until applied. -/
def effSignal (i : Issue) (s : State) : State :=
  let r := sigRef i s
  let tiles := s.loafTiles r
  let mine := tiles.contains i.tile
  let held := (s.streamAt i.tile i.stream).brew.phase == .open_
  let g : Sig := { id := if mine then s.nextId else 0, ref := r, loaf := s.combining i.tile i.stream, src := i.tile, stream := i.stream, tiles := tiles, k := syK i.word, amount := syN i.word, part := s.issuerPart i }
  let s := s.signalOut g
  if mine then (s.modTile i.tile fun t => { t with sb := t.sb ++ [signalEntry i.stream g.k g.id held] }).bumpId else s

def execSignal (i : Issue) (s : State) : Host.Outcome State Fault Refusal := issue i (needsSignal i s) (fun _ s => effSignal i s) s

def needsSignalSet (i : Issue) (_ : State) : Needs :=
  { ill := funcIll i.word zero ++ opsIll i.word .none .none .none ++ immIll i.word 7 5 zero ++ extZero i.word
    writes := [.sc (syK i.word)], unreplay := true }

/-- sc k ← value; OVF ← 0. Waits of other streams that the value satisfies are served (R128). -/
def effSignalSet (i : Issue) (s : State) : State :=
  s.modTile i.tile fun t => Tile.addSc { t with sc := Map.put {} t.sc (syK i.word) { value := BitVec.ofNat 16 (syN i.word), ovf := false } } (syK i.word) 0

def execSignalSet (i : Issue) (s : State) : Host.Outcome State Fault Refusal := issue i (needsSignalSet i s) (fun _ s => effSignalSet i s) s

/-- Whether two signals come from one issuer: a stream of a tile, or a loaf, whose combined signals are its own (R40). -/
def Sig.sameIssuer (g h : Sig) : Bool :=
  match g.loaf, h.loaf with
  | some l, some m => l == m
  | none, none => decide (h.src = g.src) && h.stream == g.stream
  | _, _ => false

/-- Whether a signal on its way may arrive: none earlier of the same issuer to the same counter of the same tiles (R130, R40), and the operations it
follows are complete (R129). -/
def mayArrive (t : Tile) (g : Sig) (before : List Sig) : Bool :=
  !(t.sb.any fun e => g.after.contains e.op) && !before.any fun h => g.sameIssuer h && decide (h.k = g.k) && h.tiles.any g.tiles.contains

/-- The scoreboard entries a signal holds are released. -/
def State.freeSignal (s : State) (g : Sig) : State :=
  (g.also ++ if g.id = 0 then [] else [(g.src, g.id)]).foldl
    (fun s x => s.modTile x.1 fun t => { t with sb := t.sb.filter fun e => decide (e.op ≠ x.2) }) s

/-- SIGNAL_ARRIVE: the k-th signal on its way reaches every counter it adds to. -/
def execSignalArrive (k : Nat) (s : State) : Host.Outcome State Fault Refusal :=
  match s.sigs[k]? with
  | none => .next s
  | some g =>
    if !mayArrive (s.tileAt g.src) g (s.sigs.take k) then .next s
    else
      let s := { s with sigs := s.sigs.take k ++ s.sigs.drop (k + 1) }
      .next (g.tiles.foldl (fun s n => s.arrive n g.k g.amount g) (s.freeSignal g))

/-! ## PIN and UNPIN -/

/-- The directory entry that holds a shard of a partition: engine and index (R162, R236). -/
def State.findShard (s : State) (p tensor shard : Nat) : Option (Nat × Nat) :=
  (s.upe.flatMap fun e => (e.2.dir.filter fun d => d.2.valid && decide (d.2.part = p ∧ d.2.tensor.toNat = tensor ∧ d.2.shard.toNat = shard)).map
    fun d => (e.1, d.1)).head?

def State.dirAt (s : State) (e i : Nat) : DirEntry := Map.get {} (s.engineAt e).dir i
def State.modDir (s : State) (e i : Nat) (f : DirEntry → DirEntry) : State := s.modEngine e fun u => { u with dir := Map.upd {} u.dir i f }

def pinTensor (i : Issue) : Nat := immF i.word 19 0
def pinShard (i : Issue) (s : State) : Option (Nat × Nat) := s.findShard (s.issuerPart i) (pinTensor i) ((s.getS i (rn i.word.srca)).toNat % 2 ^ 32)

/-- PIN_FAULT: 1 unknown shard, 2 overflow, 3 underflow, with the tensor id (Table 07-5). -/
def pinFault (i : Issue) (code : Nat) : Nat × Word := (0x10, BitVec.ofNat 64 (pinTensor i * 2 ^ 32 + code))

def needsPin (i : Issue) (s : State) : Needs :=
  { ill := funcIll i.word zero ++ opsIll i.word .s .s .none ++ immIll i.word 23 20 zero ++ extZero i.word, fence := true
    reads := resS i.word.srca, writes := resS i.word.dst
    stall := match pinShard i s with
      | some d => if (s.dirAt d.1 d.2).state = .updating then some .dep else none
      | none => none
    faults := match pinShard i s with
      | none => [pinFault i 1]
      | some d => if (s.dirAt d.1 d.2).pins.toNat = 65535 then [pinFault i 2] else [] }

/-- Adds 1 to the pin count and writes the shard's version to sD (R162). -/
def effPin (i : Issue) (s : State) : State :=
  match pinShard i s with
  | some d => (s.modDir d.1 d.2 fun e => { e with pins := e.pins + 1 }).putS i (rn i.word.dst) (BitVec.ofNat 64 (s.dirAt d.1 d.2).version.toNat)
  | none => s

def execPin (i : Issue) (s : State) : Host.Outcome State Fault Refusal := issue i (needsPin i s) (fun _ s => effPin i s) s

def needsUnpin (i : Issue) (s : State) : Needs :=
  { ill := funcIll i.word zero ++ opsIll i.word .none .s .none ++ immIll i.word 23 20 zero ++ extZero i.word, fence := true
    reads := resS i.word.srca
    faults := match pinShard i s with
      | none => [pinFault i 1]
      | some d => if (s.dirAt d.1 d.2).pins = 0 then [pinFault i 3] else [] }

/-- Subtracts 1 from the pin count (R162). -/
def effUnpin (i : Issue) (s : State) : State :=
  match pinShard i s with
  | some d => s.modDir d.1 d.2 fun e => { e with pins := e.pins - 1 }
  | none => s

def execUnpin (i : Issue) (s : State) : Host.Outcome State Fault Refusal := issue i (needsUnpin i s) (fun _ s => effUnpin i s) s

/-! ## STEP and FENCE -/



/-- One STEP less to go before a stop (R379). -/
def Halt.stepped (h : Halt) : Halt :=
  match h.steps with
  | some k => if k ≤ 1 then { h with steps := none } else { h with steps := some (k - 1) }
  | none => h

def needsStep (i : Issue) (s : State) : Needs :=
  let x := s.streamAt i.tile i.stream
  let p := s.partAt x.part
  { ill := funcIll i.word zero ++ opsIll i.word .none .none .none ++ immExtZero i.word, fence := true, drain := true
    stall := if p.s0.isSome && decide (p.oldest + 2 ≤ x.step.toNat + 1) && decide (x.step.toNat + 1 < 2 ^ 32) then some .dep else none
    faults := if x.step = 0xFFFFFFFF then [(0x0F, 0)] else [] }

/-- Adds 1 to the stream's step number (R120). -/
def effStep (i : Issue) (s : State) : State :=
  let x := s.streamAt i.tile i.stream
  let s := s.modStream i.tile i.stream fun x => { x with step := x.step + 1, halt := x.halt.map Halt.stepped }
  let s := s.modTile i.tile fun t => t.passBoundary s.refTick (s.tileAt i.tile).minStep
  s.modPart x.part fun p =>
    { p with
      stepped := if p.stepped.contains x.step.toNat then p.stepped else p.stepped ++ [x.step.toNat]
      orphanLeft := if p.state = .orphan ∧ p.orphan = 2 ∧ p.orphanLeft ≠ 0 then p.orphanLeft - 1 else p.orphanLeft }

def execStep (i : Issue) (s : State) : Host.Outcome State Fault Refusal := issue i (needsStep i s) (fun _ s => effStep i s) s

def needsFence (i : Issue) (_ : State) : Needs :=
  { ill := funcIll i.word zero ++ opsIll i.word .none .none .none ++ immExtZero i.word, fence := true, drain := true }

/-- FENCE completes once every earlier instruction has (R163); it changes nothing else. -/
def execFence (i : Issue) (s : State) : Host.Outcome State Fault Refusal := issue i (needsFence i s) (fun _ s => s) s

end Sys2Proof.Machine
end

