-- ==== Sys2Proof/Machine/Bw.lean ====
section
/-! DEFINITION. BW: brews (chapter 09, Tables 07-20, 07-21): open, pour, abort; the commit point, the write-back, and the spills other events cause. -/

namespace Sys2Proof.Machine

/-- Ascending order. -/
def insertNat (x : Nat) : List Nat → List Nat
  | [] => [x]
  | y :: ys => if x ≤ y then x :: y :: ys else y :: insertNat x ys
def sortNat (xs : List Nat) : List Nat := xs.foldr insertNat []

def needsBrewOpen (i : Issue) (s : State) : Needs :=
  let t := s.tileAt i.tile
  let b := (t.streamAt i.stream).brew
  { ill := funcIll i.word zero ++ opsIll i.word .s .none .none ++ extZero i.word
    writes := if b.depth = 0 then resS i.word.dst else []
    stall := if b.depth = 0 ∧ t.noOpen then some .dep else none
    spill := if 4 ≤ b.depth then some 2 else none }

/-- BREW.OPEN (R174): at depth 0 the status register takes 0, the snapshot of R219 is taken and a new serial begins; above it only the depth rises. -/
def effBrewOpen (i : Issue) (pc : BitVec 48) (s : State) : State :=
  s.modStream i.tile i.stream fun x =>
    if x.brew.depth = 0 then
      let y := x.writeS (rn i.word.dst) 0
      let serial := x.tstat.serial + 1
      { y with
        tstat := { x.tstat with openPc := pc, serial := serial }
        brew :=
          { phase := .open_, depth := 1, openPc := pc, resume := target pc i.word, statusReg := rn i.word.dst, serial := serial,
            preS := (List.range 11).map fun r => (r + 1, y.readS (r + 1)),
            preP := BitVec.ofNat 8 ((List.range 7).foldl (fun n r => n + b2n (x.readP (r + 1)) * 2 ^ (r + 1)) 1),
            replays := x.brew.replays } }
    else { x with brew := { x.brew with depth := x.brew.depth + 1 } }

def execBrewOpen (i : Issue) (s : State) : Host.Outcome State Fault Refusal := issue i (needsBrewOpen i s) (effBrewOpen i) s

/-! ## Pour -/

/-- A tile's journal slot (Table 09-4). -/
def Part.tileSlot (p : Part) (n : Nat) : Nat := p.jregion + 0x100000 + 0x50000 * n

/-- Whether the tile's slot is held by a pour or by a record whose DONE is not yet acknowledged (R215, R225). -/
def Tile.slotHeld (t : Tile) : Bool := allStreams.any fun st => (t.streamAt st).wb.isSome || (t.streamAt st).brew.phase == .poured

/-- The bytes a brew stages for a line. -/
def Brew.lineBytes (b : Brew) (line : Nat) : List Byte := (List.range 64).map fun k => (Map.get none b.extBytes (line + k)).getD 0

/-- The commit record but for its COMMIT word (Table 09-5): the bytes from offset 0x08. -/
def recordBody (owner stream : Nat) (lines grans : List Nat) (data : List Byte) : List Byte :=
  let w1 := natLe 8 (owner * 2 ^ 44 + stream * 2 ^ 42 + lines.length * 2 ^ 29 + grans.length * 2 ^ 18)
  let gs := grans.flatMap fun g => natLe 2 g
  let body := lines.flatMap (natLe 8) ++ (gs ++ List.replicate (roundUp gs.length 64 - gs.length) 0) ++ data
  w1 ++ natLe 4 (crc32c (w1 ++ body)).toNat ++ List.replicate 44 0 ++ body

/-- The COMMIT word. -/
def commitWord (serial : BitVec 32) (kind : Nat) (done : Bool) : List Byte := natLe 8 (serial.toNat * 2 ^ 32 + b2n done * 8 + kind * 2 + 1)

/-- A write-set line is locked by another pour (R216). -/
def State.lockClash (s : State) (n : Nat) (st : StreamId) (lines : List Nat) : Bool := lines.any (s.lockedAgainst n st)

/-- Whether a pour waits for earlier instructions of its stream: any entry but those of the SIGNALs the brew itself holds back (R176). -/
def Tile.pourWaits (t : Tile) (st : StreamId) : Bool :=
  (t.entriesOf st).any fun e => !(e.writes.isEmpty && (t.streamAt st).brew.held.any fun g => decide (g.id = e.op))

/-- A signal a brew held back is sent: from now on its scoreboard entry is a hazard on its counter. -/
def State.sendHeld (s : State) (g : Sig) : State :=
  (s.modTile g.src fun t => { t with sb := t.sb.map fun e => if g.id ≠ 0 ∧ e.op = g.id then signalEntry e.stream g.k g.id false else e }).sendSig g

def needsBrewPour (i : Issue) (s : State) : Needs :=
  let t := s.tileAt i.tile
  let x := t.streamAt i.stream
  let b := x.brew
  let last := decide (b.depth = 1)
  let grans := b.lsGran.map fun g => Res.ls g g
  { ill := funcIll i.word zero ++ opsIll i.word .none .none .none ++ immExtZero i.word
    staging := last
    stall := if last && (t.pourWaits i.stream || t.slotHeld || anyOverlap grans t.heldRes) then some .brew else none
    spill := if last && !(s.partAt x.part).jvalid then some 2 else if last && s.lockClash i.tile i.stream b.extLines then some 1 else none
    faults := if b.depth = 0 then [(0x12, 0)] else [] }

/-- BREW.POUR: a nested one lowers the depth; the outermost one locks its lines, writes its record and waits for the COMMIT word (R215). -/
def effBrewPour (i : Issue) (s : State) : State :=
  let x := s.streamAt i.tile i.stream
  let b := x.brew
  if 1 < b.depth then s.modStream i.tile i.stream fun x => { x with brew := { x.brew with depth := x.brew.depth - 1 } }
  else
    let lines := sortNat b.extLines
    let body := recordBody i.tile i.stream.code lines (sortNat b.lsGran) (lines.flatMap b.lineBytes)
    let s1 := { s with locks := s.locks ++ lines.map fun l => (l, i.tile, i.stream.code) }
    let s2 := s1.pkgWrite none ((s.partAt x.part).tileSlot i.tile + 8) body
    s2.modStream i.tile i.stream fun x => { x with waiting := true, cause := .brew, brew := { x.brew with phase := .poured } }

def execBrewPour (i : Issue) (s : State) : Host.Outcome State Fault Refusal := issue i (needsBrewPour i s) (fun _ s => effBrewPour i s) s

def needsBrewAbort (i : Issue) (s : State) : Needs :=
  { ill := funcIll i.word zero ++ opsIll i.word .none .none .none ++ immIll i.word 23 8 zero ++ extZero i.word
    faults := if (s.streamAt i.tile i.stream).brew.depth = 0 then [(0x12, 0)] else [] }

/-- BREW.ABORT spills the brew with code 6 and its user code (R174). -/
def execBrewAbort (i : Issue) (s : State) : Host.Outcome State Fault Refusal :=
  issue i (needsBrewAbort i s) (fun _ s => s.spillBrew i.tile i.stream 6 (immF i.word 7 0)) s

/-- The local-store runs a brew has staged: granules with their staged bytes put over the originals. -/
def Tile.flip (t : Tile) (st : StreamId) : Tile :=
  let b := (t.streamAt st).brew
  b.lsGran.foldl (fun t g =>
    let bs := (List.range 256).map fun k => (Map.get none b.lsBytes (256 * g + k)).getD (Map.get 0 t.ls (256 * g + k))
    (t.lsPut (256 * g) bs).conflictLs (some st) (256 * g) 256) t

/-- BREW_COMMIT: the COMMIT word is acknowledged (R217): the shadow granules replace the originals, held signals are sent in issue order, the lines
wait for their write-back, and the program goes on. -/
def execBrewCommit (n : Nat) (st : StreamId) (s : State) : Host.Outcome State Fault Refusal :=
  if nTiles ≤ n then .fault (.noSuchUnit "tile" n)
  else
    let x := s.streamAt n st
    let b := x.brew
    if b.phase != .poured then .next s
    else
      let slot := (s.partAt x.part).tileSlot n
      let lines := sortNat b.extLines
      let s1 := s.pkgWrite none slot (commitWord b.serial 0 false)
      let s2 := s1.modTile n fun t => (t.flip st).countBrew st 0
      let s3 := s2.modStream n st fun x =>
        { x with
          waiting := false, brew := {}
          wb := some { serial := b.serial, lines := lines, bytes := lines.flatMap b.lineBytes, slot := slot }
          tstat := { x.tstat with openPc := b.openPc, user := 0, code := 0 } }
      let s4 := b.held.foldl State.sendHeld s3
      .next (s4.tryHalt n st)

/-- The lines of a committed record are written home, then DONE in its slot (R215); `by_` is the stream whose brew it was. -/
def State.linesHome (s : State) (by_ : Option (Nat × StreamId)) (w : WriteBack) : State :=
  (((List.range w.lines.length).zip w.lines).foldl (fun (s : State) (x : Nat × Nat) => s.writeLine by_ x.2 (slice w.bytes (64 * x.1) 64)) s).pkgWrite none w.slot
    (commitWord w.serial (if by_.isSome then 0 else 1) true)

/-- A firmware slot of the journal (Table 09-4). -/
def Part.firmwareSlot (p : Part) (f : Nat) : Nat := p.jregion + 0x0BC00000 + 0x50000 * f

/-- A brew of firmware's own, opened and poured within one message (R227): it stages whole lines, has the limits of Table 09-1, meets the locks of other pours
(R216), may write the protected regions of R189, takes a firmware slot for its record and is home before the message is answered. Its code: 0 poured, 1 a
line is locked, 2 no journal or past a limit; then nothing is changed. -/
def State.firmwareBrew (s : State) (p : Nat) (lines : List (Nat × List Byte)) : State × Nat :=
  let q := s.partAt p
  if !q.jvalid ∨ 4096 < lines.length then (s, 2)
  else if lines.any fun l => s.locked l.1 then (s, 1)
  else
    let slot := q.firmwareSlot 0
    let body := recordBody 0 0 (lines.map (·.1)) [] (lines.flatMap (·.2))
    let serial := (Config.freeWord s.freeCtr).setWidth 32
    let s1 := { (s.pkgWrite none slot (commitWord serial 2 false ++ body)) with freeCtr := s.freeCtr + 1 }
    ((lines.foldl (fun (s : State) l => s.writeLine none l.1 l.2) s1).pkgWrite none slot (commitWord serial 2 true), 0)

/-- A tile brew's lines are written home and unlocked. -/
def State.tileHome (s : State) (n : Nat) (st : StreamId) : State :=
  match (s.streamAt n st).wb with
  | none => s
  | some w => ((s.linesHome (some (n, st)) w).unlock n st).modStream n st fun x => { x with wb := none }

/-- BREW_CONFLICT_SPILL: a brew another agent wrote into spills with code 1, and a WAIT in progress inside it ends (R214). -/
def execBrewConflictSpill (n : Nat) (st : StreamId) (s : State) : Host.Outcome State Fault Refusal :=
  if nTiles ≤ n then .fault (.noSuchUnit "tile" n)
  else
    let b := (s.streamAt n st).brew
    if b.phase == .open_ && b.conflict then .next ((s.spillBrew n st 1 0).tryHalt n st) else .next s

/-- A brew spilled for a change of its tile's partition counts in the change's report (EV_PART_DONE). -/
def State.noteChangeSpill (s : State) (n : Nat) : State :=
  match s.tilePart n with
  | some p => s.modPart p fun q =>
    { q with changes := q.changes.map fun c => if c.units.contains (.tile n) && !c.switched.contains (.tile n) then { c with spilled := c.spilled + 1 } else c }
  | none => s

/-- BREW_SPILL_TIMEOUT: a brew still open 1 ms after a park or a partition change spills with code 4 (R228, R373). -/
def execBrewSpillTimeout (n : Nat) (st : StreamId) (s : State) : Host.Outcome State Fault Refusal :=
  if nTiles ≤ n then .fault (.noSuchUnit "tile" n)
  else
    let x := s.streamAt n st
    let parks := match x.halt with | some h => h.steps.isNone | none => false
    if x.brew.phase == .open_ && (parks || (s.tileAt n).noOpen) then .next (((s.spillBrew n st 4 0).noteChangeSpill n).tryHalt n st) else .next s

end Sys2Proof.Machine
end

