-- ==== Sys2Proof/Machine/Ct.lean ====
section
/-! DEFINITION. CT: control and scalar instructions (Tables 07-7, 07-8). -/

namespace Sys2Proof.Machine

/-- NOP. -/
def needsNop (i : Issue) (_ : State) : Needs :=
  { ill := funcIll i.word zero ++ opsIll i.word .none .none .none ++ immExtZero i.word }

def execNop (i : Issue) (s : State) : Host.Outcome State Fault Refusal := issue i (needsNop i s) (fun _ s => s) s

/-- END issues once every earlier instruction of the stream has completed (R161); a fence instruction (R175). -/
def needsEnd (i : Issue) (_ : State) : Needs :=
  { ill := funcIll i.word zero ++ opsIll i.word .none .none .none ++ immExtZero i.word, fence := true, drain := true }

/-- The stream has no program; R134 and R38 apply. -/
def effEnd (i : Issue) (s : State) : State := s.endStream i.tile i.stream 0

def execEnd (i : Issue) (s : State) : Host.Outcome State Fault Refusal := issue i (needsEnd i s) (fun _ s => effEnd i s) s

def needsBr (i : Issue) (_ : State) : Needs :=
  { ill := funcIll i.word zero ++ opsIll i.word .none .none .none ++ extZero i.word }

/-- PC ← PC + 16 × IMM. FETCH_RANGE is raised when an instruction is due to issue from the target (R152). -/
def execBr (i : Issue) (s : State) : Host.Outcome State Fault Refusal :=
  issue i (needsBr i s) (fun pc s => s.jump i (target pc i.word)) s

def needsBrdec (i : Issue) (_ : State) : Needs :=
  { ill := funcIll i.word zero ++ opsIll i.word .s .none .none ++ extZero i.word
    reads := resS i.word.dst, writes := resS i.word.dst }

/-- sD ← sD − 1; the branch is taken when the value then in sD is not 0. -/
def effBrdec (i : Issue) (pc : BitVec 48) (s : State) : State :=
  let v := s.getS i (rn i.word.dst) - 1
  let s := s.putS i (rn i.word.dst) v
  if s.getS i (rn i.word.dst) ≠ 0 then s.jump i (target pc i.word) else s

def execBrdec (i : Issue) (s : State) : Host.Outcome State Fault Refusal := issue i (needsBrdec i s) (effBrdec i) s

def needsLdi (i : Issue) (_ : State) : Needs :=
  { ill := funcIll i.word zero ++ opsIll i.word .s .none .none ++ immIll i.word 23 0 zero, writes := resS i.word.dst }

def execLdi (i : Issue) (s : State) : Host.Outcome State Fault Refusal :=
  issue i (needsLdi i s) (fun _ s => s.putS i (rn i.word.dst) i.word.ext) s

/-- A op B by FUNC (Table 07-8); shifts use the low 6 bits of B. -/
def salu (func : Nat) (a b : Word) : Word :=
  match func with
  | 0 => a + b
  | 1 => a - b
  | 2 => a * b
  | 3 => a &&& b
  | 4 => a ||| b
  | 5 => a ^^^ b
  | 6 => a <<< (b.toNat % 64)
  | 7 => a >>> (b.toNat % 64)
  | 8 => a.sshiftRight (b.toNat % 64)
  | 9 => if a.slt b then a else b
  | 10 => if a.slt b then b else a
  | 11 => if a.ult b then a else b
  | 12 => if a.ult b then b else a
  | _ => b

def needsSalu (i : Issue) (_ : State) : Needs :=
  { ill := funcIll i.word (fun n => decide (n < 14)) ++ opsIll i.word .s .s .sOrNone ++ immWithB i.word ++ extZero i.word
    reads := resS i.word.srca ++ resS i.word.srcb, writes := resS i.word.dst }

def execSalu (i : Issue) (s : State) : Host.Outcome State Fault Refusal :=
  issue i (needsSalu i s) (fun _ s => s.putS i (rn i.word.dst) (salu i.word.func.toNat (s.getS i (rn i.word.srca)) (operandB i s))) s

/-- Compare by FUNC (Table 07-8). -/
def scmp (func : Nat) (a b : Word) : Bool :=
  match func with
  | 0 => decide (a = b)
  | 1 => decide (a ≠ b)
  | 2 => a.slt b
  | 3 => a.sle b
  | 4 => a.ult b
  | _ => a.ule b

def needsScmp (i : Issue) (_ : State) : Needs :=
  { ill := funcIll i.word (fun n => decide (n < 6)) ++ opsIll i.word .p .s .sOrNone ++ immWithB i.word ++ extZero i.word
    reads := resS i.word.srca ++ resS i.word.srcb, writes := resP i.word.dst }

def execScmp (i : Issue) (s : State) : Host.Outcome State Fault Refusal :=
  issue i (needsScmp i s) (fun _ s => s.putP i (rn i.word.dst) (scmp i.word.func.toNat (s.getS i (rn i.word.srca)) (operandB i s))) s

/-- Predicate logic by FUNC (Table 07-8). -/
def plog (func : Nat) (a b : Bool) (imm0 : Bool) : Bool :=
  match func with
  | 0 => a && b
  | 1 => a || b
  | 2 => xor a b
  | 3 => a && !b
  | 4 => !a
  | _ => imm0

/-- PLOG: FUNC 0–3 take two predicates, 4 takes SRCA alone, 5 neither and IMM[0]. -/
def needsPlog (i : Issue) (_ : State) : Needs :=
  let f := i.word.func.toNat
  { ill := funcIll i.word (fun n => decide (n < 6)) ++
      opsIll i.word .p (if f = 5 then .none else .p) (if f < 4 then .p else .none) ++
      (if f = 5 then immIll i.word 23 1 zero else immIll i.word 23 0 zero) ++ extZero i.word
    reads := resP i.word.srca ++ resP i.word.srcb, writes := resP i.word.dst }

def execPlog (i : Issue) (s : State) : Host.Outcome State Fault Refusal :=
  issue i (needsPlog i s) (fun _ s =>
    s.putP i (rn i.word.dst) (plog i.word.func.toNat (s.getP i (rn i.word.srca)) (s.getP i (rn i.word.srcb)) (i.word.imm.getLsbD 0))) s

/-- The special value of a selector (Table 07-4). -/
def special (i : Issue) (s : State) (sel : Nat) : Word :=
  match sel with
  | 0 => BitVec.ofNat 64 (s.streamAt i.tile i.stream).step.toNat
  | 1 => BitVec.ofNat 64 (tileRef i.tile).toNat
  | 2 => BitVec.ofNat 64 (s.issuerPart i)
  | 3 => BitVec.ofNat 64 i.stream.code
  | 4 => BitVec.ofNat 64 s.pkg
  | _ => (s.dieAt (tileDie i.tile)).refTick

/-- SGET REFTICK inside a brew spills it with code 4 (R210). -/
def needsSget (i : Issue) (_ : State) : Needs :=
  { ill := funcIll i.word zero ++ opsIll i.word .s .none .none ++ immIll i.word 7 0 (fun n => decide (n < 6)) ++ immIll i.word 23 8 zero ++ extZero i.word
    fence := decide (immF i.word 7 0 = 5), writes := resS i.word.dst }

def execSget (i : Issue) (s : State) : Host.Outcome State Fault Refusal :=
  issue i (needsSget i s) (fun _ s => s.putS i (rn i.word.dst) (special i s (immF i.word 7 0))) s

def needsSld (i : Issue) (s : State) : Needs :=
  let a := lsAddr i s
  { ill := funcIll i.word zero ++ opsIll i.word .s .s .none ++ extZero i.word
    reads := resS i.word.srca, writes := resS i.word.dst, lsR := lsSpan a 8 8, faults := lsFaults a 8 8 }

/-- sD ← 8 bytes at local store sA + IMM. -/
def effSld (i : Issue) (s : State) : State :=
  s.putS i (rn i.word.dst) (BitVec.ofNat 64 (leNat ((s.tileAt i.tile).lsRead i.stream (lsAddr i s) 8)))

def execSld (i : Issue) (s : State) : Host.Outcome State Fault Refusal := issue i (needsSld i s) (fun _ s => effSld i s) s

def needsSst (i : Issue) (s : State) : Needs :=
  let a := lsAddr i s
  { ill := funcIll i.word zero ++ opsIll i.word .none .s .s ++ extZero i.word
    reads := resS i.word.srca ++ resS i.word.srcb, lsW := lsSpan a 8 8, faults := lsFaults a 8 8 }

/-- 8 bytes at local store sA + IMM ← sB. -/
def effSst (i : Issue) (s : State) : State :=
  s.modTile i.tile fun t => t.lsWrite i.stream (lsAddr i s) (natLe 8 (s.getS i (rn i.word.srcb)).toNat)

def execSst (i : Issue) (s : State) : Host.Outcome State Fault Refusal := issue i (needsSst i s) (fun _ s => effSst i s) s

/-- A braid table value R135 and R161 accept: no code 3 at or below LAST, bits 63:36 zero. -/
def braidOk (v : Word) : Bool :=
  decide (bits v.toNat 63 36 = 0) && (List.range (bits v.toNat 35 32 + 1)).all fun k => decide (bits v.toNat (2 * k + 1) (2 * k) ≠ 3)

def needsBraidSet (i : Issue) (s : State) : Needs :=
  let v := s.getS i (rn i.word.srca)
  { ill := funcIll i.word zero ++ opsIll i.word .none .s .none ++ immExtZero i.word, reads := resS i.word.srca, unreplay := true
    faults := if braidOk v then [] else [(0x0D, v)] }

/-- The tables waiting for a grant point, applied in the order F, B, U (R135). -/
def Tile.applyBraid (t : Tile) : Tile :=
  let t' := allStreams.foldl (fun (t : Tile) st =>
    match t.braidPend.find? (fun b => b.1 == st) with
    | some (_, v) => { t with slots := v.extractLsb' 0 32, last := bits v.toNat 35 32, ptr := 0 }
    | none => t) t
  { t' with braidPend := [] }

/-- The table waits for the next grant point, which is at once while a choice is open (R135, R136). A stream's later BRAID.SET replaces its own. -/
def effBraidSet (i : Issue) (s : State) : State :=
  s.modTile i.tile fun t =>
    let t := { t with braidPend := t.braidPend.filter (fun (b : StreamId × Word) => b.1 != i.stream) ++ [(i.stream, s.getS i (rn i.word.srca))] }
    if t.choiceOpen then t.applyBraid else t

def execBraidSet (i : Issue) (s : State) : Host.Outcome State Fault Refusal :=
  issue i (needsBraidSet i s) (fun _ s => effBraidSet i s) s

/-- The opcodes chapter 07 defines. -/
def opcodeDefined (b : Byte) : Bool :=
  let n := b.toNat
  decide (n ≤ 0x0B ∨ (0x10 ≤ n ∧ n ≤ 0x17) ∨ (0x20 ≤ n ∧ n ≤ 0x27) ∨ (0x30 ≤ n ∧ n ≤ 0x3E) ∨ (0x60 ≤ n ∧ n ≤ 0x63) ∨ (0x70 ≤ n ∧ n ≤ 0x72) ∨ n = 0x80 ∨ n = 0x90)

/-- An undefined opcode offends at bit 0 (R150). -/
def needsIllegal (_ : Issue) (_ : State) : Needs := { ill := [0] }

/-- A word whose opcode is not defined raises ILLEGAL (R150). The command names such a word only; a defined opcode is another command's. -/
def execIllegal (i : Issue) (opcode : Byte) (s : State) : Host.Outcome State Fault Refusal :=
  if opcodeDefined opcode then .next s else issue i (needsIllegal i s) (fun _ s => s) s

end Sys2Proof.Machine
end

