-- ==== Sys2Proof/Machine/Mx.lean ====
section
/-! DEFINITION. MX: the matrix array, its waves and its grants, the accumulator banks (chapters 03 and 04, Tables 07-11 to 07-14). -/

namespace Sys2Proof.Machine

/-! ## The anchored window -/

/-- Marks as bits of the mark set: Q 5, P 4, M 3, SP 2, SM 1, L 0 (Table 04-6). -/
def markQ : BitVec 6 := 0x20#6
def markP : BitVec 6 := 0x10#6
def markM : BitVec 6 := 0x08#6
def markSP : BitVec 6 := 0x04#6
def markSM : BitVec 6 := 0x02#6
def markL : BitVec 6 := 0x01#6

/-- The contribution of one product at an anchor: units added and marks set (R85). -/
def placeProduct (anchor : Int) : Val → Int × BitVec 6
  | .nan => (0, markQ)
  | .inf neg => (0, if neg then markM else markP)
  | .fin neg m e =>
    if m = 0 then (0, 0)
    else
      let sh := e - anchor
      if 79 ≤ topExp m sh then (0, if neg then markSM else markSP)
      else
        let k : Nat := if 0 ≤ sh then m * 2 ^ sh.toNat else m / 2 ^ (-sh).toNat
        let lossy := decide (sh < 0) && decide (m % 2 ^ (-sh).toNat ≠ 0)
        (if neg then -(k : Int) else k, if lossy then markL else 0)

/-- Whether a product leaves the wave without a residue check (R57): non-finite, or above the window. -/
def flaggedMarks (m : BitVec 6) : Bool := m &&& 0x3E#6 != 0

/-- One output of a wave: the exact sum of its contributions and the union of their marks. -/
def waveOutput (anchor : Int) (ps : List Val) : Int × BitVec 6 :=
  ps.foldl (fun a p => let c := placeProduct anchor p; (a.1 + c.1, a.2 ||| c.2)) (0, 0)

/-- The ANCHOR of a bank as an integer. -/
def Bank.anchorInt (b : Bank) : Int := b.anchor.toInt

/-- The window content of an element. -/
def Bank.elem (b : Bank) (e : Nat) : Int := (Map.get 0 b.a e).toInt
def Bank.mark (b : Bank) (e : Nat) : BitVec 6 := Map.get 0 b.marks e

/-- Adds a row of contributions to bank row `m`: contents, marks, and the row tally by its residue (R55, R86). -/
def Bank.addRow (b : Bank) (m : Nat) (row : List (Int × BitVec 6)) (tallied : Int) : Bank :=
  let es := (List.range row.length).zip row
  { b with
    a := es.foldl (fun (x : Map (BitVec 96)) e => Map.upd 0 x (128 * m + e.1) (· + BitVec.ofInt 96 e.2.1)) b.a
    marks := es.foldl (fun (x : Map (BitVec 6)) e => Map.upd 0 x (128 * m + e.1) (· ||| e.2.2)) b.marks
    tally := Map.upd 0 b.tally m fun t => (t + residue tallied b.anchorInt) % 2147483647 }

/-! ## MMA -/

def needsMma (i : Issue) (s : State) : Needs :=
  let w := i.word
  let tf := extF w 123 120
  let sf := extF w 119 116
  let t := s.tileAt i.tile
  let b := t.bankAt (rn w.dst)
  let rs : List (Nat × Nat) := [(256 * extF w 76 64, sliceBytes sf), (256 * extF w 89 77, sliceBytes tf),
    (256 * extF w 102 90, planeBytes sf), (256 * extF w 115 103, planeBytes tf)]
  let okf := fun (f : Nat) => decide (1 ≤ f ∧ f ≤ 10)
  { ill := funcIll w (fun n => decide (n < 2)) ++ opsIll w .acc .none .none ++ immIll w 23 0 zero ++ extIll w 127 126 zero ++
      extIll w 123 120 fmtOk ++ extIll w 119 116 fmtOk ++
      (if isMx tf then [] else extIll w 115 103 zero ++ extIll w 125 125 zero) ++
      (if isMx sf then [] else extIll w 102 90 zero ++ extIll w 124 124 zero)
    writes := resAcc w.dst, isMma := true, unreplay := true
    lsR := if okf tf && okf sf && (rangeFaults rs).isEmpty then rs else []
    faults := fmtFault (okf sf) sf ++ fmtFault (okf tf) tf ++ rangeFaults rs ++
      (if b.ownedBy i.stream then [] else [(0x09, BitVec.ofNat 64 (rn w.dst))]) ++
      (if b.fills < 512 then [] else [(0x0A, BitVec.ofNat 64 b.fills)]) }

/-- The MMA a word names. -/
def mmaOf (i : Issue) (crossed : Bool) (id : Nat) (pc : BitVec 48) : Mma :=
  let w := i.word
  { id := id, stream := i.stream, pc := pc, bank := rn w.dst, crossed := crossed, t := w.func.getLsbD 0
    tfmt := extF w 123 120, sfmt := extF w 119 116, tblk := w.ext.getLsbD 61, sblk := w.ext.getLsbD 60
    toff := extF w 89 77, soff := extF w 76 64, tsoff := extF w 115 103, ssoff := extF w 102 90 }

/-- An issued MMA holds its entry until completion (R49), counts in FILLS (R86) and waits for the array. -/
def effMma (crossed : Bool) (i : Issue) (pc : BitVec 48) (s : State) : State :=
  let m := mmaOf i crossed s.nextId pc
  let e : SbEntry := { stream := i.stream, reads := m.ranges.flatMap lsRes, writes := [.acc m.bank], op := m.id, isMma := true }
  (s.modTile i.tile fun t => { (t.modBank m.bank fun b => { b with fills := b.fills + 1 }) with mmaQ := t.mmaQ ++ [m], sb := t.sb ++ [e] }).bumpId

def execMmaF (i : Issue) (s : State) : Host.Outcome State Fault Refusal := issue i (needsMma i s) (effMma false i) s
def execMmaX (i : Issue) (s : State) : Host.Outcome State Fault Refusal := issue i (needsMma i s) (effMma true i) s

/-- What an MMA reads as its stream sees local store now. -/
def Mma.load (m : Mma) (t : Tile) : MmaFill :=
  { stat := t.lsRead m.stream (256 * m.soff) (sliceBytes m.sfmt), statSc := t.lsRead m.stream (256 * m.ssoff) (planeBytes m.sfmt)
    strm := t.lsRead m.stream (256 * m.toff) (sliceBytes m.tfmt), strmSc := t.lsRead m.stream (256 * m.tsoff) (planeBytes m.tfmt) }

/-- What an MMA works on: what it took as it was granted the array (R50, log 64). -/
def Mma.operands (m : Mma) (t : Tile) : MmaFill := m.fill.getD (m.load t)

/-- The element of the streamed block wave `wv` uses at position `c` (R45). -/
def Mma.streamed (m : Mma) (f : MmaFill) (wv c : Nat) : Val :=
  let rd := rdOf f.strm.toArray
  let sc := rdOf f.strmSc.toArray
  if m.t then valAt rd sc m.tfmt m.tblk c wv else valAt rd sc m.tfmt m.tblk wv c

/-- The stationary element that output `o` meets at contraction index `c`: W[c][o] for MMA.F, W[o][c] for MMA.X (R45). -/
def Mma.weight (m : Mma) (f : MmaFill) (o c : Nat) : Val :=
  let rd := rdOf f.stat.toArray
  let sc := rdOf f.statSc.toArray
  if m.crossed then valAt rd sc m.sfmt m.sblk o c else valAt rd sc m.sfmt m.sblk c o

/-- The products wave `wv` forms for each of its 128 outputs. -/
def Mma.products (m : Mma) (f : MmaFill) (wv : Nat) : List (List Val) :=
  let xs := (List.range 128).zip ((List.range 128).map (m.streamed f wv))
  (List.range 128).map fun o => xs.map fun p => p.2.mul (m.weight f o p.1)

/-- The outputs of wave `wv` (R45): MMA.F indexes them by b, MMA.X by a. -/
def Mma.wave_ (m : Mma) (t : Tile) (wv : Nat) : List (Int × BitVec 6) :=
  (m.products (m.operands t) wv).map (waveOutput (t.bankAt m.bank).anchorInt)

/-! ## The check line (R53, R54, Table 03-6) -/

def sumMod (xs : List Nat) : Nat := xs.foldl (fun a x => (a + x) % 2147483647) 0

/-- ρ of a finite value; a wave with any other product is not checked (R57). -/
def Val.rho : Val → Nat
  | .fin neg m e => residue (if neg then -(m : Int) else m) e
  | _ => 0

/-- ρ of the part of a product truncated below the window, which its cell passes down the residue lane. -/
def lostRho (anchor : Int) : Val → Nat
  | .fin neg m e =>
    let d := m % 2 ^ (anchor - e).toNat
    if e < anchor then residue (if neg then -(d : Int) else d) e else 0
  | _ => 0

/-- The checksum cells of the active line: r_a for MMA.F, q_b for MMA.X, by contraction index. -/
def Mma.checkLine (m : Mma) (f : MmaFill) : List Nat :=
  (List.range 128).map fun c => sumMod ((List.range 128).map fun o => (m.weight f o c).rho)

/-- The expected residue c_m of wave `wv`. -/
def Mma.expected (m : Mma) (f : MmaFill) (wv : Nat) : Nat :=
  sumMod (((List.range 128).zip (m.checkLine f)).map fun p => (m.streamed f wv p.1).rho * p.2)

/-- The drain's residue d_m: of the sum of the wave's outputs, with the window loss of its products. -/
def Mma.drained (m : Mma) (t : Tile) (wv : Nat) (out : List (Int × BitVec 6)) : Nat :=
  let anchor := (t.bankAt m.bank).anchorInt
  sumMod (residue (out.foldl (fun a o => a + o.1) 0) anchor :: (m.products (m.operands t) wv).map fun ps => sumMod (ps.map (lostRho anchor)))

/-- Whether the check of wave `wv` passes on these outputs; `chkErr` is what a fault of the check line adds to c_m. A wave with a non-finite or
saturated product is not checked (R57). -/
def Mma.passes (m : Mma) (t : Tile) (wv : Nat) (out : List (Int × BitVec 6)) (chkErr : Nat) : Bool :=
  (m.wave_ t wv).any (fun o => flaggedMarks o.2) ||
    decide (m.drained t wv out = (m.expected (m.operands t) wv + chkErr) % 2147483647)

/-! ## Tokens (R48–R51, Table 03-4) -/

/-- The rate group of an MMA, its slower operand's: 0 narrow, 1 eight-bit, 2 sixteen-bit. -/
def Mma.group (m : Mma) : Nat :=
  let g := fun (f : Nat) => if f = 1 ∨ f = 2 then 2 else if 7 ≤ f ∧ f ≤ 9 then 0 else 1
  max (g m.tfmt) (g m.sfmt)

/-- Fill entry, array occupancy, commit of wave `wv`, completion: tokens, the last three from the entry of wave 0. -/
def Mma.fillTok (m : Mma) : Nat := if m.group = 0 then 64 else 128
def Mma.occTok (m : Mma) : Nat := if m.group = 0 then 64 else if m.group = 1 then 128 else 512
def Mma.commitTok (m : Mma) (wv : Nat) : Nat := if m.group = 0 then wv / 2 + 264 else if m.group = 1 then wv + 264 else 4 * wv + 1047
def Mma.doneTok (m : Mma) : Nat := if m.group = 0 then 328 else if m.group = 1 then 392 else 1556

/-- The array of a tile is known to have reached token `n` since it was last idle: MMAs whose last wave has entered are marked so, and their operand
ranges are free to write (Table 06-1). -/
def Tile.reach (t : Tile) (n : Nat) : Tile :=
  let n := max t.arrTok n
  let past := fun (m : Mma) => decide (m.entry + m.occTok ≤ n)
  { t with
    arrTok := n
    array := t.array.map fun m => { m with entered := m.entered || past m }
    sb := t.sb.map fun e => if t.array.any fun m => decide (m.id = e.op) && past m then { e with reads := [] } else e }

/-- The array of tile `t` reaches token `n`; the tokens it has advanced count on its physical tile (R61). -/
def State.reachToken (s : State) (t n : Nat) : State :=
  (s.modTile t fun x => x.reach n).modPhysOf t fun p => { p with tokens := p.tokens + BitVec.ofNat 64 (n - (s.tileAt t).arrTok) }

/-- Outputs with the errors an array fault adds to them. -/
def withErrors (row : List (Int × BitVec 6)) (errs : List (Nat × Int)) : List (Int × BitVec 6) :=
  ((List.range row.length).zip row).map fun e =>
    (e.2.1 + (errs.filter fun x => decide (x.1 = e.1)).foldl (fun a x => a + x.2) 0, e.2.2)

def sumInts (xs : List Int) : Int := xs.foldl (· + ·) 0

/-- Adds a committed wave to its bank (R55); a row with a flagged mark leaves the tally comparison (R57). -/
def Bank.commitRow (b : Bank) (wv : Nat) (row : List (Int × BitVec 6)) (flagged : Bool) : Bank :=
  let b := b.addRow wv row (sumInts (row.map (·.1)))
  if flagged then { b with noTally := Map.put false b.noTally wv true } else b

/-- WAVE_COMMIT: the next wave of the oldest granted MMA is checked and committed, or held (R54–R58). `errs` are the units by which the array's
outputs are wrong, `chkErr` the error of the expected residue. -/
def execWaveCommit (t : Nat) (errs : List (Nat × Int)) (chkErr : Nat) (s : State) : Host.Outcome State Fault Refusal :=
  if nTiles ≤ t then .fault (.noSuchUnit "tile" t)
  else
    let tl := s.tileAt t
    match tl.array with
    | [] => .next s
    | m :: _ =>
      if tl.held.isSome || decide (128 ≤ m.wave) then .next s
      else
        let truth := m.wave_ tl m.wave
        let out := withErrors truth errs
        let flagged := truth.any fun o => flaggedMarks o.2
        let s := s.reachToken t (m.entry + m.commitTok m.wave)
        if m.passes tl m.wave out chkErr then
          .next ((s.modTile t fun x =>
            { (x.modBank m.bank fun b => b.commitRow m.wave out flagged) with
              array := match x.array with | [] => [] | y :: _ => { y with wave := m.wave + 1 } :: x.array.drop 1 }).modPhysOf t
            fun p => { p with chkSkip := if flagged then satAdd max48 p.chkSkip else p.chkSkip })
        else
          .next ((s.modTile t fun x => { x with held := some { mma := { m with fill := some (m.operands tl) }, wave := m.wave, errs := errs, chkErr := chkErr } }).modPhysOf t
            fun p => { p with chkMismatch := satAdd max48 p.chkMismatch })

/-- MMA_COMPLETE: with all 128 waves committed the entry is released (R49), and a bank whose owner has ended with it (R134). An array left empty is idle:
the count of its tokens begins anew with the next fill. -/
def execMmaComplete (t : Nat) (s : State) : Host.Outcome State Fault Refusal :=
  if nTiles ≤ t then .fault (.noSuchUnit "tile" t)
  else
    match (s.tileAt t).array with
    | [] => .next s
    | m :: rest =>
      if m.wave < 128 then .next s
      else .next ((s.reachToken t (m.entry + m.doneTok)).modTile t fun x =>
        Tile.freeLeaving { x with array := x.array.drop 1, arrTok := if rest.isEmpty then 0 else x.arrTok, sb := x.sb.filter fun e => decide (e.op ≠ m.id) })

/-! ## Grants -/

/-- The stream slot `k` names (R135). -/
def Tile.slotStream (t : Tile) (k : Nat) : StreamId := StreamId.ofCode (bits t.slots.toNat (2 * k + 1) (2 * k))

/-- The next MMA of a stream that waits for the array (R136): the oldest it issued. -/
def Tile.readyMma (t : Tile) (st : StreamId) : Option Mma := t.mmaQ.find? fun m => m.stream == st

/-- The slots from PTR on, wrapping after LAST. -/
def Tile.slotOrder (t : Tile) : List Nat := (List.range (t.last + 1)).map fun k => (t.ptr + k) % (t.last + 1)

/-- The choice of a grant point (R136). -/
def Tile.choose (t : Tile) : Option Mma :=
  match (t.slotOrder.map t.slotStream).findSome? t.readyMma with
  | some m => some m
  | none => allStreams.findSome? t.readyMma

/-- The token at which wave 0 of an MMA granted now enters (R50): behind a fill, and behind the waves of the MMA granted before it. -/
def Tile.entryOf (t : Tile) (m : Mma) : Nat :=
  match t.array.getLast? with
  | none => t.arrTok + m.fillTok
  | some l => max (l.entry + l.occTok) (max t.arrTok l.entry + m.fillTok)

/-- ARRAY_GRANT: a grant point (R136, R137). Tables loaded since the last one take effect first (R135); no MMA is admitted while the array is
held (R58) or the tile migrates (R147); with no stream ready the choice stays open. The MMA granted takes its operands (log 64). -/
def execArrayGrant (t : Nat) (s : State) : Host.Outcome State Fault Refusal :=
  if nTiles ≤ t then .fault (.noSuchUnit "tile" t)
  else if (s.tileAt t).held.isSome || (s.tmapAt t).migrating then .next s
  else .next (s.modTile t fun x =>
    let x := if x.braidPend.isEmpty then x else x.applyBraid
    match x.choose with
    | none => { x with choiceOpen := true }
    | some m =>
      let named := x.slotStream x.ptr
      { x with
        mmaQ := x.mmaQ.filter fun y => decide (y.id ≠ m.id), choiceOpen := false
        array := x.array ++ [{ m with fill := some (m.load x), entry := x.entryOf m, entered := false }]
        ptr := (x.ptr + 1) % (x.last + 1)
        miss := if m.stream != named && (x.streamAt named).run then Map.upd 0 x.miss named.code (satAdd max48 ·) else x.miss })

/-! ## Banks -/

/-- ACC_OWNER (R133). -/
def ownerFault (i : Issue) (s : State) (b : Nat) : List (Nat × Word) :=
  if ((s.tileAt i.tile).bankAt b).ownedBy i.stream then [] else [(0x09, BitVec.ofNat 64 b)]

def needsAccZero (i : Issue) (s : State) : Needs :=
  let f := i.word.func.toNat
  { ill := funcIll i.word (fun n => decide (n < 3)) ++ opsIll i.word .acc (if f = 2 then .s else if 2 < f then .sOrNone else .none) .none ++
      (if f = 1 then immIll i.word 23 10 zero else immIll i.word 23 0 zero) ++ extZero i.word
    reads := resS i.word.srca, writes := resAcc i.word.dst, unreplay := true, faults := ownerFault i s (rn i.word.dst) }

/-- The anchor ACC.ZERO names: the default −32, the immediate, or the scalar register, whose value outside −512 to 511 R89 clamps (R88, R89, Table 07-12;
log 91). -/
def zeroAnchor (i : Issue) (s : State) : BitVec 10 :=
  match i.word.func.toNat with
  | 0 => BitVec.ofInt 10 (-32)
  | 1 => i.word.imm.extractLsb' 0 10
  | _ => BitVec.ofInt 10 (clampInt (-512) 511 (s.getS i (rn i.word.srca)).toInt)

/-- Contents, marks, FILLS and tallies zero; the owner stays (R89). -/
def effAccZero (i : Issue) (s : State) : State :=
  s.modTile i.tile fun t => t.modBank (rn i.word.dst) fun b => { anchor := zeroAnchor i s, owner := b.owner }

def execAccZero (i : Issue) (s : State) : Host.Outcome State Fault Refusal := issue i (needsAccZero i s) (fun _ s => effAccZero i s) s

/-- The W96 record of an element (Table 04-8). -/
def w96Record (b : Bank) (e : Nat) : Nat :=
  (Map.get 0 b.a e).toNat + b.anchor.toNat * 2 ^ 96 + (b.mark e).toNat * 2 ^ 106 + b.fills * 2 ^ 112

/-- Bank contents as an array fault left them at read-out (R59). -/
def Bank.flipped (b : Bank) (errs : List (Nat × Nat × Int)) : Bank :=
  { b with a := errs.foldl (fun (x : Map (BitVec 96)) e => Map.upd 0 x (128 * e.1 + e.2.1) (· + BitVec.ofInt 96 e.2.2)) b.a }

/-- The residue of a bank row (R59). -/
def Bank.rowResidue (b : Bank) (m : Nat) : Nat :=
  residue (sumInts ((List.range 128).map fun c => b.elem (128 * m + c))) b.anchorInt

/-- The lowest row whose residue differs from its tally, rows of R57 excepted. -/
def Bank.tallyBad (b : Bank) : Option Nat :=
  (List.range 128).find? fun m => !Map.get false b.noTally m && decide (b.rowResidue m ≠ Map.get 0 b.tally m)

/-- The value and mark class of an element at read-out (Table 04-7): the value, and whether only SP or SM stands. -/
def Bank.readVal (b : Bank) (e : Nat) : Val × Bool :=
  let m := b.mark e
  let has := fun (k : BitVec 6) => m &&& k != 0
  if has markQ || ((has markP || has markSP) && (has markM || has markSM)) then (.nan, false)
  else if has markP then (.inf false, false)
  else if has markM then (.inf true, false)
  else if has markSP then (.inf false, true)
  else if has markSM then (.inf true, true)
  else (Val.ofInt (b.elem e) b.anchorInt, false)

def needsAccOut (i : Issue) (s : State) : Needs :=
  let w := i.word
  let f := extF w 93 90
  let x := s.streamAt i.tile i.stream
  let tensor := extF w 117 98
  let rs : List (Nat × Nat) := [(256 * extF w 76 64, sliceBytes f), (256 * extF w 89 77, if isMx f || decide (f = 12) then 512 else 0)]
  { ill := funcIll w zero ++ opsIll w .none .acc .s ++ immIll w 23 14 zero ++ extIll w 127 118 zero ++ extIll w 93 90 fmtOk ++ extIll w 95 94 rndOk ++
      (if f = 11 then extIll w 95 94 zero ++ extIll w 96 96 zero ++ extIll w 117 98 zero else []) ++
      (if isMx f || decide (f = 12) then [] else extIll w 97 97 zero ++ extIll w 89 77 zero)
    reads := resAcc w.srca ++ resS w.srcb
    lsW := if (rangeFaults rs).isEmpty then rs else []
    stall :=
      if f = 12 && (s.partAt x.part).blendWaits tensor x.step.toNat then some .peer
      else if f = 11 then none else s.healthStall i.tile x.part tensor x.step
    faults := rangeFaults rs ++ ownerFault i s (rn w.srca) ++
      match (((s.tileAt i.tile).bankAt (rn w.srca)).flipped i.hw.bankErr).tallyBad with
      | some m => [(0x20, BitVec.ofNat 64 (rn w.srca * 2 ^ 63 + m))]
      | none => [] }

/-- Element events of a read-out by marks (Table 04-7, non-MX destinations): an SP-only or SM-only element raises SAT, and NONFINITE only where it is
written so. -/
def markEvents (mx sat : Bool) (sp : Bool) (loss : Bool) (ev : List Nat) : List Nat :=
  let ev := if sp && !mx then (if sat then [hSat] else hSat :: ev) else ev
  if loss then hLoss :: ev else ev

/-- ACC.OUT: the bank's contents as a slice, one rounding per element (R92), with its health events. -/
def effAccOut (i : Issue) (pc : BitVec 48) (s : State) : State :=
  let w := i.word
  let f0 := extF w 93 90
  let x := s.streamAt i.tile i.stream
  let b := (s.tileAt i.tile).bankAt (rn w.srca)
  if f0 = 11 then
    s.modTile i.tile fun t => t.lsWrite i.stream (256 * extF w 76 64) ((List.range 16384).flatMap fun e => natLe 16 (w96Record b e))
  else if 2 ≤ i.hw.convErr then (s.convDisagree i.tile i.hw.convErr).jump i pc
  else
    let s := s.convDisagree i.tile i.hw.convErr
    let tensor := extF w 117 98
    let blk := w.ext.getLsbD 33
    let sat := w.ext.getLsbD 32
    let rf := s.resolveFmt x.part tensor x.step f0
    let md := if f0 = 12 then Rnd.sr else Rnd.ofCode (extF w 95 94)
    let idx := (s.getS i (rn w.srcb)).toNat
    let src := fun r c => (b.readVal (128 * r + c)).1
    let cv := convSlice rf.1 md sat blk (fun r c => s.srAt x.part tensor x.step 0 (immF w 13 0) (idx * 16384 + 128 * r + c)) src
    let evs := ((List.range 16384).zip cv.events).map fun e =>
      0 :: histIdx (s.partAt x.part).histBase (src (e.1 / 128) (e.1 % 128)) ++
        markEvents (isMx rf.1) sat (b.readVal e.1).2 (b.mark e.1 &&& markL != 0) e.2
    let evs := if f0 = 12 then evs ++ shadowSlice blk src else evs
    let s := s.modTile i.tile fun t =>
      (t.lsWrite i.stream (256 * extF w 76 64) cv.elems).lsWrite i.stream (256 * extF w 89 77) cv.plane
    let s := if rf.2 then s.countUnmapped x.part 1 else s
    s.countHealth i.tile x.part tensor x.step evs

/-- A tally mismatch is also counted in TILE_ARR_TALLY_FAULT (R59). -/
def execAccOut (i : Issue) (s : State) : Host.Outcome State Fault Refusal :=
  let s' := match verdict i (needsAccOut i s) s with
    | .fault 0x20 _ => s.modPhysOf i.tile fun p => { p with tallyFault := satAdd max48 p.tallyFault }
    | _ => s
  issue i (needsAccOut i s) (effAccOut i) s'

/-- A W96 slice in local store, as the stream reads it: record `e`. -/
def w96At (i : Issue) (s : State) : Nat → Nat :=
  let rd := rdOf ((s.tileAt i.tile).lsRead i.stream (256 * extF i.word 76 64) 262144).toArray
  fun e => leNat ((List.range 16).map fun k => rd (16 * e + k))

def recA (r : Nat) : Int := sext 96 r
def recFills (r : Nat) : Nat := bits r 121 112

/-- A record no bank writes (R91). -/
def recBad (fills r : Nat) : Bool :=
  decide (bits r 127 122 ≠ 0 ∨ 512 < recFills r ∨ recFills r ≠ fills) || decide (recFills r * 2 ^ 86 ≤ (recA r).natAbs ∧ (recA r ≠ 0 ∨ recFills r ≠ 0))

/-- The faults of ACC.MERGE's slice (R91): the limit is judged where the records agree on FILLS. -/
def mergeFaults (i : Issue) (s : State) : List (Nat × Word) :=
  let b := (s.tileAt i.tile).bankAt (rn i.word.dst)
  let rec_ := w96At i s
  let fills := recFills (rec_ 0)
  let es := List.range 16384
  (match es.find? fun e => decide (bits (rec_ e) 105 96 ≠ b.anchor.toNat) with
    | some e => [(0x0B, BitVec.ofNat 64 (b.anchor.toNat + bits (rec_ e) 105 96 * 2 ^ 16))]
    | none => []) ++
  (if es.all (fun e => decide (recFills (rec_ e) = fills)) && decide (512 < b.fills + fills) then [(0x0A, BitVec.ofNat 64 b.fills)] else []) ++
  (match es.find? fun e => recBad fills (rec_ e) with
    | some e => [(0x0C, BitVec.ofNat 64 e)]
    | none => [])

def needsAccMerge (i : Issue) (s : State) : Needs :=
  let rs : List (Nat × Nat) := [(256 * extF i.word 76 64, 262144)]
  { ill := funcIll i.word zero ++ opsIll i.word .acc .none .none ++ immIll i.word 23 0 zero ++ extIll i.word 127 77 zero
    writes := resAcc i.word.dst, unreplay := true
    lsR := if (rangeFaults rs).isEmpty then rs else []
    faults := rangeFaults rs ++ ownerFault i s (rn i.word.dst) ++ if (rangeFaults rs).isEmpty then mergeFaults i s else [] }

/-- Adds a W96 slice to a bank exactly (R91). -/
def effAccMerge (i : Issue) (s : State) : State :=
  let rec_ := w96At i s
  s.modTile i.tile fun t => t.modBank (rn i.word.dst) fun b =>
    let b := (List.range 128).foldl (fun (b : Bank) m =>
      let row := (List.range 128).map fun c => (recA (rec_ (128 * m + c)), BitVec.ofNat 6 (bits (rec_ (128 * m + c)) 111 106))
      b.addRow m row (sumInts (row.map (·.1)))) b
    { b with fills := b.fills + recFills (rec_ 0) }

def execAccMerge (i : Issue) (s : State) : Host.Outcome State Fault Refusal := issue i (needsAccMerge i s) (fun _ s => effAccMerge i s) s

def needsAccOwn (i : Issue) (_ : State) : Needs :=
  { ill := funcIll i.word zero ++ opsIll i.word .acc .none .none ++ immExtZero i.word, unreplay := true }

/-- ACC.ACQ takes a free bank; on another stream's bank, or one an ended program is leaving (R134), the stream waits at the instruction (R133). -/
def effAccAcq (i : Issue) (pc : BitVec 48) (s : State) : State :=
  let k := rn i.word.dst
  match ((s.tileAt i.tile).bankAt k).owner with
  | none => s.modTile i.tile fun t => t.modBank k fun b => { b with owner := some i.stream }
  | some _ =>
    if ((s.tileAt i.tile).bankAt k).ownedBy i.stream then s
    else s.modTile i.tile fun t => { (t.modStream i.stream fun x => { x with pc := pc, waiting := true, cause := .dep }) with acqs := t.acqs ++ [(k, i.stream)] }

def execAccAcq (i : Issue) (s : State) : Host.Outcome State Fault Refusal := issue i (needsAccOwn i s) (effAccAcq i) s

/-- ACC.REL waits for the stream's entries on the bank. -/
def needsAccRel (i : Issue) (s : State) : Needs := { needsAccOwn i s with writes := resAcc i.word.dst }

/-- Frees an owned bank; no effect on a bank the stream does not own (R133). -/
def effAccRel (i : Issue) (s : State) : State :=
  let k := rn i.word.dst
  s.modTile i.tile fun t =>
    if (t.bankAt k).ownedBy i.stream then (t.modBank k fun b => { b with owner := none }).grantAcqs else t

def execAccRel (i : Issue) (s : State) : Host.Outcome State Fault Refusal := issue i (needsAccRel i s) (fun _ s => effAccRel i s) s

/-! ## EXPSCAN -/

/-- The ranges of one side: slices and, for an MX format, planes. -/
def scanRanges (off cnt f soff : Nat) : List (Nat × Nat) :=
  [(256 * off, cnt * sliceBytes f)] ++ if isMx f then [(256 * soff, cnt * 512)] else []

/-- The largest effective exponent of a side's non-zero finite elements; MX blocks are taken along rows (log 8). -/
def scanExp (t : Tile) (st : StreamId) (off cnt f soff : Nat) : Option Int :=
  (List.range cnt).foldl (fun a k =>
    let rd := rdOf (t.lsRead st (256 * off + k * sliceBytes f) (sliceBytes f)).toArray
    let sc := rdOf (t.lsRead st (256 * soff + k * 512) (planeBytes f)).toArray
    match a, maxTop ((List.range 16384).map fun e => valAt rd sc f false (e / 128) (e % 128)) with
    | some x, some y => some (max x y)
    | some x, none => some x
    | none, y => y) none

/-- ANCHOR from the two sides and ADJ (R90). -/
def scanAnchor (a b : Option Int) (adj : Int) : Int :=
  match a, b with
  | some x, some y => clampInt (-512) 511 (x + y + 2 - 79 + adj)
  | _, _ => -32 + adj

def needsExpscan (i : Issue) (s : State) : Needs :=
  let w := i.word
  let af := extF w 113 110
  let bf := extF w 117 114
  let v := (s.getS i (rn w.srca)).toNat
  let rs := scanRanges (extF w 76 64) (extF w 86 77) af (bits v 12 0) ++ scanRanges (extF w 99 87) (extF w 109 100) bf (bits v 28 16)
  let okf := fun (f : Nat) => decide (1 ≤ f ∧ f ≤ 10)
  { ill := funcIll w zero ++ opsIll w .s (if isMx af || isMx bf then .s else .none) .none ++ immIll w 23 6 zero ++ extIll w 127 118 zero ++
      extIll w 117 114 fmtOk ++ extIll w 113 110 fmtOk ++ extIll w 109 100 (fun n => decide (n ≠ 0)) ++ extIll w 86 77 (fun n => decide (n ≠ 0))
    reads := resS w.srca, writes := resS w.dst
    lsR := if okf af && okf bf && (rangeFaults rs).isEmpty then rs else []
    faults := fmtFault (okf af) af ++ fmtFault (okf bf) bf ++ rangeFaults rs }

def effExpscan (i : Issue) (s : State) : State :=
  let w := i.word
  let v := (s.getS i (rn w.srca)).toNat
  let t := s.tileAt i.tile
  let a := scanExp t i.stream (extF w 76 64) (extF w 86 77) (extF w 113 110) (bits v 12 0)
  let b := scanExp t i.stream (extF w 99 87) (extF w 109 100) (extF w 117 114) (bits v 28 16)
  s.putS i (rn w.dst) (BitVec.ofInt 64 (scanAnchor a b (sext 6 (immF w 5 0))))

def execExpscan (i : Issue) (s : State) : Host.Outcome State Fault Refusal := issue i (needsExpscan i s) (fun _ s => effExpscan i s) s

end Sys2Proof.Machine
end

