-- ==== Sys2Proof/Machine/Pace.lean ====
section
/-! DEFINITION. The voltage at a tile, the token rate it guarantees (R61, Table 03-8), and the time pacing takes from it (R141). -/

namespace Sys2Proof.Machine

/-- The rated setpoint of a column rail in 2.5 mV steps above 0.60 V: 0.75 V for -L, 0.68 V for -M (R436). -/
def ratedSet : Nat := if Config.gradeL then 60 else 32

/-- Thermal offset of a column rail, and its setpoint under the power loop and that offset (R436–R439). -/
def State.railTherm (s : State) (d c : Nat) : Nat := Map.get 0 (s.dieAt d).railTherm c
def State.railSet (s : State) (d c : Nat) : Nat := ratedSet - s.pwr.offset - s.railTherm d c

/-- Minimum token rate in units of 0.01 G tokens/s, at a voltage in 2.5 mV steps above 0.60 V, by the lower-row rule: the column of Table 03-8 for
Tj ≤ 85 °C. -/
def tokenRate (v : Nat) : Nat := if v < 16 then 62 else if v < 32 then 76 else if v < 48 then 90 else if v < 60 then 102 else if v < 76 then 110 else 119

/-- The column for 85 °C < Tj ≤ 95 °C. -/
def hotRate (v : Nat) : Nat := if v < 16 then 57 else if v < 32 then 70 else if v < 48 then 83 else if v < 60 then 94 else if v < 76 then 101 else 109

/-- Voltage at a physical tile, in 2.5 mV steps above 0.60 V (R436). -/
def State.tileSteps (s : State) (g : Nat) : Nat := ((s.railSet (g / nPhys) (g % nPhys % 13) : Int) + 2 * (s.ptileAt g).vtrim).toNat

/-- The rate guaranteed at a physical tile's voltage and temperature; above 95 °C none is, and the hot column's stands (log 90). -/
def State.tileRate (s : State) (g : Nat) : Nat := if 85 < (s.ptileAt g).tj then hotRate (s.tileSteps g) else tokenRate (s.tileSteps g)

/-- Whether pacing of any cause lowers the voltage at a tile (R141). -/
def State.pacedTile (s : State) (g : Nat) : Bool :=
  decide (s.tileSteps g < ratedSet) &&
    (decide (0 < s.pwr.offset) || decide (0 < s.railTherm (g / nPhys) (g % nPhys % 13)) || (s.ptileAt g).trimBase.isSome)

/-- PACE of one tick in 1/256 (R141). -/
def State.paceShare (s : State) (g : Nat) : Nat :=
  if s.pacedTile g then 256 * (tokenRate ratedSet - tokenRate (s.tileSteps g)) / tokenRate ratedSet else 0

/-- Ticks added to TILE_IDLE[c], TILE_WAIT[s][c]. -/
def Tile.addIdle (t : Tile) (c : Cause) (k : Nat := 1) : Tile := { t with idle := Map.upd 0 t.idle c.code fun n => satAdd max48 n k }
def Tile.addWait (t : Tile) (st : StreamId) (c : Cause) (k : Nat := 1) : Tile :=
  { t with wait := Map.upd 0 t.wait (8 * st.code + c.code) fun n => satAdd max48 n k }

/-- Adds a share in 1/256 of a tick to a fraction: the fraction left, and the whole ticks that have come of it. -/
def Tile.paceInto (t : Tile) (k share : Nat) : Tile × Nat :=
  let n := Map.get 0 t.paceFrac k + share
  ({ t with paceFrac := Map.put 0 t.paceFrac k (n % 256) }, n / 256)

/-- PACE of the tile's own counter, and of the stream whose MMA occupies the array, if it is one of the tile's (R141). -/
def Tile.addPace (t : Tile) (share : Nat) (st : Option StreamId) : Tile :=
  let a := t.paceInto 0 share
  let t1 := a.1.addIdle .pace a.2
  match st with
  | none => t1
  | some x =>
    let b := t1.paceInto (1 + x.code) share
    b.1.addWait x .pace b.2

end Sys2Proof.Machine
end

