-- ==== Sys2Proof/Machine/Vx.lean ====
section
/-! DEFINITION. VX: the vector unit (Tables 07-15, 07-16), with its shadow-lane comparison (R170, R334). -/

namespace Sys2Proof.Machine

/-- Bits an error list flips in a lane. -/
def flipsOf (es : List (Nat × Lane)) (l : Nat) : Lane := es.foldl (fun x e => if e.1 = l then x ^^^ e.2 else x) 0

/-- A VX result, written once its shadow-lane comparison has agreed; on a disagreement it waits on its scoreboard entry for the settlement
(R170, R334). `truth` is what fault-free lanes give: 128 lanes, or one value where the destination is scalar; `ext` is VEXT's lane. -/
def State.vxResult (s : State) (i : Issue) (pc : BitVec 48) (dstV dstS : Option Nat) (truth : List Lane) (ext : Option Nat) : State :=
  let put := fun (s : State) (xs : List Lane) =>
    match dstV, dstS with
    | some v, _ => s.putV i v xs
    | none, some r => s.putS i r (BitVec.ofNat 64 (xs.headD 0).toNat)
    | none, none => s
  let k := match s.physOf i.tile with | some m => (s.ptileAt m).vxCount | none => 0
  let g := match ext with | some l => l / 16 | none => k % 8
  let checked := match ext with | some l => [l] | none => (List.range 16).map (16 * g + ·)
  let wrong := checked.filter fun l => flipsOf i.hw.mainErr l != flipsOf i.hw.shadowErr (l % 16)
  let main :=
    if dstV.isSome then (List.range 128).map fun l => truth.getD l 0 ^^^ flipsOf i.hw.mainErr l
    else match ext with
      | some l => [truth.headD 0 ^^^ flipsOf i.hw.mainErr l]
      | none => [i.hw.mainErr.foldl (fun x e => x ^^^ e.2) (truth.headD 0)]
  match wrong with
  | [] =>
    put (s.modPhysOf i.tile fun m => { m with vxCount := k + 1, laneSince := Map.put 0 m.laneSince g (k + 1) }) main
  | l :: _ =>
    let at_ := fun (x : Nat) => if dstV.isSome then truth.getD x 0 else truth.headD 0
    let h : VxHeld :=
      { id := s.nextId, stream := i.stream, pc := pc, dstV := dstV, dstS := dstS, main := main, truth := truth,
        shadow := checked.map fun x => (x, at_ x ^^^ flipsOf i.hw.shadowErr (x % 16)), group := g, lane := l, k := k }
    let e : SbEntry :=
      { stream := i.stream, reads := [], op := s.nextId,
        writes := match dstV, dstS with | some v, _ => [.v v] | none, some r => [.s r] | none, none => [] }
    let s := s.modPhysOf i.tile fun m => { m with vxCount := k + 1 }
    (s.modTile i.tile fun t => { t with vxHeld := t.vxHeld ++ [h], sb := t.sb ++ [e] }).bumpId

/-- A lane result in vD. -/
def effLanes (i : Issue) (pc : BitVec 48) (xs : List Lane) (s : State) : State := s.vxResult i pc (some (rn i.word.dst)) none xs none

/-- Two vector operands, lane by lane. -/
def zipLanes (f : Lane → Lane → Lane) (i : Issue) (s : State) : List Lane :=
  List.zipWith f (s.getV i (rn i.word.srca)) (s.getV i (rn i.word.srcb))

/-- Needs of a three-register form; `readD` where vD is also a source. -/
def needsVvv (funcOk : Nat → Bool) (readD : Bool) (i : Issue) (_ : State) : Needs :=
  { ill := funcIll i.word funcOk ++ opsIll i.word .v .v .v ++ immExtZero i.word
    reads := resV i.word.srca ++ resV i.word.srcb ++ if readD then resV i.word.dst else []
    writes := resV i.word.dst }

/-- VFP by FUNC (R93). -/
def vfpOp : Nat → Lane → Lane → Lane
  | 0 => fAdd | 1 => fSub | 2 => fMul | 3 => fDiv | 4 => fMin | _ => fMax

def needsVfp : Issue → State → Needs := needsVvv (fun n => decide (n < 6)) false
def execVfp (i : Issue) (s : State) : Host.Outcome State Fault Refusal :=
  issue i (needsVfp i s) (fun pc s => effLanes i pc (zipLanes (vfpOp i.word.func.toNat) i s) s) s

def needsVfma : Issue → State → Needs := needsVvv zero true
/-- vA × vB + vD with one rounding. -/
def vfmaLanes (i : Issue) (s : State) : List Lane :=
  List.zipWith (fun (p : Lane × Lane) d => fFma p.1 p.2 d) ((s.getV i (rn i.word.srca)).zip (s.getV i (rn i.word.srcb))) (s.getV i (rn i.word.dst))
def execVfma (i : Issue) (s : State) : Host.Outcome State Fault Refusal :=
  issue i (needsVfma i s) (fun pc s => effLanes i pc (vfmaLanes i s) s) s

/-- VFUN by FUNC (R93). -/
def vfunOp : Nat → Lane → Lane
  | 0 => fSqrt | 1 => fRsqrt | 2 => fExp2 | 3 => fLog2 | 4 => fAbs | _ => fNeg

def needsVfun (i : Issue) (_ : State) : Needs :=
  { ill := funcIll i.word (fun n => decide (n < 6)) ++ opsIll i.word .v .v .none ++ immExtZero i.word
    reads := resV i.word.srca, writes := resV i.word.dst }
def execVfun (i : Issue) (s : State) : Host.Outcome State Fault Refusal :=
  issue i (needsVfun i s) (fun pc s => effLanes i pc ((s.getV i (rn i.word.srca)).map (vfunOp i.word.func.toNat)) s) s

/-- VINT by FUNC; shifts use vB[4:0]. -/
def vintOp : Nat → Lane → Lane → Lane
  | 0 => fun a b => a + b
  | 1 => fun a b => a - b
  | 2 => fun a b => a * b
  | 3 => fun a b => a &&& b
  | 4 => fun a b => a ||| b
  | 5 => fun a b => a ^^^ b
  | 6 => fun a b => a <<< (b.toNat % 32)
  | 7 => fun a b => a >>> (b.toNat % 32)
  | _ => fun a b => a.sshiftRight (b.toNat % 32)

def needsVint : Issue → State → Needs := needsVvv (fun n => decide (n < 9)) false
def execVint (i : Issue) (s : State) : Host.Outcome State Fault Refusal :=
  issue i (needsVint i s) (fun pc s => effLanes i pc (zipLanes (vintOp i.word.func.toNat) i s) s) s

/-- VCMP by FUNC: FP32 EQ, LT, LE, UNORD; integer EQ, LT signed, LT unsigned. -/
def vcmpOp : Nat → Lane → Lane → Bool
  | 0 => fEq | 1 => fLt | 2 => fLe | 3 => fUnord
  | 8 => fun a b => decide (a = b)
  | 9 => fun a b => a.slt b
  | _ => fun a b => a.ult b

def needsVcmp : Issue → State → Needs := needsVvv (fun n => decide (n < 4 ∨ (8 ≤ n ∧ n < 11))) false
def execVcmp (i : Issue) (s : State) : Host.Outcome State Fault Refusal :=
  issue i (needsVcmp i s) (fun pc s => effLanes i pc (zipLanes (fun a b => if vcmpOp i.word.func.toNat a b then 0xFFFFFFFF else 0) i s) s) s

def needsVsel : Issue → State → Needs := needsVvv zero true
/-- A non-zero lane of vD takes vA, else vB. -/
def vselLanes (i : Issue) (s : State) : List Lane :=
  List.zipWith (fun (p : Lane × Lane) d => if d ≠ 0 then p.1 else p.2) ((s.getV i (rn i.word.srca)).zip (s.getV i (rn i.word.srcb))) (s.getV i (rn i.word.dst))
def execVsel (i : Issue) (s : State) : Host.Outcome State Fault Refusal :=
  issue i (needsVsel i s) (fun pc s => effLanes i pc (vselLanes i s) s) s

/-- VBCAST and VIOTA: a scalar source. -/
def needsVs (i : Issue) (_ : State) : Needs :=
  { ill := funcIll i.word zero ++ opsIll i.word .v .s .none ++ immExtZero i.word
    reads := resS i.word.srca, writes := resV i.word.dst }
def low32 (w : Word) : Lane := w.setWidth 32
def execVbcast (i : Issue) (s : State) : Host.Outcome State Fault Refusal :=
  issue i (needsVs i s) (fun pc s => effLanes i pc (List.replicate 128 (low32 (s.getS i (rn i.word.srca)))) s) s
def execViota (i : Issue) (s : State) : Host.Outcome State Fault Refusal :=
  issue i (needsVs i s) (fun pc s => effLanes i pc ((List.range 128).map fun n => low32 (s.getS i (rn i.word.srca)) + BitVec.ofNat 32 n) s) s

def needsVext (i : Issue) (_ : State) : Needs :=
  { ill := funcIll i.word zero ++ opsIll i.word .s .v .none ++ immIll i.word 23 7 zero ++ extZero i.word
    reads := resV i.word.srca, writes := resS i.word.dst }
/-- sD takes the lane IMM[6:0], which the shadow lanes recompute. -/
def effVext (i : Issue) (pc : BitVec 48) (s : State) : State :=
  let l := immF i.word 6 0
  s.vxResult i pc none (some (rn i.word.dst)) [(s.getV i (rn i.word.srca)).getD l 0] (some l)
def execVext (i : Issue) (s : State) : Host.Outcome State Fault Refusal := issue i (needsVext i s) (effVext i) s

def vredN (i : Issue) : Nat := immF i.word 6 0
/-- VRED's count is out of range where vA + n − 1 passes v63 (Table 07-15; the offending field is the count, log 13). -/
def needsVred (i : Issue) (_ : State) : Needs :=
  let a := rn i.word.srca
  { ill := funcIll i.word (fun n => decide (n < 3)) ++ opsIll i.word .s .v .none ++
      need (!isV i.word.srca || decide (a + vredN i ≤ 64)) 40 ++ immIll i.word 6 0 (fun n => decide (1 ≤ n ∧ n ≤ 64)) ++
      immIll i.word 23 7 zero ++ extZero i.word
    reads := if isV i.word.srca then (List.range (vredN i)).map fun n => .v (a + n) else []
    writes := resS i.word.dst }
/-- VRED by FUNC. -/
def vredOp : Nat → Lane → Lane → Lane
  | 0 => fAdd | 1 => fMax | _ => fMin
/-- The tree of R94 over n registers in lane order, register by register. -/
def effVred (i : Issue) (pc : BitVec 48) (s : State) : State :=
  let xs := (List.range (vredN i)).flatMap fun n => s.getV i (rn i.word.srca + n)
  s.vxResult i pc none (some (rn i.word.dst)) [treeReduce (fun _ a b => vredOp i.word.func.toNat a b) 0 xs] none
def execVred (i : Issue) (s : State) : Host.Outcome State Fault Refusal := issue i (needsVred i s) (effVred i) s

/-! ## Conversions -/

/-- The fields VCVT, VLDS and VSTS share (Table 07-16). -/
def vxFmt (w : IWord) : Nat := extF w 80 77
def vxTensor (w : IWord) : Nat := extF w 103 84
def vxSat (w : IWord) : Bool := decide (extF w 83 83 = 1)
def vxRnd (w : IWord) : Rnd := Rnd.ofCode (extF w 82 81)
def vxLane (w : IWord) : Nat := immF w 13 0

/-- The stalls of a conversion of the vector unit: the decision a BLEND format waits for (R111), the health entry (R104, R105). -/
def vxStall (i : Issue) (s : State) (blend count : Bool) : Option Cause :=
  let x := s.streamAt i.tile i.stream
  if blend && (s.partAt x.part).blendWaits (vxTensor i.word) x.step.toNat then some .peer
  else if count then s.healthStall i.tile x.part (vxTensor i.word) x.step else none

/-- 128 values converted to format `f`, MX blocks of 32 consecutive lanes (R76): codes, scales, events. -/
def convLanes (f : Nat) (md : Rnd) (sat : Bool) (rnd : Nat → Nat) (vs : List Val) : List Nat × List Byte × List (List Nat) :=
  if isMx f then
    let bs := (List.range 4).map fun j =>
      convBlock f md ((List.range 32).map fun k => rnd (32 * j + k)) ((vs.drop (32 * j)).take 32)
    (bs.flatMap (·.2.1), bs.map fun b => BitVec.ofNat 8 b.1, bs.flatMap (·.2.2))
  else
    let es := (List.range 128).map fun k => convElem f md sat (rnd k) (vs.getD k .nan)
    (es.map (·.1), [], es.map (·.2))

/-- Events of each value converted, with ELEMENTS and the histogram bin (Table 05-1, R101), and the shadow counts of a BLEND destination. -/
def laneEvents (hb : Int) (blend : Bool) (vs : List Val) (ev : List (List Nat)) : List (List Nat) :=
  (List.zipWith (fun v e => 0 :: histIdx hb v ++ e) vs ev) ++
    if blend then (List.range 4).flatMap fun j => shadowBlock ((vs.drop (32 * j)).take 32) else []

/-- Bytes of a vector register, lane 0 first. -/
def laneBytes (xs : List Lane) : List Byte := xs.flatMap fun x => natLe 4 x.toNat
/-- Lanes of 512 bytes. -/
def bytesLanes (bs : List Byte) : List Lane :=
  let a := bs.toArray
  (List.range 128).map fun l => BitVec.ofNat 32 (leNat ((List.range 4).map fun k => rdOf a (4 * l + k)))

def needsVcvt (i : Issue) (s : State) : Needs :=
  let w := i.word
  let f := vxFmt w
  let narrow := decide (w.func.toNat = 0)
  let ok := decide (1 ≤ f ∧ f ≤ 10) || (narrow && decide (f = 12))
  { ill := funcIll w (fun n => decide (n < 2)) ++ opsIll w .v .v .sOrNone ++ immIll w 23 14 zero ++ extIll w 127 126 zero ++ extIll w 125 125 zero ++
      extIll w 124 112 zero ++ extIll w 111 111 zero ++ extIll w 110 104 zero ++ extIll w 82 81 rndOk ++ extIll w 80 77 fmtOk ++ extIll w 76 64 zero
    reads := resV w.srca ++ resS w.srcb, writes := resV w.dst
    stall := if ok then vxStall i s (decide (f = 12)) true else none
    faults := fmtFault ok f }

/-- The values of the packed elements of a register, with their block scales in lane 127 (R166). -/
def packedVals (f : Nat) (xs : List Lane) : List Val :=
  let v := leNat (laneBytes xs)
  let w := fmtWidth f
  let sc := xs.getD 127 0
  (List.range 128).map fun n =>
    let x := decodeElem f (v / 2 ^ (w * n) % 2 ^ w)
    if isMx f then scaleVal (bits sc.toNat (8 * (n / 32) + 7) (8 * (n / 32))) x else x

/-- The narrowed register: packed elements, block scales in lane 127, the BLEND choice in lane 126 (R166). -/
def packRegister (f : Nat) (codes : List Nat) (scales : List Byte) (blend : Bool) : List Lane :=
  let base := bytesLanes (packCodes (fmtWidth f) codes)
  let base := if scales.isEmpty then base else base.set 127 (BitVec.ofNat 32 (leNat scales))
  if blend then base.set 126 (if f = 5 then 0 else if f = 6 then 1 else 2) else base

/-- VCVT narrow and widen (R166, R167). -/
def effVcvt (i : Issue) (pc : BitVec 48) (s : State) : State :=
  let w := i.word
  let x := s.streamAt i.tile i.stream
  let src := s.getV i (rn w.srca)
  let hb := (s.partAt x.part).histBase
  if w.func.toNat = 0 then
    let rf := s.resolveFmt x.part (vxTensor w) x.step (vxFmt w)
    let blend := decide (vxFmt w = 12)
    let base := if isNone w.srcb then 0 else (s.getS i (rn w.srcb)).toNat
    let vs := src.map f32
    let cv := convLanes rf.1 (if blend then .sr else vxRnd w) (vxSat w) (fun k => s.srAt x.part (vxTensor w) x.step 0 (vxLane w) (base + k)) vs
    let s := effLanes i pc (packRegister rf.1 cv.1 cv.2.1 blend) s
    let s := if rf.2 then s.countUnmapped x.part 1 else s
    s.countHealth i.tile x.part (vxTensor w) x.step (laneEvents hb blend vs cv.2.2)
  else
    let vs := packedVals (vxFmt w) src
    let cv := convLanes 0 (vxRnd w) (vxSat w) (fun _ => 0) vs
    let s := effLanes i pc (cv.1.map (BitVec.ofNat 32)) s
    s.countHealth i.tile x.part (vxTensor w) x.step (laneEvents hb false vs cv.2.2)

def execVcvt (i : Issue) (s : State) : Host.Outcome State Fault Refusal := issue i (needsVcvt i s) (effVcvt i) s

/-! ## Local store -/

def needsVld (i : Issue) (s : State) : Needs :=
  let a := lsAddr i s
  { ill := funcIll i.word zero ++ opsIll i.word .v .s .none ++ extZero i.word
    reads := resS i.word.srca, writes := resV i.word.dst
    lsR := lsSpan a 512 64, faults := lsFaults a 512 64 }
def effVld (i : Issue) (pc : BitVec 48) (s : State) : State :=
  effLanes i pc (bytesLanes ((s.tileAt i.tile).lsRead i.stream (lsAddr i s) 512)) s
def execVld (i : Issue) (s : State) : Host.Outcome State Fault Refusal := issue i (needsVld i s) (effVld i) s

def needsVst (i : Issue) (s : State) : Needs :=
  let a := lsAddr i s
  { ill := funcIll i.word zero ++ opsIll i.word .none .s .v ++ extZero i.word
    reads := resS i.word.srca ++ resV i.word.srcb
    lsW := lsSpan a 512 64, faults := lsFaults a 512 64 }
def effVst (i : Issue) (s : State) : State :=
  s.modTile i.tile fun t => t.lsWrite i.stream (lsAddr i s) (laneBytes (s.getV i (rn i.word.srcb)))
def execVst (i : Issue) (s : State) : Host.Outcome State Fault Refusal := issue i (needsVst i s) (fun _ s => effVst i s) s

/-- A line of a slice: the row or column and the (row, column) of its element k. -/
def lineCol (w : IWord) : Bool := decide (extF w 111 111 = 1)
def lineRC (w : IWord) (k : Nat) : Nat × Nat := if lineCol w then (k, extF w 110 104) else (extF w 110 104, k)
def lineBase (w : IWord) : Nat := 256 * extF w 76 64
def linePlane (w : IWord) : Nat := 256 * extF w 124 112
def lineBlk (w : IWord) : Bool := decide (extF w 125 125 = 1)

/-- The bytes a line of format `f` occupies: a run for a row, one range an element for a column. -/
def lineRanges (w : IWord) (f : Nat) : List (Nat × Nat) :=
  let b := fmtWidth f
  if lineCol w then
    (List.range 128).map fun k =>
      let p := b * (128 * k + extF w 110 104)
      (lineBase w + p / 8, (p % 8 + b + 7) / 8)
  else [(lineBase w + 16 * b * extF w 110 104, 16 * b)]

/-- The scale bytes of a line: its own four where it lies along the blocks, otherwise its bytes among all lines. -/
def planeRanges (w : IWord) (f : Nat) : List (Nat × Nat) :=
  if isMx f then
    if lineCol w = lineBlk w then [(linePlane w + 4 * extF w 110 104, 4)] else [(linePlane w, 512)]
  else []

/-- The format a line form uses: the format in force for BLEND (R111). -/
def lineFmt (i : Issue) (s : State) : Nat × Bool :=
  let x := s.streamAt i.tile i.stream
  s.resolveFmt x.part (vxTensor i.word) x.step (vxFmt i.word)

/-- ILLEGAL fields of VLDS and VSTS: SOFF and BLK are 0 for a format without scales (R164). -/
def lineIll (w : IWord) : List Nat :=
  immIll w 23 14 zero ++ extIll w 127 126 zero ++ extIll w 82 81 rndOk ++ extIll w 80 77 fmtOk ++
    if isMx (vxFmt w) || decide (vxFmt w = 12) then [] else extIll w 125 125 zero ++ extIll w 124 112 zero

/-- The whole ranges R164 checks: the slice, and the scale plane of an MX or BLEND operand. -/
def lineWhole (w : IWord) : List (Nat × Nat) :=
  [(lineBase w, sliceBytes (vxFmt w)), (linePlane w, if isMx (vxFmt w) || decide (vxFmt w = 12) then 512 else 0)]

def needsVlds (i : Issue) (s : State) : Needs :=
  let w := i.word
  let ok := decide (vxFmt w ≠ 11)
  let rf := lineFmt i s
  let fs := fmtFault ok (vxFmt w) ++ rangeFaults (lineWhole w)
  { ill := funcIll w zero ++ opsIll w .v .none .none ++ lineIll w
    writes := resV w.dst
    lsR := if fs.isEmpty then lineRanges w rf.1 ++ planeRanges w rf.1 else []
    stall := if ok then vxStall i s (decide (vxFmt w = 12)) (decide (vxFmt w ≠ 0)) else none
    faults := fs }

/-- The exact values of a line with its block scales (R167, R73). -/
def lineVals (i : Issue) (s : State) : List Val :=
  let t := s.tileAt i.tile
  let f := (lineFmt i s).1
  let rd := fun o => (t.lsRead i.stream (lineBase i.word + o) 1).headD 0
  let sc := fun o => (t.lsRead i.stream (linePlane i.word + o) 1).headD 0
  (List.range 128).map fun k => valAt rd sc f (lineBlk i.word) (lineRC i.word k).1 (lineRC i.word k).2

/-- VLDS: one line widened to FP32 (R167). A line of FP32 converts nothing and is not counted. -/
def effVlds (i : Issue) (pc : BitVec 48) (s : State) : State :=
  let w := i.word
  let x := s.streamAt i.tile i.stream
  let vs := lineVals i s
  let raw := (s.tileAt i.tile).lsRead i.stream (lineBase w)
  if vxFmt w = 0 then
    let rd := rdOf (raw (sliceBytes 0)).toArray
    effLanes i pc ((List.range 128).map fun k => BitVec.ofNat 32 (elemAt rd 0 (128 * (lineRC w k).1 + (lineRC w k).2))) s
  else
    let cv := convLanes 0 (vxRnd w) (vxSat w) (fun _ => 0) vs
    let s := effLanes i pc (cv.1.map (BitVec.ofNat 32)) s
    s.countHealth i.tile x.part (vxTensor w) x.step (laneEvents (s.partAt x.part).histBase false vs cv.2.2)

def execVlds (i : Issue) (s : State) : Host.Outcome State Fault Refusal := issue i (needsVlds i s) (effVlds i) s

def needsVsts (i : Issue) (s : State) : Needs :=
  let w := i.word
  let rf := lineFmt i s
  let ok := decide (vxFmt w ≠ 11) && (!isMx rf.1 || decide (lineCol w = lineBlk w))
  let fs := fmtFault ok (vxFmt w) ++ rangeFaults (lineWhole w)
  { ill := funcIll w zero ++ opsIll w .none .v .s ++ lineIll w
    reads := resV w.srca ++ resS w.srcb
    lsW := if fs.isEmpty then lineRanges w rf.1 ++ planeRanges w rf.1 else []
    stall := if decide (vxFmt w ≠ 11) then vxStall i s (decide (vxFmt w = 12)) (decide (vxFmt w ≠ 0)) else none
    faults := fs }

/-- Stores one element's code, keeping the other bits of the bytes it shares. -/
def Tile.storeElem (t : Tile) (st : StreamId) (base f e code : Nat) : Tile :=
  let w := fmtWidth f
  let o := base + w * e / 8
  let k := w * e % 8
  let n := (k + w + 7) / 8
  let old := leNat (t.lsRead st o n)
  let new := old % 2 ^ k + code * 2 ^ k + old / 2 ^ (k + w) * 2 ^ (k + w)
  t.lsWrite st o (natLe n new)

/-- VSTS: one line converted from FP32 and stored (R167, R168). A line of FP32 stores the lanes as they are. -/
def effVsts (i : Issue) (s : State) : State :=
  let w := i.word
  let x := s.streamAt i.tile i.stream
  let rf := lineFmt i s
  let blend := decide (vxFmt w = 12)
  let src := s.getV i (rn w.srca)
  let vs := src.map f32
  let idx := (s.getS i (rn w.srcb)).toNat
  let cv : List Nat × List Byte × List (List Nat) :=
    if vxFmt w = 0 then (src.map (·.toNat), [], [])
    else convLanes rf.1 (if blend then .sr else vxRnd w) (vxSat w) (fun k => s.srAt x.part (vxTensor w) x.step 0 (vxLane w)
      (idx * 16384 + 128 * (lineRC w k).1 + (lineRC w k).2)) vs
  let s := s.modTile i.tile fun t =>
    let t := if lineCol w then
        ((List.range 128).zip cv.1).foldl (fun t p => t.storeElem i.stream (lineBase w) rf.1 (128 * p.1 + extF w 110 104) p.2) t
      else t.lsWrite i.stream (lineBase w + 16 * fmtWidth rf.1 * extF w 110 104) (packCodes (fmtWidth rf.1) cv.1)
    if cv.2.1.isEmpty then t else t.lsWrite i.stream (linePlane w + 4 * extF w 110 104) cv.2.1
  let s := if rf.2 then s.countUnmapped x.part 1 else s
  if vxFmt w = 0 then s
  else s.countHealth i.tile x.part (vxTensor w) x.step (laneEvents (s.partAt x.part).histBase blend vs cv.2.2)

def execVsts (i : Issue) (s : State) : Host.Outcome State Fault Refusal := issue i (needsVsts i s) (fun _ s => effVsts i s) s

end Sys2Proof.Machine
end

