-- ==== Sys2Proof/Machine/Ref.lean ====
section
/-! DEFINITION. Referee replay (R340–R343): the choice of a referee and the settlement of a failed wave check or a shadow-lane disagreement. -/

namespace Sys2Proof.Machine

def natDist (a b : Nat) : Nat := if a ≤ b then b - a else a - b

/-- Distance of two logical tiles in coordinates of their dies. -/
def tileDist (a b : Nat) : Nat := natDist (tileRow a) (tileRow b) + natDist (tileCol a) (tileCol b)

/-- The first of least key, in order. -/
def leastBy (key : Nat → Nat) : List Nat → Option Nat
  | [] => none
  | x :: xs => match leastBy key xs with
    | none => some x
    | some y => if key y < key x then some y else some x

/-- Physical tiles of a die in a state, ascending. -/
def State.physIn (s : State) (d : Nat) (st : PState) : List Nat :=
  ((List.range nPhys).map (nPhys * d + ·)).filter fun m => decide ((s.ptileAt m).state = st)

/-- The tiles some migration in progress copies to. -/
def State.reserved (s : State) (m : Nat) : Bool := s.tmap.any fun e => decide (e.2.dest = some m)

/-- The bench tile of a die that has been in BENCH longest, the lowest index on a tie (R26, R340), one still to be proved with a new geometry left out
(R65). DESIGN CHOICE (log 75): a bench tile that a migration in progress already copies to does not count as an existing bench tile, so a second tile
fenced meanwhile finds none and its logical tile goes absent. -/
def State.oldestBench (s : State) (d : Nat) : Option Nat :=
  leastBy (fun m => (s.ptileAt m).benchSeq) ((s.physIn d .bench).filter fun m => !s.reserved m && !(s.ptileAt m).mustProve)

/-- Order of candidates: die, distance, n. -/
def refereeKey (t n : Nat) : Nat := tileDie n * 1000000 + tileDist t n * 1000 + n % 144

/-- The physical tile that referees for tile `t` in the order of R340; `tried` have failed their own check. None fits: the settlement waits. -/
def State.refereeOf (s : State) (t : Nat) (loaf : BitVec 16) (tried : List Nat) : Option Nat :=
  let d := tileDie t
  let fits := fun (n : Nat) => decide (n ≠ t) && (s.tileAt n).held.isNone &&
    match s.physOf n with | some m => decide ((s.ptileAt m).state = .active) && !tried.contains m | none => false
  let near := fun (ns : List Nat) => (leastBy (refereeKey t) ns).bind s.physOf
  let members := (s.loafTiles loaf).filter fits
  let all := (List.range nTiles).filter fits
  match near (members.filter fun n => decide (tileDie n = d)) with
  | some m => some m
  | none => match near (members.filter fun n => decide (tileDie n ≠ d)) with
    | some m => some m
    | none => match leastBy (fun m => (s.ptileAt m).benchSeq) ((s.physIn d .bench).filter fun m => !tried.contains m) with
      | some m => some m
      | none => match (s.physIn d .proving).find? fun m => !tried.contains m with
        | some m => some m
        | none => match near (all.filter fun n => decide (tileDie n = d)) with
          | some m => some m
          | none => near (all.filter fun n => decide (tileDie n ≠ d))

/-- PRV_CNT[c] of a die gains one (Table 13-9). -/
def State.countPrv (s : State) (d c : Nat) : State := s.modDie d fun x => { x with prvCnt := Map.upd 0 x.prvCnt c (satAdd max48 ·) }

/-- A referee that was proving restarts its current segment, an oven segment with the oven pattern at trim +8 (R340, R347). -/
def State.pauseRun (s : State) (m : Nat) : State :=
  s.modPtile m fun p =>
    let oven := p.run.any fun r => !r.done && (r.pack.rotation[r.segment]?).any fun g => decide (0 < g.oven)
    { p with run := p.run.map fun r => { r with ovenReady := false }, vtrim := if oven then 8 else p.vtrim }

/-- An attribution of Table 13-5: the crumb's event and the counts of R342, R343. `a` is ATTR. -/
def State.attribute (s : State) (t : Nat) (ref : Option Nat) (a : Nat) (keys : List (Nat × Cb)) : State :=
  let s1 := (s.countPrv (tileDie t) 8)
  let s2 := match ref with | some m => s1.countPrv (m / nPhys) 9 | none => s1
  let s3 := if a = 5 then s2.countPrv (tileDie t) 10 else s2
  let s4 := s3.modPhysOf t fun p =>
    match a with
    | 1 => { p with arrayAttr := satAdd 255 p.arrayAttr, pending := true }
    | 2 => { p with checkAttr := satAdd 255 p.checkAttr, pending := true }
    | 3 => { p with laneAttr := satAdd 255 p.laneAttr }
    | 4 => { p with shadowAttr := satAdd 255 p.shadowAttr }
    | _ => { p with unres := satAdd 255 p.unres }
  s4.errorEvent (if a = 5 then 2 else 1) a (s.tileUnit t) (keys ++ [(17, .u a)])

/-! ## MMA -/

/-- Replaces the DETAIL of a list of keys. -/
def heldKeys (s : State) (t : Nat) (h : Held) (detail : Nat) : List (Nat × Cb) := s.streamKeys t h.mma.stream h.mma.pc detail

/-- Uncommitted waves as fault-free silicon gives them. -/
def Held.waves (h : Held) (tl : Tile) : List (Nat × List (Int × BitVec 6)) :=
  (List.range (128 - h.wave)).map fun k => (h.wave + k, h.mma.wave_ tl (h.wave + k))

/-- The referee's errors in wave `w`: `result` names element 128·w + position and the units added. -/
def errsIn (result : List (Nat × Int)) (w : Nat) : List (Nat × Int) := (result.filter fun x => decide (x.1 / 128 = w)).map fun x => (x.1 % 128, x.2)

/-- Commits the waves of a settlement (R341) and frees the array. -/
def State.commitHeld (s : State) (t : Nat) (h : Held) (rows : List (Nat × List (Int × BitVec 6))) : State :=
  let m := h.mma
  let s1 := s.modTile t fun x =>
    let x1 := rows.foldl (fun (x : Tile) r => x.modBank m.bank fun b => b.commitRow r.1 r.2 (r.2.any fun o => flaggedMarks o.2)) x
    { x1 with held := none, array := match x1.array with | [] => [] | y :: rest => { y with wave := 128 } :: rest }
  (s1.modPhysOf t fun p =>
    { p with chkSkip := satAdd max48 p.chkSkip ((rows.filter fun r => r.2.any fun o => flaggedMarks o.2).length) }).reachToken t (m.entry + m.commitTok 127)

/-- The referee's array takes the MMA (R341): its fill and all 128 waves to the last one's check count in its TILE_ARR_TOKENS, and where it serves a
logical tile the time they enter, at the rate guaranteed there (log 90), adds to that tile's TILE_IDLE[PACE] (R141). -/
def State.refereeTokens (s : State) (m : Nat) (x : Mma) : State :=
  let p := s.ptileAt m
  let s1 := s.modPtile m fun p => { p with tokens := p.tokens + BitVec.ofNat 64 (x.fillTok + x.commitTok 127) }
  if p.state = .active then
    s1.modTile (144 * (m / nPhys) + p.logical) fun t => t.addPace (s.paceShare m * (10 * (x.fillTok + x.occTok)) / s.tileRate m) none
  else s1

/-- No referee gives an answer: nothing is committed, and the tile is C2 with DETAIL m + 256 (Table 13-5, last row). -/
def State.failHeld (s : State) (t : Nat) (h : Held) (ref : Option Nat) : State :=
  (s.modTile t fun x => { x with held := some { h with unsettled := true } }).attribute t ref 5 (heldKeys s t h (h.wave + 256))

/-- A disputed MMA against a referee's result (Table 13-5). -/
def State.settleMma (s : State) (t : Nat) (h : Held) (ref : Nat) (result : List (Nat × Int)) (selfFail : Bool) : State :=
  let s0 := (s.pauseRun ref).refereeTokens ref h.mma
  if selfFail then
    if h.tried.isEmpty then s0.modTile t fun x => { x with held := some { h with tried := [ref] } }
    else s0.failHeld t h (some ref)
  else
    let tl := s.tileAt t
    let truth := h.waves tl
    let own := truth.map fun w => (w.1, if w.1 = h.wave then withErrors w.2 h.errs else w.2)
    let fs := truth.map fun w => (w.1, withErrors w.2 (errsIn result w.1))
    let expected := fs.all fun w => h.mma.passes tl w.1 w.2 (if w.1 = h.wave then h.chkErr else 0)
    if fs = own then (s0.commitHeld t h own).attribute t (some ref) 2 (heldKeys s t h h.wave)
    else if expected then (s0.commitHeld t h fs).attribute t (some ref) 1 (heldKeys s t h h.wave)
    else (s0.commitHeld t h fs).attribute t (some ref) 5 (heldKeys s t h h.wave)

/-! ## VX -/

/-- Writes the result a settled VX instruction was waiting for and frees its entry. -/
def State.writeVx (s : State) (t : Nat) (h : VxHeld) (xs : List Lane) : State :=
  s.modTile t fun x =>
    let x1 := { x with vxHeld := x.vxHeld.filter (fun y => decide (y.id ≠ h.id)), sb := x.sb.filter fun e => decide (e.op ≠ h.id) }
    match h.dstV, h.dstS with
    | some v, _ => { x1 with vreg := Map.putRange 0 x1.vreg (128 * v) xs }
    | none, some r => x1.modStream h.stream fun y => y.writeS r (BitVec.ofNat 64 (xs.headD 0).toNat)
    | none, none => x1

/-- EXPOSURE (R334): VX instructions that wrote the lane since its group last agreed, 0 to 7. -/
def State.exposure (s : State) (t : Nat) (h : VxHeld) : Nat :=
  match s.physOf t with
  | some m => min 7 (h.k - Map.get 0 (s.ptileAt m).laneSince h.group)
  | none => 0

/-- One attribution more to a lane; the third since cold reset is C2 for the tile (R343). -/
def State.laneAttribution (s : State) (t : Nat) (shadow : Bool) (lane : Nat) : State :=
  let s1 := s.modPhysOf t fun p =>
    if shadow then { p with shadowLane := Map.upd 0 p.shadowLane lane (· + 1) } else { p with mainLane := Map.upd 0 p.mainLane lane (· + 1) }
  let n := match s1.physOf t with
    | some m => if shadow then Map.get 0 (s1.ptileAt m).shadowLane lane else Map.get 0 (s1.ptileAt m).mainLane lane
    | none => 0
  if n = 3 then s1.errorEvent 2 0x000D (s1.tileUnit t) [] else s1

/-- The referee's value of lane `l`. -/
def refLane (h : VxHeld) (result : List (Nat × Int)) (l : Nat) : Lane :=
  let base := if h.dstV.isSome then h.truth.getD l 0 else h.truth.headD 0
  base + BitVec.ofInt 32 (((result.filter fun x => decide (x.1 = l)).map (·.2)).foldl (· + ·) 0)

/-- No referee gives an answer to a VX disagreement (Table 13-5, last row). -/
def State.failVx (s : State) (t : Nat) (h : VxHeld) (ref : Option Nat) : State :=
  (s.modTile t fun x => { x with vxHeld := x.vxHeld.map fun y => if y.id = h.id then { y with unsettled := true } else y }).attribute t ref 5
    (s.streamKeys t h.stream h.pc (h.lane + 256))

/-- A VX disagreement against a referee's result (Table 13-5): the group of 16 lanes, or the one scalar. -/
def State.settleVx (s : State) (t : Nat) (h : VxHeld) (ref : Nat) (result : List (Nat × Int)) (selfFail : Bool) : State :=
  let s0 := s.pauseRun ref
  let keys := s.streamKeys t h.stream h.pc h.lane
  if selfFail then
    if h.tried.isEmpty then
      s0.modTile t fun x => { x with vxHeld := x.vxHeld.map fun y => if y.id = h.id then { y with tried := [ref] } else y }
    else s0.failVx t h (some ref)
  else if h.dstV.isSome then
    let got := h.shadow.map fun x => (x.1, refLane h result x.1)
    let mixed := (List.range 128).map fun l => if h.shadow.any (fun x => decide (x.1 = l)) then refLane h result l else h.main.getD l 0
    if got.all fun x => x.2 == h.main.getD x.1 0 then
      ((s0.writeVx t h h.main).attribute t (some ref) 4 keys).laneAttribution t true (h.lane % 16)
    else if got = h.shadow then
      ((s0.writeVx t h mixed).attribute t (some ref) 3 (keys ++ [(20, .u (s.exposure t h))])).laneAttribution t false h.lane
    else (s0.writeVx t h mixed).attribute t (some ref) 5 keys
  else
    let got := refLane h result h.lane
    if got == h.main.headD 0 then ((s0.writeVx t h h.main).attribute t (some ref) 4 keys).laneAttribution t true (h.lane % 16)
    else if h.shadow.all fun x => decide (x.1 ≠ h.lane) || x.2 == got then
      ((s0.writeVx t h [got]).attribute t (some ref) 3 (keys ++ [(20, .u (s.exposure t h))])).laneAttribution t false h.lane
    else (s0.writeVx t h [got]).attribute t (some ref) 5 keys

/-! ## The two commands -/

/-- What tile `t` has under settlement: a failed wave check first, then the oldest shadow-lane disagreement (log 23). -/
def Tile.disputed (t : Tile) : Option (Held ⊕ VxHeld) :=
  match t.held.filter fun h => !h.unsettled with
  | some h => some (.inl h)
  | none => (t.vxHeld.find? fun h => !h.unsettled).map .inr

/-- REFEREE_REPLAY: the referee of R340 answers with `result`, its errors against fault-free values, and the original tile settles (R341). -/
def execRefereeReplay (t : Nat) (result : List (Nat × Int)) (selfFail : Bool) (s : State) : Host.Outcome State Fault Refusal :=
  if nTiles ≤ t then .fault (.noSuchUnit "tile" t)
  else match (s.tileAt t).disputed with
  | none => .next s
  | some (.inl h) =>
    match s.refereeOf t (s.streamAt t h.mma.stream).loaf h.tried with
    | none => .next s
    | some ref => .next (s.settleMma t h ref result selfFail)
  | some (.inr h) =>
    match s.refereeOf t (s.streamAt t h.stream).loaf h.tried with
    | none => .next s
    | some ref => .next (s.settleVx t h ref result selfFail)

/-- REFEREE_WAIT_TIMEOUT: no candidate's array was released within 1 ms; settled as when a second referee fails its own check (R340). -/
def execRefereeWaitTimeout (t : Nat) (s : State) : Host.Outcome State Fault Refusal :=
  if nTiles ≤ t then .fault (.noSuchUnit "tile" t)
  else match (s.tileAt t).disputed with
  | none => .next s
  | some (.inl h) => if (s.refereeOf t (s.streamAt t h.mma.stream).loaf h.tried).isSome then .next s else .next (s.failHeld t h none)
  | some (.inr h) => if (s.refereeOf t (s.streamAt t h.stream).loaf h.tried).isSome then .next s else .next (s.failVx t h none)

end Sys2Proof.Machine
end

