-- ==== Sys2Proof/Machine/Bench.lean ====
section
/-! DEFINITION. Bench moves and rotation (R26–R31, R344), proving runs (R345–R348), localisation and field fuses (R64–R67), link margins (R349),
the self-test and the release of a die's tiles (R41, R68). -/

namespace Sys2Proof.Machine

/-- The state CD_PTILE_STATE shows (Table 02-3): a tile taken out of service at C2 is FENCED once no valid map entry names it any more; until its logical
tile has moved under R26, or is absent, it is ACTIVE, so that the counts of R25 hold at all times (DEDUCED, log 80). -/
def PTile.shown (p : PTile) : PState := if p.state = .fenced ∧ p.logical ≠ 0xFF then .active else p.state

/-- Whether the array runs a pattern of a proving run: BUSY of Table 03-9 from the start of a segment to its end (DESIGN CHOICE, log 77). -/
def PTile.proving (p : PTile) : Bool := p.run.any fun r => !r.done && !r.paused

/-- The bench tiles of a die, BENCH or PROVING (R25), in the rank order of its bench loaf: by physical row, then physical column (R36). -/
def State.benchTiles (s : State) (d : Nat) : List Nat :=
  ((List.range nPhys).map (nPhys * d + ·)).filter fun m => (s.ptileAt m).state == .bench || (s.ptileAt m).state == .proving

/-- Tokens the array of a physical tile spends on a pattern of proving, localisation or the self-test: they count in TILE_ARR_TOKENS (R61), and the
spec states no number, so it is a free value (log 76). -/
def State.patternTokens (s : State) (g : Nat) : State :=
  { s.modPtile g fun p => { p with tokens := p.tokens + Config.freeWord s.freeCtr } with freeCtr := s.freeCtr + 1 }

/-! ## Proving runs -/

/-- Whether the package paces for its power limit now or did in the last 100 ms, 10,000,000 reference ticks (R347). -/
def State.pacedLately (s : State) : Bool := s.pwr.limitCause || s.pwr.pacedAt.any fun a => decide ((s.refTick - a).toNat ≤ 10000000)

/-- Whether an oven segment is skipped at its start (R347). -/
def State.ovenSkip (s : State) (m dt : Nat) : Bool :=
  ((s.physIn (m / nPhys) .active).any fun x => decide (82 ≤ (s.ptileAt x).tj)) || s.pacedLately || decide (95 < (s.ptileAt m).tj + dt)

/-- The segment of a run in progress. -/
def ProvRun.seg (r : ProvRun) : Option Segment := r.pack.rotation[r.segment]?

/-- The next segment. -/
def ProvRun.next (r : ProvRun) : ProvRun := { r with segment := r.segment + 1, repeated := false, ovenReady := false }

/-- Enters the run's current segment: skipped patterns and skipped oven segments are passed over, trim and DMARGIN take the segment's values
(R345, R347), DMARGIN only on a tile that is PROVING (R63); past the last segment the run is done. -/
def State.enterSegment (s : State) (m : Nat) : Nat → State
  | 0 => s
  | fuel + 1 =>
    match (s.ptileAt m).run with
    | none => s
    | some r =>
      match r.seg with
      | none => s.modPtile m fun p => { p with run := some { r with done := true } }
      | some g =>
        if s.fw.skipPat.contains g.pattern then (s.modPtile m fun p => { p with run := some r.next }).enterSegment m fuel
        else if 0 < g.oven ∧ s.ovenSkip m (min g.oven (s.dieAt (m / nPhys)).ovenMax) = true then
          ((s.countPrv (m / nPhys) 5).modPtile m fun p => { p with run := some r.next }).enterSegment m fuel
        else s.modPtile m fun p => { p with vtrim := if 0 < g.oven then 8 else g.trim, dmargin := if p.state = .proving ∧ g.dmargin ≠ 0xFF then g.dmargin else 0 }

/-- Starts a proving run (R345). A BENCH tile enters PROVING; a FENCED tile under repair stays FENCED until its run has passed (R28). The pacing of the
logical tile it served has gone with that tile (R32). A run that would begin while sleep is entered or lasts waits for its end (log 77). -/
def State.startRun (s : State) (m : Nat) : State :=
  let s1 := s.modPtile m fun p =>
    { p with run := some { pack := s.fw.pack, paused := s.pwr.state != .run }, trimBase := none, lowering := false
             state := if p.state = .bench then .proving else p.state }
  let s2 := if (s1.ptileAt m).state = .proving then s1.modDie (m / nPhys) fun d => { d with provingM := m % nPhys } else s1
  s2.enterSegment m 17

/-- The tile whose run starts without a migration: a lone bench tile, proved continuously (R28), or a bench tile whose new geometry is still to be
proved (R65). None starts while another tile proves, in a handoff window (R350), in deep sleep or in the safe state. -/
def State.runDue (s : State) (d : Nat) : Option Nat :=
  let asleep := s.pwr.state == .deepEntry || s.pwr.state == .deep || s.pwr.state == .deepExit
  if (s.dieAt d).provingM ≠ 0xFF ∨ s.fw.handoff = true ∨ s.safeState = true ∨ asleep = true then none
  else match (s.physIn d .bench).find? fun m => (s.ptileAt m).mustProve with
    | some m => some m
    | none => match s.benchTiles d with
      | [m] => some m
      | _ => none

/-- The bench loaf, ROTATION_STOPPED and its crumbs after a change of the die's bench tiles (R28, R34), and the run that is due. -/
def State.refreshRotation (s : State) (d : Nat) : State :=
  let n := (s.benchTiles d).length
  let s0 := s.modLoaf (1020 + d) fun l => if l.valid then { l with size := n } else l
  let x := s0.dieAt d
  if !x.released then s0
  else
    let stop := decide (n < 2)
    let s1 := s0.modDie d fun y => { y with rotStopped := stop }
    let s2 := if stop = x.rotStopped then s1 else s1.crumbOut 0 (if stop then 0x0012 else 0x0013) (uDie d) []
    match s2.runDue d with
    | some m => s2.startRun m
    | none => s2

/-- Every die looks at its bench again: after a warm reset, the exit from deep sleep and the end of a handoff window a run may be due (R28, R350). -/
def State.refreshRotations (s : State) : State := (List.range nDies).foldl State.refreshRotation s

/-- What a finished or abandoned run leaves: DMARGIN 0 (R63), PROVING_M none. DESIGN CHOICE (log 78): TRIM returns to 0; the spec does not say what the
regulator holds once the trim "set for its proving run" has ended (R32). -/
def State.clearRun (s : State) (m : Nat) (dest : PState) (last : Nat) : State :=
  let d := m / nPhys
  let s1 := s.modPtile m fun p => { p with run := none, state := dest, lastRun := last, vtrim := 0, dmargin := 0, benchSeq := (s.dieAt d).benchSeq }
  s1.modDie d fun x => { x with benchSeq := x.benchSeq + 1, provingM := if x.provingM = m % nPhys then 0xFF else x.provingM }

/-- Key 11 of a proving finding. -/
def State.stressKey (s : State) (m : Nat) : Nat × Cb :=
  let p := s.ptileAt m
  (11, .z [p.vtrim, p.dmargin, p.ovenDt, p.tj])

/-- A run is abandoned (R346): the tile returns to BENCH unless the event decides otherwise. -/
def State.abandonRun (s : State) (m : Nat) : State :=
  if (s.ptileAt m).run.isNone then s
  else
    let dest := if (s.ptileAt m).state = .proving then .bench else (s.ptileAt m).state
    ((s.clearRun m dest 5).countPrv (m / nPhys) 3).crumbOut 0 0x0016 (uPhys m) []

/-- The segment a run is in, where its end can be judged now: an oven segment only once its target temperature is reached (R347). -/
def ProvRun.running (r : ProvRun) : Option Segment :=
  if r.done || r.paused then none else r.seg.filter fun x => x.oven = 0 || r.ovenReady

/-- A segment has ended: its signature is compared with the pack's (R345, R346); `dmPassed` is the last step a sweep passed, `fault` a code
its pattern raised. -/
def State.judgeSegment (s : State) (g : Nat) (r : ProvRun) (x : Segment) (signature : BitVec 64) (dmPassed : Nat) (fault : Option Nat) : State :=
  let set := fun (q : ProvRun) => s.modPtile g fun p => { p with run := some q }
  let expected := if r.pack.ver = 0 then Config.factorySig x.pattern else ((r.pack.sigs.find? fun e => decide (e.1 = x.pattern)).map (·.2)).getD 0
  let soft := match fault with | some c => decide (1 ≤ c ∧ c ≤ 0x1F) | none => false
  if soft then set { r with patternFault := true, done := true }
  else
    let sweep := decide (x.dmargin = 0xFF)
    let ok := fault.isNone && (if sweep then decide ((s.dieAt (g / nPhys)).dmFloor ≤ dmPassed) else signature == expected)
    let r1 := if sweep then { r with dmPass := some (min 16 dmPassed) } else r
    if ok then (set r1.next).enterSegment g 17
    else if x.kind = 0 then
      if r.repeated then set { r1 with ratedFail := true, done := true }
      else (set { r1 with repeated := true, ovenReady := false }).enterSegment g 17
    else (set { r1.next with marginFail := true }).enterSegment g 17

/-- A MARGIN segment is suspended while pacing of any cause holds the tile's column rail below the rated voltage; RATED segments go on (R440). -/
def State.suspended (s : State) (g : Nat) (x : Segment) : Bool :=
  decide (x.kind = 1) && (s.ptileAt g).state == .proving && decide (s.railSet (g / nPhys) (g % nPhys % 13) < ratedSet)

/-- While sleep is entered a run goes no further than the segment it was in (R70, log 77). -/
def State.pauseAfter (s : State) (g : Nat) : State :=
  if s.pwr.state = .sleepEntry then s.modPtile g fun p => { p with run := p.run.map fun r => { r with paused := !r.done } } else s

/-- PROVING_SEGMENT_END (R345, R346): not while the segment is suspended (R440). -/
def execProvingSegmentEnd (die m : Nat) (signature : BitVec 64) (dmPassed : Nat) (fault : Option Nat) (s : State) : Host.Outcome State Fault Refusal :=
  if nDies ≤ die then .fault (.noSuchUnit "die" die)
  else if nPhys ≤ m then .fault (.noSuchUnit "physical tile" m)
  else
    let g := nPhys * die + m
    match (s.ptileAt g).run with
    | none => .next s
    | some r =>
      match r.running.filter fun x => !s.suspended g x with
      | none => .next s
      | some x => .next (((s.patternTokens g).judgeSegment g r x signature dmPassed fault).pauseAfter g)

/-- PROVING_RUN_END: the outcome of Table 13-7. -/
def execProvingRunEnd (die m : Nat) (s : State) : Host.Outcome State Fault Refusal :=
  if nDies ≤ die then .fault (.noSuchUnit "die" die)
  else if nPhys ≤ m then .fault (.noSuchUnit "physical tile" m)
  else
    let g := nPhys * die + m
    match (s.ptileAt g).run with
    | none => .next s
    | some r =>
      if !r.done then .next s
      else
        let p := s.ptileAt g
        let floor := (s.dieAt die).dmFloor
        let low := match r.dmPass with | some k => decide (k < floor) | none => false
        let stress := s.stressKey g
        let s0 := s.modPtile g fun p => { p with runs := satAdd 65535 p.runs, dmPass := r.dmPass.getD p.dmPass, belowFloor := low }
        let back := if p.state = .fenced then PState.fenced else PState.bench
        let s1 :=
          if r.ratedFail then ((s0.clearRun g .fenced 4).countPrv die 2).errorEvent 2 0x0014 (uPhys g) [stress]
          else if r.patternFault then
            let s1 := ((s0.clearRun g back 6).countPrv die 4).crumbOut 0 0x0017 (uPhys g) [stress]
            match r.seg with
            | some x => { s1 with fw := { s1.fw with skipPat := s1.fw.skipPat ++ [x.pattern] } }
            | none => s1
          else if r.marginFail && low && p.belowFloor then ((s0.clearRun g .fenced 3).countPrv die 1).errorEvent 2 0x0015 (uPhys g) [stress]
          else if r.marginFail then ((s0.clearRun g back 2).countPrv die 1).crumbOut 0 0x0015 (uPhys g) [stress]
          else ((s0.clearRun g .bench 1).modPtile g fun p => { p with mustProve := false }).countPrv die 0
        .next (s1.refreshRotation die)

/-- OVEN_TARGET_REACHED: the sensor reads the starting temperature plus ΔT within 2 °C; the segment's own pattern starts at its own trim (R347). -/
def execOvenTargetReached (die m dt : Nat) (s : State) : Host.Outcome State Fault Refusal :=
  if nDies ≤ die then .fault (.noSuchUnit "die" die)
  else if nPhys ≤ m then .fault (.noSuchUnit "physical tile" m)
  else
    let g := nPhys * die + m
    match (s.ptileAt g).run with
    | none => .next s
    | some r =>
      match (if r.done || r.ovenReady then none else r.seg) with
      | none => .next s
      | some x =>
        let target := min x.oven (s.dieAt die).ovenMax
        if x.oven = 0 ∨ target + 2 < dt ∨ dt + 2 < target then .next s
        else .next (s.modPtile g fun p => { p with run := some { r with ovenReady := true }, ovenDt := dt, vtrim := x.trim })

/-! ## Moves -/

/-- Whether the tile stands at a step boundary: one it reached at most 1 ms, 100,000 reference ticks, ago (R29, R122). -/
def State.atBoundary (s : State) (n : Nat) : Bool :=
  match (s.tileAt n).boundaryAt with
  | some a => decide ((s.refTick - a).toNat ≤ 100000)
  | none => false

/-- The conditions of R29 on a tile: no open brew, a write-back counting as one (R228), no bank owned by an MMA in flight, no copy of its own; a tile that
runs a program stands at a step boundary, one that runs none instead waits for the copies addressed to it. -/
def State.mayMigrate (s : State) (n : Nat) : Bool :=
  let t := s.tileAt n
  t.mmaQ.isEmpty && t.array.isEmpty && t.held.isNone && t.vxHeld.isEmpty && t.copyQ.isEmpty &&
    (allStreams.all fun st => (t.streamAt st).brew.phase == .idle && (t.streamAt st).wb.isNone) &&
    if allStreams.any (fun st => (t.streamAt st).run) then s.atBoundary n else !s.tile.any fun e => e.2.copyQ.any fun c => c.members.contains n

/-- A migration begins (R30, R31). -/
def State.beginMove (s : State) (n dest : Nat) (rotation : Bool) : State :=
  s.modTmap n fun e => { e with migrating := true, dest := some dest, rotation := rotation }

/-- Deliveries held at the network port arrive in order (R31). -/
def State.releaseDeliveries (s : State) (n : Nat) : State :=
  let ds := (s.tileAt n).deliveries
  ds.foldl (fun s g => s.arrive n g.k g.amount g) (s.modTile n fun t => { t with deliveries := [] })

/-- The switch (R30): map, physical tile states, trim with the pacing it stands under (R32, R438); the vacated tile is BENCH, or FENCED where it was (R26).
DESIGN CHOICE (log 78): the TRIM of the physical tile it leaves becomes 0; the spec is silent on it. -/
def State.switchTile (s : State) (n old new : Nat) : State :=
  let e := s.tmapAt n
  let d := tileDie n
  let s1 := s.setTmap n { e with migrating := false, dest := none, rotation := false, moves := satAdd 255 e.moves, row := new % nPhys / 13, col := new % 13 }
  let s2 := s1.modPtile new fun p => { p with state := .active, logical := n % 144, vtrim := (s.ptileAt old).vtrim, trimBase := (s.ptileAt old).trimBase }
  let s3 := s2.modPtile old fun p =>
    { p with logical := 0xFF, state := if p.state = .fenced then .fenced else .bench, vtrim := 0, trimBase := none, lowering := false, benchSeq := (s.dieAt d).benchSeq }
  let s4 := s3.modDie d fun x => { x with benchSeq := x.benchSeq + 1 }
  (s4.modTile n fun t => { t with frozen := false }).releaseDeliveries n

/-- The MMAs and VX instructions no referee could settle run again on the new tile (Table 13-5, last row); the new array is taken as fault-free (log 23). -/
def State.reexecute (s : State) (n : Nat) : State :=
  let s1 := s.modTile n fun t => { t with held := none }
  (s1.tileAt n).vxHeld.foldl (fun s h => s.writeVx n h h.truth) s1

/-- C2 handling windows end when the record is handled, its crumb is in the flash ring and any move under R26 is done; C3 windows never (R336). -/
def State.closeWindows (s : State) : State :=
  let q := s.crumb
  let moving := fun (u : UnitId) => s.tmap.any fun e => e.2.valid &&
    (match s.physOf e.1 with | some m => decide (uPhys m = u) && (s.ptileAt m).state == .fenced | none => false)
  let open_ := fun (w : UnitId × Nat × Nat) =>
    decide (3 ≤ w.2.1) || q.errQ.any (fun r => decide (r.unit = w.1 ∧ r.syn = w.2.2)) ||
      (q.flashQ ++ q.held).any (fun c => decide (c.unit = w.1 ∧ c.syn = w.2.2)) || moving w.1
  { s with crumb := { q with windows := q.windows.filter open_ } }

/-- The logical tile of a fenced physical tile becomes absent (R26, R42). -/
def State.loseTile (s : State) (n m : Nat) : State :=
  let s1 := (s.modTmap n fun e => { e with valid := false, migrating := false, dest := none, rotation := false }).modDie (tileDie n) fun x => { x with windowRetry := false }
  let s2 := allStreams.foldl (fun (s : State) st => s.haltStream n st (s.streamAt n st).pc 0x23 (BitVec.ofNat 64 (m % nPhys)) 0x000D) s1
  let s3 := s2.modTile n fun t =>
    { t with absent := true, frozen := false, held := none, vxHeld := [], array := [], mmaQ := [], copyQ := [], sb := [], waits := [], acqs := [], deferred := [], deliveries := [] }
  (s3.modPtile m fun p => { p with logical := 0xFF }).refreshDegraded

/-- Whether a move under R26 may begin: the MMAs of the tile settled or abandoned, its copies done (R29). -/
def State.containedAt (s : State) (n : Nat) : Bool :=
  let t := s.tileAt n
  (match t.held with | some h => h.unsettled | none => t.array.isEmpty) && t.vxHeld.all (·.unsettled) && t.copyQ.isEmpty &&
    allStreams.all fun st => (t.streamAt st).brew.phase != .poured

/-- BENCH_MOVE: the logical tile of FENCED physical tile `m` starts its move onto the bench tile of R26, or becomes absent. Open brews spill with code 4
(R29). -/
def execBenchMove (die m : Nat) (s : State) : Host.Outcome State Fault Refusal :=
  if nDies ≤ die then .fault (.noSuchUnit "die" die)
  else if nPhys ≤ m then .fault (.noSuchUnit "physical tile" m)
  else
    let g := nPhys * die + m
    match (s.tmap.find? fun e => e.2.valid && decide (s.physOf e.1 = some g)) with
    | none => .next s
    | some (n, e) =>
      if (s.ptileAt g).state ≠ .fenced ∨ e.migrating = true ∨ s.fw.handoff = true ∨ s.containedAt n = false then .next s
      else
        let s1 := allStreams.foldl (fun (s : State) st => if (s.streamAt n st).brew.phase == .open_ then s.spillBrew n st 4 0 else s) s
        match s1.oldestBench die with
        | some b => .next (s1.beginMove n b false)
        | none =>
          match (s1.physIn die .proving).filter fun b => !(s1.ptileAt b).mustProve && !s1.reserved b with
          | b :: _ => .next ((s1.abandonRun b).beginMove n b false)
          | [] => .next (((s1.loseTile n g).refreshRotation die).closeWindows)

/-- The logical tiles of a die that are present, in rotation order from NEXT on (R344). -/
def State.fromNext (s : State) (d : Nat) : List Nat :=
  ((List.range 144).map fun k => 144 * d + ((s.dieAt d).next + k) % 144).filter fun n => (s.tmapAt n).valid

/-- The logical tile (global index) rotation takes next: one whose physical tile has PENDING first, else the first present tile from NEXT on (R344). -/
def State.rotationNext (s : State) (d : Nat) : Option Nat :=
  let order := s.fromNext d
  match order.find? fun n => match s.physOf n with | some m => (s.ptileAt m).pending | none => false with
  | some n => some n
  | none => order.head?

/-- The tile whose migration is due, and the bench tile it would take (R344, R350). -/
def State.rotationDue (s : State) (d : Nat) : Option (Nat × Nat) :=
  let x := s.dieAt d
  if !x.released || !x.rotEn || decide ((s.benchTiles d).length < 2) || decide (x.provingM ≠ 0xFF) || s.fw.handoff || s.safeState ||
      (s.tmap.any fun e => e.2.migrating && decide (tileDie e.1 = d)) then none
  else match s.rotationNext d, s.oldestBench d with
    | some n, some m => if (s.physOf n).any (fun g => decide ((s.ptileAt g).state = .active)) then some (n, m) else none
    | _, _ => none

/-- ROTATION_MIGRATION: at the tile's step boundary, or at once where it runs no program, its migration begins (R29, R344). -/
def execRotationMigration (die : Nat) (s : State) : Host.Outcome State Fault Refusal :=
  if nDies ≤ die then .fault (.noSuchUnit "die" die)
  else match s.rotationDue die with
  | some (n, m) => if s.mayMigrate n then .next (s.beginMove n m true) else .next s
  | none => .next s

/-- MIGRATION_SKIP: R29's conditions did not hold within 1 ms of the boundary; NEXT stays (R29, R344). -/
def execMigrationSkip (die : Nat) (s : State) : Host.Outcome State Fault Refusal :=
  if nDies ≤ die then .fault (.noSuchUnit "die" die)
  else match s.rotationDue die with
  | some (n, _) => if s.mayMigrate n then .next s else .next ((s.countPrv die 6).modTile n fun t => { t with boundaryAt := none })
  | none => .next s

/-- NEXT after logical tile `n` has rotated: past it where it was the first present tile from NEXT on, unchanged where PENDING put it at the head; a wrap
completes a rotation (R344). -/
def State.advanceNext (s : State) (d n : Nat) : State :=
  s.modDie d fun x =>
    let k := (n % 144 + 144 - x.next) % 144
    if (List.range k).any fun i => (s.tmapAt (144 * d + (x.next + i) % 144)).valid then x
    else if 143 ≤ x.next + k then { x with next := (n % 144 + 1) % 144, rotations := satAdd 65535 x.rotations } else { x with next := n % 144 + 1 }

/-- Whether a row tally recomputed from a copied bank disagrees with the tally copied with it (R60); a bank that holds nothing agrees. -/
def Tile.copyBad (t : Tile) : Bool :=
  [0, 1].any fun b => !((t.bankAt b).a.isEmpty && (t.bankAt b).tally.isEmpty) && (t.bankAt b).tallyBad.isSome

/-- The end of a migration in progress: the state is copied and the map switches (R30), or a tally disagrees and it is abandoned (R60). -/
def State.endMove (s : State) (t : Nat) (tallyOk : Bool) : State :=
  let e := s.tmapAt t
  let d := tileDie t
  match s.physOf t, (if e.migrating then e.dest else none) with
  | some old, some new =>
    if !tallyOk || (s.tileAt t).copyBad then
      let s1 := s.modTmap t fun e => { e with migrating := false, dest := none, rotation := false }
      let s2 := s1.modPtile old fun p => { p with tallyFault := satAdd max48 p.tallyFault }
      (s2.releaseDeliveries t).errorEvent 2 0x000B (uPhys old) []
    else if e.rotation then
      let s1 := (s.switchTile t old new).advanceNext d t
      (s1.startRun old).refreshRotation d
    else (((s.switchTile t old new).reexecute t).refreshRotation d).closeWindows
  | _, _ => s

/-- Every migration in progress ends (R42). -/
def State.endMoves (s : State) : State := s.tmap.foldl (fun s e => if e.2.migrating then s.endMove e.1 true else s) s

/-- MIGRATION_COMPLETE (R30, R60); `tallyOk` is false where the copy itself has gone wrong. -/
def execMigrationComplete (t : Nat) (tallyOk : Bool) (s : State) : Host.Outcome State Fault Refusal :=
  if nTiles ≤ t then .fault (.noSuchUnit "tile" t) else .next (s.endMove t tallyOk)

/-! ## Window proving -/

/-- WINDOW_PROVE: the window schedule on logical tile NEXT of a die without rotation (R348); what the tile holds is restored. `sigs` are the signatures of
the segments that ended; `fault` is raised by the pattern of the segment after them. -/
def execWindowProve (die : Nat) (sigs : List (BitVec 64)) (fault : Option Nat) (s : State) : Host.Outcome State Fault Refusal :=
  if nDies ≤ die then .fault (.noSuchUnit "die" die)
  else
    let x := s.dieAt die
    match (if x.released && x.rotStopped && x.windowEn && !s.fw.handoff && !s.safeState then (s.fromNext die).head? else none) with
    | none => .next s
    | some n =>
      match (if s.mayMigrate n then s.physOf n else none) with
      | none => .next s
      | some g =>
        let pk := s.fw.pack
        let want := fun (w : Segment) => if pk.ver = 0 then Config.factorySig w.pattern else ((pk.sigs.find? fun e => decide (e.1 = w.pattern)).map (·.2)).getD 0
        let runs := (pk.window.zip sigs).filter fun w => !s.fw.skipPat.contains w.1.pattern
        let bad := runs.filter fun w => w.2 != want w.1
        let s0 := (s.countPrv die 7).patternTokens g
        let next := fun (s : State) => (s.modDie die fun x => { x with windowRetry := false }).advanceNext die n
        let soft := match fault with | some c => decide (1 ≤ c ∧ c ≤ 0x1F) | none => false
        if soft then
          let s1 := ((s0.countPrv die 4).modPtile g fun p => { p with lastRun := 6 }).crumbOut 0 0x0017 (uPhys g) []
          .next (next { s1 with fw := { s1.fw with skipPat := s1.fw.skipPat ++ (pk.window[sigs.length]?.toList.map (·.pattern)) } })
        else if bad.any (fun w => decide (w.1.trim = 0)) || fault.isSome then
          if x.windowRetry then
            .next (next (((s0.countPrv die 2).modPtile g fun p => { p with lastRun := 4 }).errorEvent 2 0x0014 (uPhys g) []))
          else .next (s0.modDie die fun x => { x with windowRetry := true })
        else if !bad.isEmpty then .next (next (((s0.countPrv die 1).modPtile g fun p => { p with lastRun := 2 }).crumbOut 0 0x0015 (uPhys g) []))
        else .next (next (s0.modPtile g fun p => { p with lastRun := 7 }))

/-! ## Localisation and fuses -/

/-- CHK of a field-fuse record (Table 03-11). -/
def fuseChk (w : Nat) : Nat :=
  (List.range 6).foldl (fun a k => a ^^^ bits w (4 * k + 3) (4 * k)) (bits w 30 28)

/-- A record not yet VALID (Table 03-11). -/
def fuseWord (kind line m : Nat) : BitVec 32 :=
  let w := kind * 2 ^ 28 + line * 2 ^ 16 + m / 13 * 2 ^ 8 + m % 13
  BitVec.ofNat 32 (w + fuseChk w * 2 ^ 24)

def fuseOk (w : BitVec 32) : Bool := w.getLsbD 31 && decide (bits w.toNat 27 24 = fuseChk w.toNat)

/-- The lowest record not yet programmed. -/
def Die.freeFuse (x : Die) : Option Nat := (List.range 64).find? fun i => decide (Map.get (0 : BitVec 32) x.ffuse i = 0)

/-- Two skips with one more, ascending, and their field-origin flags (Table 03-2). -/
def addSkip (a b : Byte) (fa fb : Bool) (line : Byte) : Byte × Byte × Bool × Bool :=
  if a = 0xFF then (line, 0xFF, true, false)
  else if b = 0xFF then (if line < a then (line, a, true, fa) else (a, line, fa, true))
  else (a, b, fa, fb)

/-- A field skip loaded into TILE_ARR_REPAIR. -/
def PTile.loadSkip (p : PTile) (kind : Nat) (line : Byte) : PTile :=
  let o := fun i => p.origin.getLsbD i
  let mk := fun (a b c d : Bool) => BitVec.ofNat 4 (b2n a + 2 * b2n b + 4 * b2n c + 8 * b2n d)
  if kind = 2 then
    let r := addSkip p.rowSkip0 p.rowSkip1 (o 0) (o 1) line
    { p with rowSkip0 := r.1, rowSkip1 := r.2.1, origin := mk r.2.2.1 r.2.2.2 (o 2) (o 3) }
  else
    let r := addSkip p.colSkip0 p.colSkip1 (o 2) (o 3) line
    { p with colSkip0 := r.1, colSkip1 := r.2.1, origin := mk (o 0) (o 1) r.2.2.1 r.2.2.2 }

def PTile.rowsFree (p : PTile) : Nat := b2n (p.rowSkip0 == 0xFF) + b2n (p.rowSkip1 == 0xFF)
def PTile.colsFree (p : PTile) : Nat := b2n (p.colSkip0 == 0xFF) + b2n (p.colSkip1 == 0xFF)

/-- The role of a physical line under two skips (R43): a data line 0–127, the checksum line, unused, or skipped. -/
inductive LineRole where | data (n : Nat) | checksum | unused | skipped
  deriving DecidableEq, Repr
def lineRole (skip0 skip1 : Byte) (line : Nat) : LineRole :=
  let skips := [skip0.toNat, skip1.toNat]
  if skips.contains line then .skipped
  else
    let n := ((List.range line).filter fun k => !skips.contains k).length
    if n < 128 then .data n else if n = 128 then .checksum else .unused
def PTile.rowRole (p : PTile) (r : Nat) : LineRole := lineRole p.rowSkip0 p.rowSkip1 r
def PTile.colRole (p : PTile) (c : Nat) : LineRole := lineRole p.colSkip0 p.colSkip1 c

/-- Starts programming a record, where one is free; the tile is then out of service for good where none is (R27, R66). -/
def State.programFuse (s : State) (die m kind line : Nat) : State :=
  match (s.dieAt die).freeFuse with
  | some i => s.modDie die fun x => { x with ffuse := Map.put 0 x.ffuse i (fuseWord kind line m), fusing := x.fusing ++ [i] }
  | none => s

/-- A repair is refused (R66): the tile is not returned to service and is retired under R27. It leaves PROVING with DMARGIN 0 (R63). -/
def State.refuseRepair (s : State) (die m : Nat) : State :=
  let g := nPhys * die + m
  let s1 := s.modPtile g fun p => { p with state := .fenced, run := none, dmargin := 0 }
  let s2 := s1.modDie die fun x => { x with provingM := if x.provingM = m then 0xFF else x.provingM }
  ((s2.programFuse die m 1 0xFF).crumbOut 0 0x0011 (uPhys g) []).refreshRotation die

/-- The line to skip once a run has named a row, a column or a cell (R65): the line that reached three localisations; where both lines of a cell did, the
row or the column, whichever dimension has more unused skips, the row on a tie. -/
def PTile.skipPick (p : PTile) (row col : Option Nat) (hitR hitC : Bool) : Option (Nat × Nat) :=
  match (if hitR then row else none), (if hitC then col else none) with
  | some r, some c => if p.colsFree ≤ p.rowsFree then some (2, r) else some (3, c)
  | some r, none => some (2, r)
  | none, some c => some (3, c)
  | none, none => none

/-- LOCALISATION_RUN: the run names a physical line 0 to 130, or a cell by its row and column (R65); a line's third localisation starts the programming
of a skip, or is refused. A run that follows a referee event counts and clears PENDING; one after a rated failure (R346) follows none, so it adds to no
line's count (log 79). The tile is to be proved with its new geometry before it is ACTIVE
again. DESIGN CHOICE (log 79): a named line whose own dimension has no unused skip is refused though the other dimension has one: R66 says "no skip
remains in either dimension", and no skip of the other dimension removes a line. -/
def execLocalisationRun (die m : Nat) (row col : Option Nat) (s : State) : Host.Outcome State Fault Refusal :=
  if nDies ≤ die then .fault (.noSuchUnit "die" die)
  else if nPhys ≤ m then .fault (.noSuchUnit "physical tile" m)
  else
    let g := nPhys * die + m
    let p := s.ptileAt g
    if p.state ≠ .bench ∧ p.state ≠ .proving ∧ p.state ≠ .fenced then .next s
    else if !p.pending then .next (if p.state = .fenced ∧ p.lastRun = 4 then s.patternTokens g else s)
    else if (row.toList ++ col.toList).any (fun l => decide (130 < l)) then .next s
    else
      let s := s.patternTokens g
      let up := fun (c : Map Nat) (k : Option Nat) => match k with | some l => Map.upd 0 c l (· + 1) | none => c
      let cnt := up (up p.lineCount row) (col.map (131 + ·))
      let s1 := s.modPtile g fun p => { p with pending := false, lineCount := cnt }
      let hit := fun (k : Option Nat) => match k with | some l => decide (3 ≤ Map.get 0 cnt l) | none => false
      match p.skipPick row col (hit row) (hit (col.map (131 + ·))) with
      | none => .next s1
      | some (kind, line) =>
        if (if kind = 2 then p.rowsFree else p.colsFree) = 0 ∨ (s.dieAt die).freeFuse = none then .next (s1.refuseRepair die m)
        else .next ((s1.programFuse die m kind line).modPtile g fun p => { p with mustProve := true })

/-- FUSE_WRITTEN: the programming of a record ends, VALID being written last (R67). A retirement makes the tile RETIRED_FIELD; a skip is loaded while the
tile is BENCH, PROVING or FENCED and the tile is proved with its new geometry (R65), a BENCH tile once no other tile of the die proves (R344). -/
def execFuseWritten (die i : Nat) (s : State) : Host.Outcome State Fault Refusal :=
  if nDies ≤ die then .fault (.noSuchUnit "die" die)
  else if 64 ≤ i then .fault (.noSuchUnit "fuse record" i)
  else
    let w := Map.get (0 : BitVec 32) (s.dieAt die).ffuse i
    if (s.dieAt die).fusing.contains i = false then .next s
    else
      let m := bits w.toNat 15 8 * 13 + bits w.toNat 7 0
      let g := nPhys * die + m
      let s1 := (s.modDie die fun x => { x with ffuse := Map.put 0 x.ffuse i (w ||| 0x80000000#32), fusing := x.fusing.filter fun k => k != i }).crumbOut 0 0x0010 (uPhys g) [(10, .u (bits w.toNat 23 16))]
      let p := s1.ptileAt g
      if bits w.toNat 30 28 = 1 then .next (s1.modPtile g fun p => { p with state := if p.state = .fenced then .retiredField else p.state })
      else if p.state = .bench ∨ p.state = .proving ∨ p.state = .fenced then
        let s2 := s1.modPtile g fun p => p.loadSkip (bits w.toNat 30 28) (BitVec.ofNat 8 (bits w.toNat 23 16))
        .next ((if p.state = .bench then s2 else s2.startRun g).refreshRotation die)
      else .next s1

/-- LINK_MARGIN_CHECK: an eye below 60 % of its value at the last full training (R349). -/
def execLinkMarginCheck (u : UnitId) (eye trainEye : Nat) (s : State) : Host.Outcome State Fault Refusal :=
  if eye * 100 < trainEye * 60 then .next (s.crumbOut 0 0x0018 u [(10, .u eye)]) else .next s

/-! ## Start-up -/

/-- A physical tile with its factory and field skips loaded (R68). -/
def State.loadRepair (s : State) (die m : Nat) : PTile :=
  let f := Config.factorySkips die m
  let p : PTile := { s.ptileAt (nPhys * die + m) with rowSkip0 := f.1, rowSkip1 := f.2.1, colSkip0 := f.2.2.1, colSkip1 := f.2.2.2, origin := 0 }
  (s.dieAt die).ffuse.foldl (fun (p : PTile) e =>
    let w := e.2.toNat
    if fuseOk e.2 && decide (bits w 15 8 * 13 + bits w 7 0 = m) && decide (bits w 30 28 = 2 ∨ bits w 30 28 = 3)
    then p.loadSkip (bits w 30 28) (BitVec.ofNat 8 (bits w 23 16)) else p) p

/-- Whether a valid record retires tile `m` (R27). -/
def Die.retires (x : Die) (m : Nat) : Bool :=
  x.ffuse.any fun e => fuseOk e.2 && decide (bits e.2.toNat 30 28 = 1 ∧ bits e.2.toNat 15 8 * 13 + bits e.2.toNat 7 0 = m)

/-- Whether the crumb ring keeps a tile out of service (R27, R66): a C2 record of it or a refused repair, with no fuse record free to retire it. -/
def State.ringFences (s : State) (die m : Nat) : Bool :=
  (s.dieAt die).freeFuse.isNone && s.crumb.ring.any fun c => decide ((c.cls = 2 ∨ c.syn = 0x0011) ∧ c.unit = uPhys (nPhys * die + m))

/-- A die's tiles after the self-test (R41, R68): records loaded, retired and failing tiles marked. -/
def State.testTile (s : State) (die : Nat) (failing : List Nat) (m : Nat) : State :=
  let g := nPhys * die + m
  let p := s.loadRepair die m
  if Config.factoryRetired die m then s.setPtile g { p with state := .retiredFactory }
  else if (s.dieAt die).retires m then s.setPtile g { p with state := .retiredField }
  else if failing.contains m then (s.setPtile g { p with state := .fenced }).errorEvent 2 0x000C (uPhys g) []
  else if s.ringFences die m then s.setPtile g { p with state := .fenced }
  else s.setPtile g p

/-- TILE_SELF_TEST: before a die's tiles are released, firmware loads its repair records and runs the array self-test (R41, R68). -/
def execTileSelfTest (die : Nat) (failing : List Nat) (s : State) : Host.Outcome State Fault Refusal :=
  if nDies ≤ die then .fault (.noSuchUnit "die" die)
  else if (s.dieAt die).released || (s.dieAt die).tested || (s.dieAt die).heldReset || !(s.dieAt die).pllLock || s.fw.rcOnly || decide (s.fw.stage ≠ 2) then .next s
  else .next (((List.range nPhys).foldl (fun s m => (s.testTile die failing m).patternTokens (nPhys * die + m)) s).modDie die fun x => { x with tested := true })

/-- TILE_RELEASE: logical tile n is served by the n-th healthy physical tile; the other healthy tiles are BENCH; the bench loaf is created and rotation
may begin with NEXT 0 (R41, R350). A tile whose new skip no run has passed with is BENCH and not ACTIVE (R65). -/
def execTileRelease (die : Nat) (s : State) : Host.Outcome State Fault Refusal :=
  if nDies ≤ die then .fault (.noSuchUnit "die" die)
  else if !(s.dieAt die).tested || (s.dieAt die).released then .next s
  else
    let healthy := s.physIn die .untested
    let named := (List.range 144).zip (healthy.filter fun m => !(s.ptileAt m).mustProve)
    let s1 := named.foldl (fun (s : State) x =>
      (s.setTmap (144 * die + x.1) { valid := true, row := x.2 % nPhys / 13, col := x.2 % 13 }).modPtile x.2 fun p => { p with state := .active, logical := x.1 }) s
    let s2 := (healthy.filter fun m => !named.any fun x => x.2 == m).foldl (fun (s : State) m => s.modPtile m fun p => { p with state := .bench, benchSeq := (s.dieAt die).benchSeq }) s1
    let s3 := (List.range 144).foldl (fun (s : State) n => if named.length ≤ n then s.modTile (144 * die + n) fun t => { t with absent := true } else s) s2
    let s4 := s3.setLoaf (1020 + die) { valid := true, kind := 2, die := die, size := healthy.length - named.length }
    let s5 := s4.modDie die fun x => { x with released := true, next := 0, benchSeq := x.benchSeq + 1 }
    .next (s5.refreshRotation die)

end Sys2Proof.Machine
end

