-- ==== Sys2Proof/Machine/Cp.lean ====
section
/-! DEFINITION. CP: the copies (Tables 07-18, 07-19, 08-5): checks at issue, the queue of 16, the data each moves when it completes, and the faults
found after issue. -/

namespace Sys2Proof.Machine

/-- The external frame of a format (Table 08-1). -/
def frameBytes (f : Nat) : Nat := if f = 12 then 33280 else sliceBytes f + planeBytes f
/-- Its slot in 16 KiB units. -/
def frameSlot (f : Nat) : Nat := (frameBytes f + 16383) / 16384
/-- Where a frame's scale plane begins (R182). -/
def framePlane (f : Nat) : Nat := if f = 12 then 32768 else sliceBytes f

/-- The fields of a copy's word (Table 07-18). -/
def cpTensor (w : IWord) : Nat := extF w 119 100
def cpBlk (w : IWord) : Bool := decide (extF w 99 99 = 1)
def cpTrans (w : IWord) : Bool := decide (extF w 98 98 = 1)
def cpLfmt (w : IWord) : Nat := extF w 94 91
def cpMfmt (w : IWord) : Nat := extF w 90 87
def cpCount (w : IWord) : Nat := extF w 86 77
def cpLoff (w : IWord) : Nat := extF w 76 64
def cpLsoff (w : IWord) : Nat := immF w 18 6

/-- The frames of a run: address and length of each (R184). -/
def runFrames (addr stride count f : Nat) : List (Nat × Nat) :=
  (List.range count).map fun n => (addr + (if stride = 0 then n * frameBytes f else n * stride * 16384), frameBytes f)

/-- The slice index of slice n of a run (R184). -/
def runIndex (slice0 stride f n : Nat) : Nat := slice0 + (if stride = 0 then n else n * max 1 (stride / frameSlot f))

/-- Where slice n of a run stands on a loaf: the member's rank and its slice there (R39). -/
def seatOf (count size n : Nat) : Nat × Nat :=
  let q := count / size
  let m := count % size
  if n < m * (q + 1) then (n / (q + 1), n % (q + 1)) else (m + (n - m * (q + 1)) / q, (n - m * (q + 1)) % q)

/-- The reference sB names; this tile where SRCB is none. -/
def cpRef (i : Issue) (s : State) : BitVec 16 :=
  if isNone i.word.srcb then tileRef i.tile else (s.getS i (rn i.word.srcb)).extractLsb' 0 16

/-- The copy an instruction asks for (R184, R196, R199). -/
def cpOf (dir : CopyDir) (i : Issue) (pc : BitVec 48) (s : State) : Copy :=
  let w := i.word
  let x := s.streamAt i.tile i.stream
  let a := (s.getS i (rn w.srca)).toNat
  let b := if isNone w.srcb then 0 else (s.getS i (rn w.srcb)).toNat
  { id := s.nextId, stream := i.stream, pc := pc, dir := dir, lfmt := cpLfmt w, mfmt := cpMfmt w
    blend := decide (cpLfmt w = 12 ∨ cpMfmt w = 12), loff := cpLoff w, lsoff := cpLsoff w, count := cpCount w, rnd := extF w 96 95
    sat := decide (extF w 97 97 = 1), trans := cpTrans w, blk := cpBlk w, tensor := cpTensor w, step := x.step
    lane := bits b 29 16, addr := bits a 47 0, stride := bits a 63 48, slice0 := bits b 63 32
    dst := bits a 12 0, dstS := bits a 28 16, members := s.loafTiles (cpRef i s)
    sigen := decide (immF w 5 5 = 1), k := immF w 4 0, part := x.part, inBrew := x.brew.phase == .open_ }

/-- The format in force for a field's code at the copy's step (R196). -/
def Copy.real (s : State) (c : Copy) (f : Nat) : Nat := (s.resolveFmt c.part c.tensor c.step f).1

/-- Source and destination codes as the fields give them. -/
def Copy.srcF (c : Copy) : Nat := match c.dir with | .in_ => c.mfmt | _ => c.lfmt
def Copy.dstF (c : Copy) : Nat := match c.dir with | .out => c.mfmt | .in_ => c.lfmt | .tt => c.mfmt

/-- Whether Table 08-5 accepts the pair. -/
def Copy.pairOk (s : State) (c : Copy) : Bool :=
  let a := c.real s c.srcF
  let b := c.real s c.dstF
  if a = 11 ∨ b = 11 then decide (a = b)
  else if a = b ∧ isMx a then (if c.dir = .tt then !c.trans else c.blk == c.trans)
  else true



/-- Whether an address lies in a board or host window of Table 08-2 (R210). -/
def inWindow (a : Nat) : Bool :=
  decide (0x100000000000 ≤ a ∧ a < 0x180000000000 ∧ a % 0x10000000000 < 0xF000000000) || decide (0x200000000000 ≤ a ∧ a < 0x210000000000)

/-- Whether new copies and operations are held back on the way to sleep (R433, R434). -/
def State.sleepy (s : State) : Bool := decide (s.pwr.state = .sleepEntry ∨ s.pwr.state = .deepEntry)

def needsCopy (dir : CopyDir) (i : Issue) (s : State) : Needs :=
  let w := i.word
  let c := cpOf dir i 0 s
  let p := c.part
  let size := max 1 c.members.length
  let big := maxShare c.count size
  let ref := cpRef i s
  let ext := dir != .tt
  let frames := if ext then runFrames c.addr c.stride c.count c.mfmt else []
  let src := if dir = .in_ then [] else lsRun c.loff c.lsoff (if dir = .tt then c.count else big) c.lfmt
  let dst := match dir with | .in_ => lsRun c.loff c.lsoff big c.lfmt | .tt => lsRun c.dst c.dstS big c.mfmt | .out => []
  let own := c.shareOf i.tile
  let faults := fmtFault (c.pairOk s) c.mfmt ++ (if ext ∧ c.addr % 256 ≠ 0 then [(0x03, BitVec.ofNat 64 c.addr)] else []) ++
      rangeFaults (src ++ dst) ++ memFaults s p frames (dir = .out) ++
      if s.foreign p ref then [(0x08, BitVec.ofNat 64 ref.toNat)] else []
  { ill := funcIll w zero ++ opsIll w .none .s .sOrNone ++ immIll w 23 19 zero ++ extIll w 127 120 zero ++ extIll w 96 95 rndOk ++
      extIll w 94 91 fmtOk ++ extIll w 90 87 fmtOk ++ extIll w 86 77 (fun n => decide (1 ≤ n)) ++
      (if scaled c.lfmt then [] else immIll w 18 6 zero) ++
      (if scaled c.lfmt || (dir = .tt && scaled c.mfmt) then [] else extIll w 99 99 zero)
    fence := dir = .tt
    spill :=
      if (s.streamAt i.tile i.stream).brew.phase == .open_ && (ref != tileRef i.tile || frames.any fun f => inWindow f.1 || inWindow (f.1 + f.2 - 1)) then some 4
      else none
    late := true
    reads := resS w.srca ++ resS w.srcb
    lsR := if faults.isEmpty then (match dir with | .in_ => [] | .out => lsRun c.loff c.lsoff own c.lfmt | .tt => lsRun c.loff c.lsoff c.count c.lfmt) else []
    lsW := if faults.isEmpty then (match dir with | .in_ => lsRun c.loff c.lsoff own c.lfmt | .out => [] | .tt => lsRun c.dst c.dstS own c.mfmt) else []
    exR := if faults.isEmpty ∧ dir = .in_ then frames else []
    exW := if faults.isEmpty ∧ dir = .out then frames else []
    stall :=
      if s.sleepy then some .copy
      else if c.blend && (s.partAt p).blendWaits c.tensor c.step.toNat then some .peer
      else if c.real s c.srcF ≠ c.real s c.dstF ∧ (s.healthStall i.tile p c.tensor c.step).isSome then s.healthStall i.tile p c.tensor c.step
      else if 16 ≤ (s.tileAt i.tile).copyQ.length then some .copy
      else none
    faults := faults }

/-! ## Remote lines and host reads -/

/-- The lines of a copy's run, in package addresses. -/
def Copy.lines (c : Copy) : List Nat :=
  if c.dir = .tt then [] else (runFrames c.addr c.stride c.count c.mfmt).flatMap fun f => lineAddrs f.1 f.2

/-- The flits of a message. -/
def flitCount (bs : List Byte) : Nat := (max 1 bs.length + 239) / 240

/-- The flits of a message: 240 payload bytes each (R264, R266). -/
def flitsOf (vc : Nat) (what : Carried) (bs : List Byte) : List TxFlit :=
  let n := flitCount bs
  (List.range n).map fun k =>
    let d := slice bs (240 * k) (min 240 (bs.length - 240 * k))
    { vc := vc, som := decide (k = 0), eom := decide (k + 1 = n), len := max 1 d.length, data := d, what := what }

/-- The first whole message that waits on a VC for its engine (R266). -/
def Port.front (q : Port) (v : Nat) : Option (List Byte) := (q.inbox.find? fun x => decide (x.1 = v)).map (·.2)

/-- The flits of a message leave the receive buffer for their engine, and their credits fall due (R268). -/
def Port.leave (q : Port) (v : Nat) (bs : List Byte) : Port :=
  { q with inbox := q.inbox.erase (v, bs), rxBuf := Map.upd 0 q.rxBuf v (· - flitCount bs), creditDue := Map.upd 0 q.creditDue v (· + flitCount bs) }

/-- An engine takes a message from a port. -/
def State.takeMessage (s : State) (n v : Nat) (bs : List Byte) : State := s.modPort n fun q => q.leave v bs

/-- A port takes a message into its queue, unless it is going dark (R288). -/
def Port.takes (q : Port) : Bool := q.state == .active && !q.darkReq

def State.queueMessage (s : State) (n vc : Nat) (what : Carried) (bs : List Byte) : State :=
  s.modPort n fun q => { q with queue := q.queue ++ flitsOf vc what bs }

/-- CLX_CNT[p][c] gains k (Table 12-15). -/
def State.countClx (s : State) (p c : Nat) (k : Nat := 1) : State :=
  s.modPart p fun q => { q with clxCnt := Map.upd 0 q.clxCnt c fun n => satAdd max48 n k }

/-- Whether a physical port serves a logical port fenced for a partition (R306). -/
def State.fencedAt (s : State) (p port : Nat) : Bool := (s.partAt p).fence.getLsbD (s.portAt port).lport

/-- The port a board request to package `i` leaves on, by the route mask (R290); a port fenced for the partition carries none (R306, DEDUCED, log 99). -/
def State.boardPort (s : State) (p i addr : Nat) : Option Nat :=
  let mask := Map.get (0 : Word) (s.partAt p).broute i
  let logical := (List.range 64).filter fun m => mask.getLsbD m
  let ports := logical.filterMap fun m => (List.range nPorts).find? fun n => decide ((s.portAt n).lport = m) && (s.portAt n).takes &&
    (s.partAt p).pairs.getLsbD (n / 2) && !(s.partAt p).pairPend.getLsbD (n / 2) && !(s.partAt p).fence.getLsbD m
  match ports with
  | [] => none
  | _ => ports[addr / 64 % ports.length]?

/-- Sends a board operation on its port, or leaves it waiting for one (R290). Each request carries the partition's job tag (R193). -/
def State.boardSend (s : State) (p : Nat) (o : BoardOp) : State :=
  match place s.pkg o.addr with
  | .board i off =>
    match s.boardPort p i o.addr with
    | some n =>
      let r : BoardReq := { tag := (s.partAt p).tag, addr := BitVec.ofNat 48 off, write := o.write }
      let s1 := (s.queueMessage n 3 (.board o.tag) (Config.boardPayload r.tag r.addr r.write)).emit (.boardReq n o.tag r)
      { s1 with board := s1.board ++ [{ o with waiting := false, index := n }] }
    | none => { s with board := s.board ++ [{ o with waiting := true }] }
  | _ => s

/-- Adds an outstanding tag to a copy. -/
def State.awaitTag (s : State) (n id tag : Nat) : State :=
  s.modTile n fun t => { t with copyQ := t.copyQ.map fun c => if c.id = id then { c with await := c.await ++ [tag] } else c }

/-- Sends one waiting host read of the port's partitions, at most 512 being outstanding (R195). -/
def State.pumpOne (s : State) (p : HostPort) : State :=
  if 512 ≤ (s.hostAt p.idx).reads.length then s
  else match s.tile.findSome? fun e => (e.2.copyQ.find? fun c => !c.todo.isEmpty && decide ((s.partAt c.part).owner = p)).map fun c => (e.1, c) with
    | none => s
    | some (n, c) =>
      match c.todo with
      | [] => s
      | r :: rest =>
        let s1 := s.modTile n fun t => { t with copyQ := t.copyQ.map fun d => if d.id = c.id then { d with todo := rest } else d }
        let s2 := s1.awaitTag n c.id s.nextId
        let s3 := s2.modHost p.idx fun h => { h with reads := h.reads ++ [(s.nextId, n, c.id, r.addr, r.len)] }
        (s3.emit (.dmaRead p s.nextId r.bus r.len r.attr)).bumpId

/-- Sends host reads while the port has room. -/
def State.pump (s : State) (p : HostPort) : State := (List.range 512).foldl (fun s _ => s.pumpOne p) s

/-- A copy ends by a fault found after its issue: its entry frees, nothing it has not moved is moved, and the fault waits to be recorded (R157). -/
def State.failCopy (s : State) (n id code : Nat) (detail : Word) (syn : Nat) : State :=
  match (s.tileAt n).copyQ.find? fun c => decide (c.id = id) with
  | none => s
  | some c =>
    let d : Deferred := { stream := c.stream, pc := c.pc, code := BitVec.ofNat 8 code, detail := detail, syn := syn }
    let s1 := s.modTile n fun t =>
      { t with
        copyQ := t.copyQ.filter fun x => decide (x.id ≠ id)
        sb := t.sb.filter fun e => decide (e.op ≠ id)
        deferred := t.deferred ++ [d] }
    { (s1.modHost 0 fun h => { h with reads := h.reads.filter fun r => decide (r.2.2.1 ≠ id) }).modHost 1
        fun h => { h with reads := h.reads.filter fun r => decide (r.2.2.1 ≠ id) } with
      board := s.board.filter fun o => decide (o.copy ≠ id) }

/-! ## The data of a copy -/

/-- What a copy moves for one slice: elements, plane, health events. -/
structure Moved where
  elems  : List Byte
  plane  : List Byte
  events : List (List Nat)

/-- The transposition of a slice's codes. -/
def transCodes (w : Nat) (code : Nat → Nat) : List Byte :=
  packCodes w ((List.range 128).flatMap fun r => (List.range 128).map fun c => code (128 * c + r))

/-- One slice from its bytes: moved unchanged between equal formats, otherwise converted (R171, R196–R198). `sf`, `df` are the codes in force; `blend`
says that the destination field is BLEND; `idx` is the slice's index. -/
def State.moveSlice (s : State) (c : Copy) (sf df : Nat) (blend : Bool) (idx : Nat) (e pl : List Byte) : Moved :=
  let rd := rdOf e.toArray
  if sf = df then
    if c.trans then
      let w := if sf = 11 then 128 else fmtWidth sf
      let code := fun n => if sf = 11 then leNat ((List.range 16).map fun k => rd (16 * n + k)) else elemAt rd sf n
      { elems := transCodes w code, plane := pl, events := [] }
    else { elems := e, plane := pl, events := [] }
  else
    let sc := rdOf pl.toArray
    let sblk := if c.dir = .in_ then false else c.blk
    let dblk := if c.dir = .out then false else c.blk
    let src := fun (r k : Nat) => if c.trans then valAt rd sc sf sblk k r else valAt rd sc sf sblk r k
    -- position in the external slice (in the source slice for COPY.TT) of the element written at (r, k)
    let pos := fun (r k : Nat) => if c.trans && c.dir != .out then 128 * k + r else 128 * r + k
    let md := if blend then Rnd.sr else Rnd.ofCode c.rnd
    let cv := convSlice df md c.sat dblk (fun r k => s.srAt c.part c.tensor c.step 0 c.lane (idx * 16384 + pos r k)) src
    let evs := ((List.range 16384).zip cv.events).map fun x => 0 :: histIdx (s.partAt c.part).histBase (src (x.1 / 128) (x.1 % 128)) ++ x.2
    { elems := cv.elems, plane := cv.plane, events := evs ++ if blend then shadowSlice dblk src else [] }

/-- A byte of package memory as the copy's stream reads it: staged bytes where the copy belongs to its open brew, a write-back in progress, memory, or
what came from a window. -/
def State.copyByte (s : State) (n : Nat) (c : Copy) (a : Nat) : Byte :=
  match place s.pkg a with
  | .mem b =>
    let x := s.streamAt n c.stream
    match if c.inBrew then Map.get none x.brew.extBytes b else none with
    | some v => v
    | none =>
      match x.wb with
      | some w =>
        match w.lines.findIdx? (fun l => decide (l = b / 64 * 64)) with
        | some j => w.bytes.getD (64 * j + b % 64) 0
        | none => Map.get 0 s.mem b
      | none => Map.get 0 s.mem b
  | .nowhere => 0
  | _ => (Map.get none c.arrived a).getD 0

def State.copyBytes (s : State) (n : Nat) (c : Copy) (a len : Nat) : List Byte := (List.range len).map fun k => s.copyByte n c (a + k)

/-- Local-store bytes a copy reads: the issuing tile's own staged view inside its brew, otherwise the bytes outside every brew (R212). -/
def State.copyLs (s : State) (n : Nat) (c : Copy) (m off len : Nat) : List Byte :=
  if c.inBrew && decide (m = n) then (s.tileAt m).lsRead c.stream off len else (s.tileAt m).lsRaw off len

/-- Local-store bytes a copy writes. -/
def State.copyPut (s : State) (n : Nat) (c : Copy) (m off : Nat) (bs : List Byte) : State :=
  s.modTile m fun t =>
    if c.inBrew && decide (m = n) then t.lsWrite c.stream off bs
    else (t.lsPut off bs).conflictLs (if m = n then some c.stream else none) off bs.length

/-- Whole lines a copy writes to this package's memory; lines of windows are not written here. -/
def State.copyOut (s : State) (n : Nat) (c : Copy) (a : Nat) (bs : List Byte) : State :=
  (List.range (bs.length / 64)).foldl (fun s k =>
    match s.lineOf (a + 64 * k) with
    | some l =>
      if c.inBrew then s.extWrite n c.stream l (slice bs (64 * k) 64) else s.writeLine (some (n, c.stream)) l (slice bs (64 * k) 64)
    | none => s) s

/-- The frame of slice k. -/
def Copy.frame (c : Copy) (k : Nat) : Nat := c.addr + if c.stride = 0 then k * frameBytes c.mfmt else k * c.stride * 16384

/-- Elements and plane of a local-store slice at a place of a run. -/
def State.lsSlice (s : State) (n : Nat) (c : Copy) (m off soff seat f real : Nat) : List Byte × List Byte :=
  (s.copyLs n c m (256 * off + seat * sliceBytes f) (sliceBytes real), s.copyLs n c m (256 * soff + seat * 512) (planeBytes real))

/-- What slice k of a copy moves. -/
def State.copySlice (s : State) (n : Nat) (c : Copy) (k : Nat) : Moved :=
  let sf := c.real s c.srcF
  let df := c.real s c.dstF
  let seat := seatOf c.count c.members.length k
  let src := match c.dir with
    | .in_ => (s.copyBytes n c (c.frame k) (sliceBytes sf), s.copyBytes n c (c.frame k + framePlane c.mfmt) (planeBytes sf))
    | .out => s.lsSlice n c (c.members.getD seat.1 n) c.loff c.lsoff seat.2 c.lfmt sf
    | .tt => s.lsSlice n c n c.loff c.lsoff k c.lfmt sf
  let idx := if c.dir = .tt then c.slice0 + k else runIndex c.slice0 c.stride c.mfmt k
  s.moveSlice c sf df (decide (c.dstF = 12)) idx src.1 src.2

/-- Slice k lands. -/
def State.landSlice (s : State) (n : Nat) (c : Copy) (k : Nat) : State :=
  let m := s.copySlice n c k
  let seat := seatOf c.count c.members.length k
  let dest := c.members.getD seat.1 n
  let s1 := match c.dir with
    | .in_ => (s.copyPut n c dest (256 * c.loff + seat.2 * sliceBytes c.lfmt) m.elems).copyPut n c dest (256 * c.lsoff + seat.2 * 512) m.plane
    | .tt => (s.copyPut n c dest (256 * c.dst + seat.2 * sliceBytes c.mfmt) m.elems).copyPut n c dest (256 * c.dstS + seat.2 * 512) m.plane
    | .out => (s.copyOut n c (c.frame k) m.elems).copyOut n c (c.frame k + framePlane c.mfmt) m.plane
  s1.countHealth n c.part c.tensor c.step m.events

/-- Whether a run's frames overlap: then which frame's content an overlapping byte keeps is not specified (R184). -/
def Copy.overlaps (c : Copy) : Bool := c.dir == .out && c.stride != 0 && decide (1 < c.count) && decide (c.stride * 16384 < frameBytes c.mfmt)

/-- The order in which the slices of a run land: a free one where frames overlap. -/
def State.landOrder (s : State) (c : Copy) : List Nat :=
  if c.overlaps then
    let r := (Config.freeByte s.freeCtr).toNat % c.count
    (List.range c.count).drop r ++ (List.range c.count).take r
  else List.range c.count

/-- The words a copy reads in local store: tile and byte range. -/
def Copy.lsReads (c : Copy) (n : Nat) : List (Nat × Nat × Nat) :=
  match c.dir with
  | .in_ => []
  | .tt => (lsRun c.loff c.lsoff c.count c.lfmt).map fun r => (n, r.1, r.2)
  | .out => c.members.flatMap fun m => (lsRun c.loff c.lsoff (c.shareOf m) c.lfmt).map fun r => (m, r.1, r.2)

/-- The lines a copy reads in this package's memory, outside its own staging. -/
def State.copyReads (s : State) (n : Nat) (c : Copy) : List Nat :=
  if c.dir = .in_ then
    (c.lines.filterMap s.lineOf).filter fun l => !(c.inBrew && (s.streamAt n c.stream).brew.extLines.contains l)
  else []



/-! ## Issue -/

/-- Lines a copy to windows sends at once: board writes by line, host writes as posted writes of one line each (R193, R195). -/
def State.sendOut (s : State) (n : Nat) (c : Copy) (a : Nat) (bs : List Byte) : State :=
  (List.range (bs.length / 64)).foldl (fun s k =>
    let b := slice bs (64 * k) 64
    match place s.pkg (a + 64 * k) with
    | .board _ _ =>
      ((s.awaitTag n c.id s.nextId).boardSend c.part { tag := s.nextId, tile := n, copy := c.id, addr := a + 64 * k, index := 0, write := some b }).bumpId
    | .host w o => s.emit (.dmaWrite (s.partAt c.part).owner (hwinBase (s.hwinAt c.part w) + o) b (hwinAttr (s.hwinAt c.part w)))
    | _ => s) s

/-- A range in its parts of the 64 GiB host windows it meets, two at most. -/
def windowParts (a len : Nat) : List (Nat × Nat) :=
  let b := (a / 2 ^ 36 + 1) * 2 ^ 36
  if a + len ≤ b then [(a, len)] else [(a, b - a), (b, a + len - b)]

/-- The host reads of a range: at most 512 bytes each, none across a 4 KiB boundary (R195). -/
def State.hostReqs (s : State) (p a len : Nat) : List HostReq :=
  (windowParts a len).flatMap fun f =>
    match place s.pkg f.1 with
    | .host w o =>
      let d := s.hwinAt p w
      let bus := hwinBase d + o
      (List.range ((bus + f.2 - 1) / 512 - bus / 512 + 1)).map fun k =>
        let lo := max bus ((bus / 512 + k) * 512)
        let hi := min (bus + f.2) ((bus / 512 + k + 1) * 512)
        { addr := f.1 + (lo - bus), bus := lo, len := hi - lo, attr := hwinAttr d }
    | _ => []

/-- The lines a copy to external memory writes: each frame's elements, and its plane where the format in force has one. -/
def State.writtenLines (s : State) (c : Copy) : List Nat :=
  let f := c.real s c.dstF
  (runFrames c.addr c.stride c.count c.mfmt).flatMap fun x => lineAddrs x.1 (sliceBytes f) ++ lineAddrs (x.1 + framePlane c.mfmt) (planeBytes f)

/-- The zero-length read behind a copy to a host window: it goes to the last address written there (R195). -/
def State.flushReq (s : State) (c : Copy) : Option HostReq :=
  ((s.writtenLines c).filterMap fun a =>
    match place s.pkg a with
    | .host w o => some ({ addr := a, bus := hwinBase (s.hwinAt c.part w) + o, len := 0, attr := hwinAttr (s.hwinAt c.part w) } : HostReq)
    | _ => none).getLast?

/-- Requests of the lines of a copy that lie in windows: board reads, and host reads (R193, R195). -/
def State.sendIn (s : State) (n : Nat) (c : Copy) : State :=
  let s1 := c.lines.foldl (fun s a =>
    match place s.pkg a with
    | .board _ _ => ((s.awaitTag n c.id s.nextId).boardSend c.part { tag := s.nextId, tile := n, copy := c.id, addr := a, index := 0, write := none }).bumpId
    | _ => s) s
  let todo := (runFrames c.addr c.stride c.count c.mfmt).flatMap fun f => s.hostReqs c.part f.1 f.2
  if todo.isEmpty then s1
  else (s1.modTile n fun t => { t with copyQ := t.copyQ.map fun d => if d.id = c.id then { d with todo := todo } else d }).pump (s.partAt c.part).owner

/-- A signal of a copy's completion. -/
def Copy.sig (c : Copy) (n : Nat) (tiles : List Nat) : Sig :=
  { src := n, stream := c.stream, tiles := tiles, k := c.k, amount := 1, part := c.part, after := c.after }

/-- A copy enters the queue with its scoreboard entry; a zero-length read follows the writes of a copy to a host window; destination members with
nothing to receive are signalled (R172); inside a brew its completion signal takes its place among the held signals (R176). -/
def effCopy (dir : CopyDir) (i : Issue) (pc : BitVec 48) (s : State) : State :=
  let g := needsCopy dir i s
  let n := i.tile
  let t := s.tileAt n
  let c : Copy := { cpOf dir i pc s with after := (t.pendingWrites i.stream).map (·.op) }
  let e : SbEntry := { stream := i.stream, reads := (g.lsR.flatMap lsRes) ++ g.exR.flatMap s.extRes,
                       writes := (g.lsW.flatMap lsRes) ++ g.exW.flatMap s.extRes, op := c.id, cause := .copy
                       remote := dir != .out && c.members.any fun m => decide (m ≠ n ∧ c.shareOf m ≠ 0) }
  let empty := if dir = .out then [] else c.members.filter fun m => decide (c.shareOf m = 0)
  let s1 := ((s.modTile n fun t => { t with copyQ := t.copyQ ++ [c], sb := t.sb ++ [e] }).noteDelivery n c).bumpId
  let s2 := if c.sigen && !empty.isEmpty then { s1 with sigs := s1.sigs ++ [c.sig n empty] } else s1
  let s3 := if c.sigen && c.inBrew then
      s2.modStream n i.stream fun x => { x with brew := { x.brew with held := x.brew.held ++ [{ c.sig n [n] with id := c.id, after := [] }] } }
    else s2
  match dir with
  | .tt => s3
  | .in_ => if c.lines.any inWindow then s3.sendIn n c else s3
  | .out =>
    if c.lines.any inWindow then
      let s4 := (List.range c.count).foldl (fun s k =>
        let m := s.copySlice n c k
        (s.sendOut n c (c.frame k) m.elems).sendOut n c (c.frame k + framePlane c.mfmt) m.plane) s3
      match s.flushReq c with
      | some r =>
        (s4.modTile n fun t => { t with copyQ := t.copyQ.map fun d => if d.id = c.id then { d with todo := [r] } else d }).pump (s.partAt c.part).owner
      | none => s4
    else s3

def execCopyIn (i : Issue) (s : State) : Host.Outcome State Fault Refusal := issue i (needsCopy .in_ i s) (effCopy .in_ i) s
def execCopyOut (i : Issue) (s : State) : Host.Outcome State Fault Refusal := issue i (needsCopy .out i s) (effCopy .out i) s
def execCopyTt (i : Issue) (s : State) : Host.Outcome State Fault Refusal := issue i (needsCopy .tt i s) (effCopy .tt i) s

/-! ## Completion -/

/-- Whether a delivery into these ranges of a tile is held there: by a pour past its lock phase (R215) or by a check failure's reservation (R58).
`by_` is the stream the delivery belongs to, none where it is another tile's or an engine's. -/
def Tile.holdsDelivery (t : Tile) (by_ : Option StreamId) (rs : List (Nat × Nat)) : Bool :=
  rs.any fun r => t.pourHolds by_ r.1 r.2 || anyOverlap (lsRes r) t.heldRes

/-- Whether a lock stands in a copy's way (R216): another pour's for what it reads, any for what it writes; a write an open brew stages meets none. -/
def State.copyLocked (s : State) (n : Nat) (c : Copy) (l : Nat) : Bool :=
  match c.dir with
  | .out => !c.inBrew && s.locked l
  | _ => s.lockedAgainst n c.stream l

/-- Whether a copy's data may move now: nothing outstanding, no member migrating, no line locked against it, none in a bank a row repair holds, every
link on the way to a line in service (R15), no range held on its destination tiles. -/
def State.copyReady (s : State) (n : Nat) (c : Copy) : Bool :=
  c.await.isEmpty && c.todo.isEmpty && !(c.members.any fun m => (s.tmapAt m).migrating) &&
    !((c.lines.filterMap s.lineOf).any fun l => s.copyLocked n c l || s.bankHeld l || !s.linkedTo (tileDie n) l) &&
    !(!c.inBrew && c.members.any fun m => (s.tileAt m).holdsDelivery (if m = n then some c.stream else none) (c.delivers m))

/-- Whether a converting copy cannot count its events yet: its health entry finds no room (R104). -/
def State.countStalls (s : State) (n : Nat) (c : Copy) : Bool :=
  decide (c.real s c.srcF ≠ c.real s c.dstF) && (s.healthStall n c.part c.tensor c.step).isSome

/-- Whether the copy of an open brew meets a staged word or line that fails its check (R218). -/
def State.stagedBad (s : State) (n : Nat) (c : Copy) (hw : Hw) : Bool :=
  let b := (s.streamAt n c.stream).brew
  let words := (c.lsReads n).flatMap fun r => if r.1 = n then spanOf 8 r.2.1 r.2.2 else []
  c.inBrew && ((words.any fun w => b.stagesWord w && hw.lsUncorr.contains w) ||
    (c.dir == .in_ && (c.lines.filterMap s.lineOf).any fun l => b.extLines.contains l && hw.memUncorr.contains l))

/-- Corrected words a copy reads count on the physical tile that holds each (R186). -/
def State.countCorrected (s : State) (hw : Hw) (words : List (Nat × Nat × Nat)) : State :=
  words.foldl (fun (s : State) r =>
    s.modPhysOf r.1 fun p => { p with lsCorr := satAdd max48 p.lsCorr ((spanOf 8 r.2.1 r.2.2).filter hw.lsCorr.contains).length }) s

/-- What an open brew's copy stages as it lands. -/
def Copy.stages (c : Copy) (n : Nat) : Needs :=
  { lsW := c.delivers n, exW := if c.dir = .out then runFrames c.addr c.stride c.count c.mfmt else [] }

/-- The copy's entry frees and its completion signal is on its way (R172); inside a brew the held signal waits for the pour. -/
def State.endCopy (s : State) (n : Nat) (c : Copy) : State :=
  let s1 := s.modTile n fun t =>
    { t with copyQ := t.copyQ.filter fun x => decide (x.id ≠ c.id), sb := t.sb.filter fun e => decide (e.op ≠ c.id) }
  let tiles := if c.dir = .out then [n] else c.members.filter fun m => decide (c.shareOf m ≠ 0)
  if c.sigen && !c.inBrew then { s1 with sigs := s1.sigs ++ [c.sig n tiles] } else s1

/-- The first word a copy reads outside its own staging that fails its check, as a word index of its tile. -/
def State.copyBadWord (s : State) (n : Nat) (c : Copy) (hw : Hw) : Option Nat :=
  let b := (s.streamAt n c.stream).brew
  (c.lsReads n).findSome? fun r =>
    (spanOf 8 r.2.1 r.2.2).find? fun w =>
      !(c.inBrew && decide (r.1 = n) && b.stagesWord w) && (hw.lsUncorr.contains w || Map.get false (s.tileAt r.1).lsBad w)

/-- COPY_COMPLETE: the k-th entry of the tile's queue moves its slices and ends; an uncorrectable line or word ends it with a deferred fault and
nothing written. In an open brew a staged word or line that fails spills the brew (R218), and so does a landing past its limits (R211). -/
def execCopyComplete (n k : Nat) (hw : Hw) (s : State) : Host.Outcome State Fault Refusal :=
  if nTiles ≤ n then .fault (.noSuchUnit "tile" n)
  else match (s.tileAt n).copyQ[k]? with
  | none => .next s
  | some c =>
    if !s.copyReady n c || s.countStalls n c then .next s
    else
      let s1 := s.countCorrected hw (c.lsReads n)
      if s.stagedBad n c hw then .next (s1.checkerSpill n c.stream)
      else if c.inBrew && s.brewOver n c.stream (c.stages n) then .next ((s1.spillBrew n c.stream 2 0).tryHalt n c.stream)
      else match s.copyBadWord n c hw with
      | some w => .next (s1.failCopy n c.id 0x21 (BitVec.ofNat 64 (8 * w)) (hwSyndrome 0x21))
      | none =>
        let (s2, bad) := s1.eccRead hw (s.copyReads n c)
        match bad with
        | some l =>
          let a := (c.lines.find? fun a => decide (s.lineOf a = some l)).getD l
          .next (s2.failCopy n c.id 0x22 (BitVec.ofNat 64 a) (hwSyndrome 0x22))
        | none =>
          let s3 := s2.convDisagree n (if c.real s c.srcF = c.real s c.dstF then 0 else hw.convErr)
          if c.real s c.srcF ≠ c.real s c.dstF ∧ 2 ≤ hw.convErr then .next s3
          else
            let s4 := (s3.landOrder c).foldl (fun s k => s.landSlice n c k) (if c.overlaps then { s3 with freeCtr := s3.freeCtr + 1 } else s3)
            let s5 := if (s.resolveFmt c.part c.tensor c.step c.dstF).2 then s4.countUnmapped c.part 1 else s4
            .next ((s5.endCopy n c).modTile n Tile.notePools)

/-- DEFERRED_FAULT: the oldest fault of the tile found after issue is recorded against its instruction and halts the stream (R157). -/
def execDeferredFault (n : Nat) (s : State) : Host.Outcome State Fault Refusal :=
  if nTiles ≤ n then .fault (.noSuchUnit "tile" n)
  else match (s.tileAt n).deferred with
  | [] => .next s
  | d :: rest => .next ((s.modTile n fun t => { t with deferred := rest }).haltStream n d.stream d.pc d.code.toNat d.detail d.syn)

/-! ## Completions from hosts and boards -/

/-- The host read with a tag. -/
def State.readOf (s : State) (p : HostPort) (tag : Nat) : Option (Nat × Nat × Nat × Nat × Nat) := (s.hostAt p.idx).reads.find? fun r => decide (r.1 = tag)

def State.dropRead (s : State) (p : HostPort) (tag : Nat) : State := s.modHost p.idx fun h => { h with reads := h.reads.filter fun r => decide (r.1 ≠ tag) }

/-- HOST_COMPLETION_RECEIVE: the data of a host read arrives; an error status ends the copy with MEM_UNCORR, HOST_ERROR (R195). -/
def execHostCompletionReceive (p : HostPort) (tag : Nat) (ok : Bool) (data : List Byte) (s : State) : Host.Outcome State Fault Refusal :=
  match s.readOf p tag with
  | none => .next s
  | some (_, n, id, a, len) =>
    let s1 := s.dropRead p tag
    if !ok || decide (data.length ≠ len) then .next ((s1.failCopy n id 0x22 (BitVec.ofNat 64 a) 0x0203).pump p)
    else
      .next ((s1.modTile n fun t => { t with copyQ := t.copyQ.map fun c =>
        if c.id = id then { c with arrived := Map.putRange none c.arrived a (data.map some), await := c.await.filter fun x => decide (x ≠ tag) } else c }).pump p)

/-- HOST_DMA_TIMEOUT: no completion within 10 ms ends the copy the same way (R195). -/
def execHostDmaTimeout (p : HostPort) (tag : Nat) (s : State) : Host.Outcome State Fault Refusal :=
  match s.readOf p tag with
  | none => .next s
  | some (_, n, id, a, _) => .next (((s.dropRead p tag).failCopy n id 0x22 (BitVec.ofNat 64 a) 0x0203).pump p)

/-- Every copy with reads outstanding or unsent on a port ends with MEM_UNCORR when its link goes down (R195). -/
def State.failHostCopies (s : State) (p : HostPort) : State :=
  let owned := fun (c : Copy) => decide ((s.partAt c.part).owner = p)
  let all := s.tile.flatMap fun e => (e.2.copyQ.filter fun c => owned c && (!c.todo.isEmpty || (s.hostAt p.idx).reads.any fun r => decide (r.2.2.1 = c.id))).map fun c => (e.1, c)
  all.foldl (fun s x =>
    let a := match x.2.todo with | t :: _ => t.addr | [] => match (s.hostAt p.idx).reads.find? (fun r => decide (r.2.2.1 = x.2.id)) with | some r => r.2.2.2.1 | none => x.2.addr
    s.failCopy x.1 x.2.id 0x22 (BitVec.ofNat 64 a) 0x0203) s

/-- The partition of a copy, and whether the port a response of it comes on is fenced for that partition (R306, log 99). -/
def State.copyPart (s : State) (n id : Nat) : Nat :=
  match (s.tileAt n).copyQ.find? fun c => decide (c.id = id) with | some c => c.part | none => nParts
def State.boardFenced (s : State) (port : Nat) (o : BoardOp) : Bool := s.fencedAt (s.copyPart o.tile o.copy) port

/-- BOARD_RESPONSE_RECEIVE: a read line or a write's acknowledgement returns; a refusal ends the copy with BOARD_REFUSED (R193). The response comes on
the port that carried the request (R290); one whose copy has ended is taken and dropped (R267). -/
def execBoardResponseReceive (port tag : Nat) (refused : Bool) (data : List Byte) (s : State) : Host.Outcome State Fault Refusal :=
  if (s.portAt port).front 4 ≠ some (Config.boardReply refused data) then .next s
  else match s.board.find? fun o => decide (o.tag = tag ∧ o.index = port) && !o.waiting with
  | none => .next (s.takeMessage port 4 (Config.boardReply refused data))
  | some o =>
    let s1 := { s.takeMessage port 4 (Config.boardReply refused data) with board := s.board.filter fun x => decide (x.tag ≠ tag) }
    if s.boardFenced port o then .next ((s.takeMessage port 4 (Config.boardReply refused data)).countClx (s.copyPart o.tile o.copy) 10)
    else if refused then .next (s1.failCopy o.tile o.copy 0x22 (BitVec.ofNat 64 o.addr) 0x0201)
    else
      .next (s1.modTile o.tile fun t => { t with copyQ := t.copyQ.map fun c =>
        if c.id = o.copy then
          { c with await := c.await.filter fun x => decide (x ≠ tag)
                   arrived := if o.write.isNone then Map.putRange none c.arrived o.addr ((data.take 64).map some) else c.arrived }
        else c })

/-- BOARD_NO_ROUTE: 300 ms without an ACTIVE port of the route end the copy (R290). -/
def execBoardNoRoute (tag : Nat) (s : State) : Host.Outcome State Fault Refusal :=
  match s.board.find? fun o => decide (o.tag = tag) && o.waiting with
  | none => .next s
  | some o => .next (s.failCopy o.tile o.copy 0x22 (BitVec.ofNat 64 o.addr) 0x0202)

/-- Board requests that waited for a port go out when one becomes ACTIVE (R290). -/
def State.retryBoards (s : State) : State :=
  (s.board.filter (·.waiting)).foldl (fun s o =>
    match (s.tileAt o.tile).copyQ.find? fun c => decide (c.id = o.copy) with
    | some c => { s with board := s.board.filter fun x => decide (x.tag ≠ o.tag) }.boardSend c.part o
    | none => s) s

end Sys2Proof.Machine
end

