-- ==== Sys2Proof/Machine/Coll.lean ====
section
/-! DEFINITION. The collectives engine (chapter 12): groups, tags, elements of vectors and of messages, sending and refusing, and the data every
operation contributes. The layout of a message's data after the header of Table 12-3, which the spec leaves to the engine, is log 9. -/

namespace Sys2Proof.Machine

/-! ## Groups and tags (R296, R301, R304) -/

def JobMap.extOf (m : JobMap) (c : Nat) : Nat := m.ext.getD c 1
def JobMap.npkg (m : JobMap) : Nat := m.serials.length

/-- Coordinate of job rank `j` on cut `c` (R296). -/
def JobMap.coord (m : JobMap) (j c : Nat) : Nat :=
  let below := ((List.range 5).filter fun x => decide (c < x)).foldl (fun n x => n * m.extOf x) 1
  j / below % m.extOf c

/-- The cuts of a group; none where it is not defined. -/
def Part.cuts (p : Part) (g : Nat) : Option (BitVec 5) :=
  if !p.job then none
  else if g = 0 then some 0x1F
  else
    let w := Map.get (0 : BitVec 6) p.group g
    if g < 1024 && w.getLsbD 5 then some (w.extractLsb' 0 5) else none

/-- SIZE and RANK of a group (R301). -/
def Part.groupSize (p : Part) (cuts : BitVec 5) : Nat := ((List.range 5).filter fun c => cuts.getLsbD c).foldl (fun n c => n * p.map.extOf c) 1
def Part.groupRank (p : Part) (cuts : BitVec 5) : Nat :=
  ((List.range 5).filter fun c => cuts.getLsbD c).foldl (fun n c => n * p.map.extOf c + p.map.coord p.jrank c) 0

/-- The torus axes of a group's path. -/
def Part.groupAxes (p : Part) (cuts : BitVec 5) : List Nat :=
  ((List.range 5).filter fun c => cuts.getLsbD c && decide (1 < p.map.extOf c)).map fun c => p.map.axis.getD c 255

/-- The job tag in force for a step (R304). -/
def Part.tagFor (p : Part) (step : BitVec 32) : Word := if p.tagStep.toNat ≤ step.toNat then p.tag else p.prevTag

/-- Operations of a group and lane issued earlier at a step (Table 12-3, SEQ). -/
def Part.seqOf (p : Part) (g lane step : Nat) : Nat :=
  match p.seqs.find? fun x => decide (x.1 = g ∧ x.2.1 = lane ∧ x.2.2.1 = step) with | some x => x.2.2.2 | none => 0
def Part.bumpSeq (p : Part) (g lane step : Nat) : Part :=
  { p with seqs := (p.seqs.filter fun x => !decide (x.1 = g ∧ x.2.1 = lane ∧ x.2.2.1 = step)) ++ [(g, lane, step, p.seqOf g lane step + 1)] }



/-! ## Operations -/

def State.opOf (s : State) (id : Nat) : Option Op := s.ops.find? fun o => decide (o.id = id)
def State.modOp (s : State) (id : Nat) (f : Op → Op) : State := { s with ops := s.ops.map fun x => if x.id = id then f x else x }
/-- Enters an operation in the table (Table 12-11). -/
def State.addOp (s : State) (o : Op) : State :=
  let s := { s with ops := s.ops ++ [o] }
  { s with clx := { s.clx with opsHwm := max s.clx.opsHwm (min 256 s.ops.length) } }

/-- Whether a KNEAD of the partition runs (R323). -/
def State.kneading (s : State) (p : Nat) : Bool := s.ops.any fun o => decide (o.part = p ∧ o.kind = 5)

/-- Whether the engine can start an operation of a partition: it has an entry left and runs no KNEAD of that partition (R323, Table 12-11). -/
def State.mayStart (s : State) (p : Nat) : Bool := decide (s.ops.length < 256) && !s.kneading p

/-- Little-endian fields of a descriptor. -/
def fld (d : List Byte) (off len : Nat) : Nat := leNat (slice d off len)

/-! ## Sending -/

/-- The VC of an operation kind (Table 11-5). -/
def vcOf : Nat → Nat
  | 0 => 0 | 1 => 0 | 2 => 1 | 4 => 1 | 8 => 1 | 3 => 2 | 5 => 2 | _ => 5

/-- The 40 header bytes of a message (Table 12-3). -/
def collHead (m : CollMsg) : List Byte :=
  natLe 8 m.tag.toNat ++ natLe 4 m.step.toNat ++ natLe 2 m.group.toNat ++ [m.op, m.flags] ++ natLe 4 m.seq.toNat ++ natLe 2 m.lane.toNat ++
    natLe 2 m.src.toNat ++ natLe 4 m.shape.toNat ++ natLe 4 m.tensor.toNat ++ natLe 8 m.offset.toNat

/-- Whether a port may carry a partition's collective traffic on the given axes: its pair is the partition's, its direction lies on an axis, its
logical port is not fenced (R306), it takes messages. -/
def State.portServes (s : State) (p : Nat) (axes : List Nat) (n : Nat) : Bool :=
  let q := s.portAt n
  q.takes && (s.partAt p).pairs.getLsbD (n / 2) && !(s.partAt p).pairPend.getLsbD (n / 2) && axes.contains (q.dir / 2) && !(s.partAt p).fence.getLsbD q.lport

/-- The first port on a group's path. -/
def State.pathPort (s : State) (p : Nat) (axes : List Nat) : Option Nat := (List.range nPorts).find? (s.portServes p axes)

/-- A message leaves on a port's VC. -/
def State.collQueue (s : State) (n p dest vc : Nat) (m : CollMsg) : State :=
  (s.queueMessage n vc (.coll p dest vc m) (collHead m ++ m.data)).emit (.coll n p dest m)

/-- A message waits for COLLECTIVE_RESEND (R325). -/
def State.loseColl (s : State) (n p dest vc : Nat) (m : CollMsg) : State := { s with lost := s.lost ++ [{ port := n, part := p, dest := dest, vc := vc, msg := m }] }

/-- Sends a message to a member of a group; with no port on the path it waits for COLLECTIVE_RESEND or PEER_LOST_TIMEOUT (R325). -/
def State.collSend (s : State) (p : Nat) (cuts : BitVec 5) (dest : Nat) (m : CollMsg) : State :=
  match s.pathPort p ((s.partAt p).groupAxes cuts) with
  | some n => s.collQueue n p dest (vcOf m.op.toNat) m
  | none => s.loseColl 64 p dest (vcOf m.op.toNat) m

/-- The ranks of an operation other than this package's. -/
def Op.peers (o : Op) : List Nat := (List.range o.size).filter fun r => decide (r ≠ o.rank)

/-- The header an operation's message carries. -/
def Op.message (o : Op) (last : Bool) (offset : Nat) (data : List Byte) : CollMsg :=
  { tag := o.tag, step := o.step, group := BitVec.ofNat 16 o.group, op := BitVec.ofNat 8 o.kind, flags := if last then 1 else 0
    seq := BitVec.ofNat 32 o.seq, lane := BitVec.ofNat 16 o.lane, src := BitVec.ofNat 16 o.rank, shape := o.shape
    tensor := BitVec.ofNat 32 (if o.kind = 8 then fld o.desc 4 4 % 2 ^ 20 else if o.kind < 6 then fld o.desc 8 4 % 2 ^ 20 else 0)
    offset := BitVec.ofNat 64 offset, data := data }

def State.opCuts (s : State) (o : Op) : BitVec 5 := ((s.partAt o.part).cuts o.group).getD 0

/-- Sends data to one member in messages of at most one frame of elements, `per` bytes an element, LAST on the final one. -/
def State.sendData (s : State) (o : Op) (dest first per : Nat) (data : List Byte) : State :=
  let unit := 16384 * per
  let n := max 1 ((data.length + unit - 1) / unit)
  (List.range n).foldl (fun s k =>
    s.collSend o.part (s.opCuts o) dest (o.message (decide (k + 1 = n)) (first + 16384 * k) (slice data (unit * k) (min unit (data.length - unit * k))))) s

/-- ABORT with a code to every member, over any route, on the VC of its operation (R267, R306). -/
def State.sendAbort (s : State) (o : Op) (code : Nat) : State :=
  o.peers.foldl (fun s r =>
    let m : CollMsg := { o.message true 0 [] with op := 15, offset := BitVec.ofNat 64 code }
    match (List.range nPorts).find? fun n => (s.portAt n).takes && (s.partAt o.part).pairs.getLsbD (n / 2) && !(s.partAt o.part).fence.getLsbD (s.portAt n).lport with
    | some n => s.collQueue n o.part r (vcOf o.kind) m
    | none => s.loseColl 64 o.part r (vcOf o.kind) m) s

/-- An operation ends by a code of Table 12-7, once. -/
def State.endOp (s : State) (id code prank : Nat) (pstep : BitVec 32) : State :=
  s.modOp id fun o => if o.ended.isSome then o else { o with ended := some (code, prank, pstep) }

/-! ## Vectors and elements (R308, R326) -/

/-- The address of element `k` of a vector whose frames are those of code `lf` and whose elements have format `f` (they differ where `lf` is BLEND), and
of its scale byte. -/
def elemAddr (base lf f k : Nat) : Nat := base + k / 16384 * frameBytes lf + k % 16384 * fmtWidth f / 8
def elemScaleAddr (base lf k : Nat) : Nat := base + k / 16384 * frameBytes lf + framePlane lf + scaleIdx false (k % 16384 / 128) (k % 128)

/-- Whether the line of a package address is poisoned. -/
def State.poisonAt (s : State) (a : Nat) : Bool := match s.lineOf a with | some l => s.poisoned l | none => false

/-- The code and scale of element `k` of a vector held in format `f`, code bits read from memory; an uncorrectable line gives the canonical NaN, an MX
element the scale 0xFF (R326). -/
def State.vecElem (s : State) (base lf f k : Nat) : Nat × Nat :=
  let a := elemAddr base lf f k
  let sh := k % 16384 * fmtWidth f % 8
  let n := (sh + fmtWidth f + 7) / 8
  let code := leNat (s.pkgRead a n) / 2 ^ sh % 2 ^ fmtWidth f
  if isMx f then
    let sa := elemScaleAddr base lf k
    if s.poisonAt a || s.poisonAt (a + n - 1) || s.poisonAt sa then (code, 255) else (code, leNat (s.pkgRead sa 1))
  else if s.poisonAt a || s.poisonAt (a + n - 1) then (canonNan f, 0)
  else (code, 0)

/-- The exact value of a code with its scale. -/
def pairVal (f : Nat) (x : Nat × Nat) : Val := if isMx f then scaleVal x.2 (decodeElem f x.1) else decodeElem f x.1

/-- Bytes of one element in a message: its code, and for an MX format its scale. -/
def msgElemBytes (f : Nat) : Nat := (fmtWidth f + 7) / 8 + b2n (isMx f)
def encodePair (f : Nat) (x : Nat × Nat) : List Byte := natLe ((fmtWidth f + 7) / 8) x.1 ++ if isMx f then [BitVec.ofNat 8 x.2] else []
def decodePair (f : Nat) (bs : List Byte) (k : Nat) : Nat × Nat :=
  let n := (fmtWidth f + 7) / 8
  let o := k * msgElemBytes f
  (fld bs o n, if isMx f then fld bs (o + n) 1 else 0)

/-- Writes codes from position `k0` of a vector of format `f`; bits of neighbouring elements in shared bytes are kept. -/
def State.vecWrite (s : State) (by_ : Option (Nat × StreamId)) (base lf f k0 : Nat) (xs : List (Nat × Nat)) : State :=
  let w := fmtWidth f
  if xs.isEmpty then s
  else (List.range ((k0 + xs.length - 1) / 16384 - k0 / 16384 + 1)).foldl (fun s j =>
    -- the part of the run in frame k0 / 16384 + j
    let lo := max k0 ((k0 / 16384 + j) * 16384)
    let hi := min (k0 + xs.length) ((k0 / 16384 + j + 1) * 16384)
    let part := (xs.drop (lo - k0)).take (hi - lo)
    let a := elemAddr base lf f lo
    let sh := lo % 16384 * w % 8
    let len := (sh + w * part.length + 7) / 8
    let old := leNat (s.pkgRead a len)
    let body := part.foldr (fun x n => x.1 + 2 ^ w * n) 0
    let top := old / 2 ^ (sh + w * part.length)
    let s1 := s.pkgWrite by_ a (natLe len (old % 2 ^ sh + body * 2 ^ sh + top * 2 ^ (sh + w * part.length)))
    if isMx f then
      ((List.range part.length).filter fun i => (lo + i) % 32 = 0 ∨ i = 0).foldl (fun s i =>
        s.pkgWrite by_ (elemScaleAddr base lf (lo + i)) [BitVec.ofNat 8 ((part.getD i (0, 0)).2)]) s1
    else s1) s

/-- Converts values into format `f` for positions `k0` on, MX blocks of 32 consecutive positions; `rnd k` is the SR value at position k. -/
def convVector (f : Nat) (md : Rnd) (sat : Bool) (rnd : Nat → Nat) (k0 : Nat) (vs : List Val) : List (Nat × Nat) × List (List Nat) :=
  if isMx f then
    let n := vs.length
    let bs := (List.range (if n = 0 then 0 else (k0 + n - 1) / 32 - k0 / 32 + 1)).map fun j =>
      let lo := max k0 ((k0 / 32 + j) * 32)
      let hi := min (k0 + n) ((k0 / 32 + j + 1) * 32)
      let cv := convBlock f md ((List.range (hi - lo)).map fun i => rnd (lo + i)) ((vs.drop (lo - k0)).take (hi - lo))
      (cv.2.1.map fun c => (c, cv.1), cv.2.2)
    (bs.flatMap (·.1), bs.flatMap (·.2))
  else
    let es := ((List.range vs.length).zip vs).map fun x => convElem f md sat (rnd (k0 + x.1)) x.2
    (es.map fun e => (e.1, 0), es.map (·.2))

/-- Health increments of converted values, shadow counts where the destination is BLEND (R100–R102). -/
def vectorEvents (hb : Int) (blend : Bool) (vs : List Val) (ev : List (List Nat)) : List (List Nat) :=
  (List.zipWith (fun v e => 0 :: histIdx hb v ++ e) vs ev) ++
    if blend then (List.range ((vs.length + 31) / 32)).flatMap fun j => shadowBlock ((vs.drop (32 * j)).take 32) else []

/-! ## Accumulation records (Table 05-4, R105) -/

/-- The accumulation record of a slot: address in the health region. -/
def Part.accAt (p : Part) (step slot : Nat) : Nat := p.hregion + step % 2 * 0x100000 + 256 * slot

/-- A record's bytes. -/
def healthRecord (tensor step : Nat) (inc : Bool) (cnt : List Nat) : List Byte :=
  natLe 4 (tensor + b2n (decide (max48 ≤ cnt.headD 0)) * 2 ^ 30 + b2n inc * 2 ^ 31) ++ natLe 4 step ++ List.replicate 8 0 ++ cnt.flatMap (natLe 6)

def recordCounts (r : List Byte) : List Nat := (List.range 40).map fun k => fld r (16 + 6 * k) 6

/-- Adds counters to a partition's record of a tensor and step; a record of another step starts anew. Counts of a closed step are discarded.
DESIGN CHOICE (log 92): a record an earlier job left for the same step and slot is kept, and the counts are added to it. -/
def State.addRecord (s : State) (p tensor step : Nat) (cnt : Map Nat) : State :=
  let q := s.partAt p
  if !q.hvalid || (q.s0.isSome && decide (step < q.oldest)) then s
  else
    let slot := match q.slotOf tensor with | some e => (e.1, tensor) | none => (4095, 0)
    let old := s.pkgRead (q.accAt step slot.1) 256
    let base := if fld old 4 4 = step ∧ fld old 0 4 % 2 ^ 20 = slot.2 then recordCounts old else List.replicate 40 0
    let new := ((List.range 40).zip base).map fun x => min max48 (x.2 + Map.get 0 cnt x.1)
    s.pkgWrite none (q.accAt step slot.1) (healthRecord slot.2 step false new)

/-- Events of an engine's conversions (R100): no events against tensor 0. -/
def State.engineEvents (s : State) (p tensor step : Nat) (ev : List (List Nat)) : State :=
  if tensor = 0 ∨ ev.isEmpty then s else s.addRecord p tensor step (addCounts [] ev.flatten)

/-! ## Receiving -/

/-- Whether an operation has all that every rank sends it. -/
def Op.complete (o : Op) : Bool := o.awaits.all fun r => o.lasts.contains r

/-- Takes a message's data into an operation; a duplicate of a header is discarded (R325). -/
def Op.take (o : Op) (m : CollMsg) : Op :=
  let r := m.src.toNat
  if o.contrib.any fun c => decide (c.1 = r ∧ c.2.1 = m.offset.toNat) then o
  else
    { o with
      contrib := o.contrib ++ [(r, m.offset.toNat, m.data)]
      lasts := if m.flags.getLsbD 0 && !o.lasts.contains r then o.lasts ++ [r] else o.lasts }

/-- A rank's data in order of OFFSET. -/
def insertOff (x : Nat × List Byte) : List (Nat × List Byte) → List (Nat × List Byte)
  | [] => [x]
  | y :: ys => if x.1 ≤ y.1 then x :: y :: ys else y :: insertOff x ys
def Op.dataOf (o : Op) (r : Nat) : List Byte :=
  (((o.contrib.filter fun c => decide (c.1 = r)).map fun c => (c.2.1, c.2.2)).foldr insertOff []).flatMap (·.2)

/-! ## Receiving a message -/

/-- Whether a message belongs to an operation (R305). -/
def Op.matches (o : Op) (p : Nat) (m : CollMsg) : Bool :=
  decide (o.part = p ∧ o.kind ≠ 16 ∧ o.group = m.group.toNat ∧ o.lane = m.lane.toNat ∧ o.step = m.step ∧ o.seq = m.seq.toNat)

/-- R306: a refusal by the package that finds the mismatch. The message's group names the members the ABORT goes to; an operation not yet issued is
ended with the code as it starts (log 105). -/
def State.refuseOp (s : State) (port p : Nat) (m : CollMsg) (o : Option Op) (code : Nat) : State :=
  let q := s.partAt p
  let cuts := (q.cuts m.group.toNat).getD 0
  let o' : Op := o.getD
    { id := 0, kind := m.op.toNat, part := p, step := m.step, group := m.group.toNat, seq := m.seq.toNat, lane := m.lane.toNat, tag := q.tagFor m.step
      size := q.groupSize cuts, rank := q.groupRank cuts }
  let s1 := match o with
    | some x => s.endOp x.id code m.src.toNat m.step
    | none => if m.step.toNat < q.oldest then s else { s with early := s.early ++ [(port, p, { m with op := 15, data := [], offset := BitVec.ofNat 64 code })] }
  let s2 := (s1.sendAbort o' code).modPart p fun q => { q with fence := q.fence ||| (1#64 <<< (s.portAt port).lport) }
  (s2.countClx p code).errorEvent 1 0x0501 (uPart p) ((s.partKeys p) ++ [(10, .u code)])

/-- A guard partial reaches its operation (R318): a rank that arrives twice from different members, or is out of range, ends the operation. -/
def Op.guardClash (o : Op) (m : CollMsg) : Bool :=
  decide (o.counts.headD 0 ≤ m.offset.toNat) || o.contrib.any fun c => decide (c.2.1 = m.offset.toNat ∧ c.1 ≠ m.src.toNat)

/-- A message meets its operation: the checks of R305 in their order, then its data. -/
def State.takeIn (s : State) (port : Nat) (o : Op) (m : CollMsg) : State :=
  let q := s.partAt o.part
  if o.ended.isSome then s
  else if m.op = 15 then s.endOp o.id (m.offset.toNat % 256) m.src.toNat m.step
  else if o.kind ≠ 10 ∧ o.kind ≠ 11 ∧ q.s0.isSome ∧ (m.step.toNat < q.oldest ∨ q.oldest + 2 < m.step.toNat) then s.refuseOp port o.part m (some o) 2
  else if m.tag ≠ q.tagFor m.step then s.refuseOp port o.part m (some o) 1
  else if m.op.toNat ≠ o.kind ∨ m.shape ≠ o.shape then s.refuseOp port o.part m (some o) 3
  else if o.kind = 9 ∧ o.guardClash m then (s.endOp o.id 9 m.src.toNat 0).sendAbort o 9
  else s.modOp o.id fun x => x.take m

/-- Bytes of the early buffer in use, and its size (Table 12-11). -/
def State.earlyBytes (s : State) : Nat := s.early.foldl (fun n e => n + 40 + e.2.2.data.length) 0
def earlySize : Nat := 32 * 2 ^ 20

/-- A message without a local operation finds no room in the early buffer (Table 12-11): it stays in its port's receive buffer, and its credits with it. -/
def State.noRoom (s : State) (port p : Nat) (m : CollMsg) : Bool :=
  let q := s.partAt p
  q.job && !s.fencedAt p port && !(s.ops.any fun o => o.matches p m) && decide (q.seqOf m.group.toNat m.lane.toNat m.step.toNat ≤ m.seq.toNat) &&
    (m.op == 15 || q.s0.isNone || (decide (q.oldest ≤ m.step.toNat) && decide (m.step.toNat ≤ q.oldest + 2))) && decide (earlySize < s.earlyBytes + 40 + m.data.length)

/-- A message without a local operation: it waits in the early buffer while there is room (R305); one of an operation already completed is a
duplicate (R325); one outside the range of steps is refused. -/
def State.hold (s : State) (port p : Nat) (m : CollMsg) : State :=
  let q := s.partAt p
  if m.seq.toNat < q.seqOf m.group.toNat m.lane.toNat m.step.toNat then s
  else if m.op ≠ 15 ∧ q.s0.isSome ∧ (m.step.toNat < q.oldest ∨ q.oldest + 2 < m.step.toNat) then s.refuseOp port p m none 2
  else if earlySize < s.earlyBytes + 40 + m.data.length then s
  else
    let s1 := { s with early := s.early ++ [(port, p, m)] }
    { s1 with clx := { s1.clx with earlyHwm := max s1.clx.earlyHwm ((s1.earlyBytes + 65535) / 65536) } }

/-- A collective message or ABORT of partition `p` arrives on a port (R305, R306, R328). -/
def State.receiveColl (s : State) (port p : Nat) (m : CollMsg) : State :=
  let q := s.partAt p
  if !q.job then s.modPort port fun x => { x with refused := x.refused + 1 }
  else if s.fencedAt p port then s.countClx p 10
  else match s.ops.find? fun o => o.matches p m with
  | some o => s.takeIn port o m
  | none => s.hold port p m

/-- A whole message with these bytes stands first on a VC of the port's receive buffer, the port being of a pair of the partition (R266). -/
def State.arrived (s : State) (port p : Nat) (bs : List Byte) : Option Nat :=
  if (s.partAt p).pairs.getLsbD (port / 2) then (List.range 8).find? fun v => (s.portAt port).front v == some bs else none

/-- The messages of the early buffer that an operation just started was waited for by. -/
def State.replayEarly (s : State) (id : Nat) : State :=
  match s.opOf id with
  | none => s
  | some o =>
    let mine := s.early.filter fun e => o.matches e.2.1 e.2.2
    mine.foldl (fun s e => match s.opOf id with | some o => s.takeIn e.1 o e.2.2 | none => s)
      { s with early := s.early.filter fun e => !o.matches e.2.1 e.2.2 }

end Sys2Proof.Machine
end

