-- ==== Sys2Proof/Machine/Health.lean ====
section
/-! DEFINITION. Steps of a partition (chapters 05, 12): health flushes, the close of a step, staged changes and the job tag, the health reduction, the
blend decisions, CHAIN and the log. -/

namespace Sys2Proof.Machine

/-- HEALTH_FLUSH_ARRIVE: the oldest entry of a tile's flush queue is added to its partition's record; a flush of a closed step is discarded and
counted in LATE (R105). Entries whose step every stream has passed then take the freed place (R104). -/
def execHealthFlushArrive (n : Nat) (s : State) : Host.Outcome State Fault Refusal :=
  if nTiles ≤ n then .fault (.noSuchUnit "tile" n)
  else
    let s := s.modTile n Tile.flushPassed
    match (s.tileAt n).flushQ with
    | [] => .next s
    | e :: rest =>
      let s1 := s.modTile n fun t => Tile.flushPassed { t with flushQ := rest }
      match s.tilePart n with
      | none => .next s1
      | some p =>
        let q := s1.partAt p
        if q.s0.isSome ∧ e.step.toNat < q.oldest then .next (s1.modPart p fun q => { q with late := satAdd 65535 q.late })
        else .next (s1.addRecord p e.tensor e.step.toNat e.cnt)

/-! ## The job tag (R303) -/

/-- The inputs of Table 12-4, in order. -/
def Part.tagInput (p : Part) : List Byte :=
  p.map.bytes ++
    ((List.range 1023).flatMap fun g =>
      let w := Map.get (0 : BitVec 6) p.group (g + 1)
      natLe 2 (b2n (w.getLsbD 5) * 2 ^ 15 + w.toNat % 32)) ++
    natLe 2 (b2n p.action * 2 ^ 9 + p.dint.toNat) ++
    [BitVec.ofNat 8 (bits p.pctrl.toNat 15 8), BitVec.ofNat 8 p.lag] ++
    ((List.range 4095).flatMap fun i => natLe 4 (Map.get (0 : BitVec 32) p.slot i).toNat) ++
    ((List.range 1024).flatMap fun i => natLe 32 ((p.rowAt i).word &&& rowThreshMask).toNat) ++
    natLe 2 (bits p.jobFw.toNat 31 16) ++ natLe 2 (bits p.jobFw.toNat 15 0)

/-- The job tag: bytes 0 to 7 of the SHA-256, 1 in place of 0. -/
def Part.computeTag (p : Part) : Word :=
  let t := leNat ((hashBytes (sha256 p.tagInput)).take 8)
  if t = 0 then 1 else BitVec.ofNat 64 t

/-- A new tag from step `e` on. -/
def Part.retag (p : Part) (e : BitVec 32) : Part :=
  if !p.job then p
  else { p with prevTag := p.tag, prevStep := p.tagStep, tag := p.computeTag, tagStep := e }

/-! ## Staged changes (R115, R300) -/

/-- New THRESHOLDS of a row from step `e` (R115). -/
def BlendRow.threshold (r : BlendRow) (w : BitVec 256) (e : Nat) : BlendRow :=
  let last := rowBits r.word 255 224
  if rowValid w && !rowValid r.word then
    { word := rowSetState w 0 e 0 (rowInit w) (rowInit w), older := none, decided := false }
  else
    let cur := rowCur r.word
    if cur < rowFloor w ∨ rowCeil w < cur then
      let f := if cur < rowFloor w then rowFloor w else rowCeil w
      { word := rowSetState w last e 0 f f, older := some (BitVec.ofNat 2 (if r.decided then rowPend r.word else rowInit r.word)), decided := true }
    else { r with word := rowSetState w last (rowPendStep r.word) (rowHoldCnt r.word) (rowPend r.word) cur }

/-- The job rank of this package in a map. -/
def JobMap.rankOf (m : JobMap) : Nat := m.serials.findIdx fun x => x == Config.serial

/-- One staged change takes effect at step `e`. -/
def Part.applyOne (p : Part) (e : BitVec 32) : Staged → Part
  | .slot i w => { p with slot := Map.put 0 p.slot i w }
  | .row i w => { p with row := Map.upd {} p.row i fun r => r.threshold w e.toNat }
  | .pctrl w => { p with pctrl := w }
  | .digctrl d a => { p with dint := d, action := a }
  | .map addr m => { p with mapAddr := addr, map := m, jrank := m.rankOf }
  | .group g v c => { p with group := Map.put 0 p.group g (BitVec.ofNat 6 (b2n v * 32 + c.toNat)) }

/-- Whether a step of the partition is open (R115). -/
def Part.stepOpen (p : Part) : Bool := p.job && p.s0.isSome

/-- Changes with effective step `e` take effect, and the tag is computed again if there were any (R115, R303). -/
def Part.applyStaged (p : Part) (e : BitVec 32) : Part :=
  let due := p.staged.filter fun x => decide (x.1.toNat ≤ e.toNat)
  if due.isEmpty then p
  else (due.foldl (fun (p : Part) x => p.applyOne x.1 x.2) { p with staged := p.staged.filter fun x => !decide (x.1.toNat ≤ e.toNat) }).retag e

/-- The tag computed at this moment, for every step (R115, R303). -/
def Part.retagNow (p : Part) : Part := if p.job then { p with tag := p.computeTag, tagStep := 0 } else p

/-- A change is staged, or takes effect at once while no step is open; `none` where it is LATE (R115). -/
def Part.stage (p : Part) (e : BitVec 32) (xs : List Staged) : Option Part :=
  if !p.stepOpen then some (xs.foldl (fun (p : Part) x => p.applyOne e x) p).retagNow
  else if e.toNat ≤ p.oldest then none
  else some { p with staged := p.staged ++ xs.map fun x => (e, x) }

/-! ## The close of a step -/

/-- CHAIN after a closed step (R114): the first four words of every valid row, in ascending row order. -/
def Part.chainOn (p : Part) (step : Nat) : Word :=
  let rows := (List.range 1024).filter fun i => rowValid (p.rowAt i).word
  BitVec.ofNat 64 (crc64 (natLe 8 p.chain.toNat ++ natLe 4 step ++ rows.flatMap fun i => natLe 16 ((p.rowAt i).word.toNat % 2 ^ 128))).toNat

def Part.advanceChain (p : Part) (step : Nat) : Part :=
  let c := p.chainOn step
  { p with chain := c, chainAt := Map.put (0, false) p.chainAt step (c, true) }

/-- Whether a tile still holds health counts of a step for its partition. -/
def Tile.holdsHealth (t : Tile) (step : Nat) : Bool := (t.health ++ t.flushQ).any fun e => decide (e.step.toNat = step)

/-- Whether the close of step `st` would get ahead of the decision of an earlier step: changes staged for it, or a close without counting, would reach the
rows and CHAIN before that decision. DESIGN CHOICE (log 93): such a step closes after the decision. -/
def Part.closeWaits (q : Part) (st : Nat) : Bool :=
  !q.deciding.isEmpty && (!q.hvalid || q.staged.any fun x => decide (x.1.toNat ≤ st + 1))

/-- The conditions of R106 for the oldest open step; a new tag waits out a handoff window (R330), a health reduction waits until it can start (R323). -/
def State.mayClose (s : State) (p : Nat) : Bool :=
  let q := s.partAt p
  let st := q.oldest
  q.stepOpen && q.stepped.contains st && (s.runningOf p).all (fun x => decide (st < (s.streamAt x.1 x.2).step.toNat)) &&
    !(s.ops.any fun o => decide (o.part = p ∧ o.step.toNat = st ∧ o.kind ≠ 10 ∧ o.kind ≠ 11)) &&
    !(s.comb.any fun c => decide (c.part = p ∧ c.op ≠ 0 ∧ c.step.toNat = st)) &&
    !(s.tile.any fun e => decide (s.tilePart e.1 = some p) && e.2.holdsHealth st) &&
    !(s.fw.handoff && q.staged.any fun x => decide (x.1.toNat ≤ st + 1)) && !q.closeWaits st &&
    (!q.hvalid || s.mayStart p)

/-- The slots of a map that are reduced: every valid entry, and slot 4,095. -/
def reducedSlots (slots : List (Nat × BitVec 32)) : List (Nat × Nat) :=
  ((slots.filter fun e => slotValid e.2).map fun e => (e.1, slotTensor e.2)) ++ [(4095, 0)]

/-- This package's records of a step, as its contribution to the health reduction. -/
def State.healthData (s : State) (p step : Nat) (slots : List (Nat × BitVec 32)) : List Byte :=
  let q := s.partAt p
  (reducedSlots slots).flatMap fun x =>
    let r := s.pkgRead (q.accAt step x.1) 256
    let cnt := if fld r 4 4 = step ∧ fld r 0 4 % 2 ^ 20 = x.2 then recordCounts r else List.replicate 40 0
    healthRecord x.2 step (q.incomplete.contains step) cnt

/-- An operation the engine issues itself on VC5: its contribution goes to every member (R317). -/
def State.engineOp (s : State) (o : Op) (data : List Byte) : State :=
  let q := s.partAt o.part
  let cuts := (q.cuts o.group).getD 0
  let o : Op := { o with
    id := s.nextId, lane := 0xFFFE, seq := q.seqOf o.group 0xFFFE o.step.toNat, tag := q.tagFor o.step, size := q.groupSize cuts, rank := q.groupRank cuts
    contrib := [(q.groupRank cuts, 0, data)], lasts := [q.groupRank cuts], awaits := List.range (q.groupSize cuts) }
  let s1 := ((s.addOp o).bumpId).modPart o.part fun q => q.bumpSeq o.group 0xFFFE o.step.toNat
  (o.peers.foldl (fun s r => s.collSend o.part cuts r (o.message true 0 data)) s1).replayEarly o.id

/-- The rows a step is decided for: valid as it closes, and not made valid by that close (R110, R115). -/
def judgedRows (before after : Part) : List Nat :=
  (List.range 1024).filter fun i => rowValid (before.rowAt i).word && rowValid (after.rowAt i).word

/-- STEP_CLOSE: the oldest open step closes; staged changes take effect; with counting enabled its health reduction is issued, otherwise CHAIN
advances at once, over the rows with those changes (R106, R108, R114, R115). -/
def execStepClose (p : Nat) (s : State) : Host.Outcome State Fault Refusal :=
  if nParts ≤ p then .fault (.noSuchUnit "partition" p)
  else if !s.mayClose p then .next s
  else
    let q := s.partAt p
    let st := q.oldest
    let e := BitVec.ofNat 32 (st + 1)
    let after := fun (q : Part) => { q with oldest := st + 1, closedAny := true, stepped := q.stepped.filter fun x => decide (x ≠ st) }
    if q.hvalid then
      let slots := q.slot
      let rows := judgedRows q (q.applyStaged e)
      let s1 := s.modPart p fun q =>
        { q with deciding := q.deciding ++ [{ step := st, op := s.nextId, slots := slots, pctrl := q.pctrl, rows := rows, handoff := s.fw.handoff }] }
      let s2 := s1.engineOp { id := 0, kind := 10, part := p, step := BitVec.ofNat 32 st, group := 0 } (s.healthData p st slots)
      .next (s2.modPart p fun q => (after q).applyStaged e)
    else .next (s.modPart p fun q => ((after q).applyStaged e).advanceChain st)

/-! ## Blend decisions (R110) -/

/-- Summed counters of a row for a step. -/
structure RowSum where
  cnt : List Nat
  incomplete : Bool := false
  saturated : Bool := false

/-- "count ppm exceeds T", "is at or below T" (R109). -/
def ppmAbove (count elements t : Nat) : Bool := decide (t * elements < count * 1000000)

/-- The `while` of R110: widens while the format does not fit. -/
def widen (w : BitVec 256) (el s43 s52 : Nat) : Nat → Nat → Nat
  | 0, f => f
  | fuel + 1, f =>
    if f < rowCeil w ∧ (f = 2 ∨ ppmAbove (if f = 0 then s43 else s52) el (if f = 0 then rowHi43 w else rowHi52 w)) then widen w el s43 s52 fuel (f + 1) else f

/-- The rule of R110: the row afterwards and its reason. -/
def BlendRow.decide_ (r : BlendRow) (c : RowSum) (step lag : Nat) : BlendRow × Nat :=
  let w := r.word
  let f := rowCur w
  let el := c.cnt.getD 0 0
  let s43 := c.cnt.getD 6 0
  let s52 := c.cnt.getD 7 0
  let sh := fun (f : Nat) => if f = 0 then s43 else s52
  let hi := fun (f : Nat) => if f = 0 then rowHi43 w else rowHi52 w
  let lo := fun (f : Nat) => if f = 0 then rowLo43 w else rowLo52 w
  let res : Nat × Nat × Nat :=
    if c.incomplete || c.saturated || decide (0 < c.cnt.getD 4 0 ∨ el < rowMinN w) then (f, 0, 1)
    else if f < rowCeil w ∧ ppmAbove (sh f) el (hi f) then (widen w el s43 s52 3 f, 0, 2)
    else if rowFloor w < f ∧ !ppmAbove (sh (f - 1)) el (lo (f - 1)) then
      let h := min (rowHoldCnt w + 1) 65535
      if rowHold w ≤ h then (f - 1, 0, 3) else (f, h, 0)
    else (f, 0, 0)
  ({ word := rowSetState w step (step + lag) res.2.1 res.1 res.1
     older := some (BitVec.ofNat 2 (if r.decided then rowPend w else rowInit w)), decided := true }, res.2.2)

/-- Appends an entry to the blend log ring (R113). -/
def State.logBlend (s : State) (p base step row reason fmts tail : Nat) : State :=
  let q := s.partAt p
  let s1 := s.pkgWrite none (base + 0x400000 + 16 * (q.logNext % 4096)) (natLe 4 step ++ natLe 2 row ++ [BitVec.ofNat 8 reason, BitVec.ofNat 8 fmts] ++ natLe 8 tail)
  s1.modPart p fun q => { q with logNext := q.logNext + 1, logLost := if 4096 ≤ q.logNext then satAdd (2 ^ 24 - 1) q.logLost else q.logLost }

/-- One row decided and logged. -/
def State.decideRow (s : State) (p base step lag row : Nat) (c : RowSum) : State :=
  let r := (s.partAt p).rowAt row
  let (r', reason) := r.decide_ c step lag
  let s1 := s.modPart p fun q => { q with row := Map.put {} q.row row r' }
  if reason = 0 then s1 else s1.logBlend p base step row reason (rowCur r.word + 4 * rowCur r'.word) (rowHoldCnt r'.word)

/-- The reduced records of a step: slot, tensor, counters, INCOMPLETE; saturating sums over every rank's record (R106). -/
def Op.reduced (o : Op) (slots : List (Nat × BitVec 32)) : List (Nat × Nat × List Nat × Bool) :=
  let refused := match o.ended with | some e => decide (e.1 ≠ 0) | none => false
  ((List.range (reducedSlots slots).length).zip (reducedSlots slots)).map fun x =>
    let recs := (List.range o.size).map fun r => slice (o.dataOf r) (256 * x.1) 256
    let cnt := recs.foldl (fun (a : List Nat) r => List.zipWith (fun u v => min max48 (u + v)) a (recordCounts r)) (List.replicate 40 0)
    (x.2.1, x.2.2, cnt, refused || recs.any fun r => decide (2 ^ 31 ≤ fld r 0 4))

/-- What row `i` is judged by (R109): the saturating sums of the records of the GRAD slots that feed it. -/
def Op.rowSum (o : Op) (d : Deciding) (i : Nat) : RowSum :=
  let mine := (o.reduced d.slots).filter fun x =>
    let w := Map.get (0 : BitVec 32) d.slots x.1
    decide (x.1 ≠ 4095) && slotGrad w && decide (slotRow w = i)
  let cnt := mine.foldl (fun a x => List.zipWith (fun u v => min max48 (u + v)) a x.2.2.1) (List.replicate 40 0)
  { cnt := cnt
    incomplete := mine.any (fun x => x.2.2.2) || (match o.ended with | some e => decide (e.1 ≠ 0) | none => false)
    saturated := mine.any (fun x => decide (max48 ≤ x.2.2.1.headD 0)) || decide (max48 ≤ cnt.headD 0) }

/-- Decides the rows of a step and writes its reduced records, log entries and CHAIN. DESIGN CHOICE (log 95): bytes 6 and 7 of a STEP entry, which R113
gives for a row only, are 0. -/
def State.finishStep (s : State) (p : Nat) (d : Deciding) (o : Op) : State :=
  let base := bits d.pctrl.toNat 40 18 * 2 ^ 23
  let red := o.reduced d.slots
  let s1 := red.foldl (fun (s : State) x => s.pkgWrite none (base + 0x200000 + d.step % 2 * 0x100000 + 256 * x.1) (healthRecord x.2.1 d.step x.2.2.2 x.2.2.1)) s
  let lag := (s.partAt p).lag
  let s2 := d.rows.foldl (fun (s : State) i =>
    s.decideRow p base d.step lag i (o.rowSum d i)) s1
  let s3 := s2.modPart p fun q =>
    { (q.advanceChain d.step) with deciding := q.deciding.filter (fun x => decide (x.step ≠ d.step)), incomplete := q.incomplete.filter fun x => decide (x ≠ d.step) }
  s3.logBlend p base d.step 0xFFFF 0 0 (s3.partAt p).chain.toNat

/-- BLEND_DECIDE: the health reduction of the oldest closed step has every contribution, or was refused; the rows are decided (R110, R113, R114, R317).
A step that closed in a handoff window waits for the new image (R19, R117). -/
def execBlendDecide (p : Nat) (s : State) : Host.Outcome State Fault Refusal :=
  if nParts ≤ p then .fault (.noSuchUnit "partition" p)
  else match (s.partAt p).deciding with
  | [] => .next s
  | d :: _ =>
    if s.fw.handoff && d.handoff then .next s
    else match s.opOf d.op with
    | none => .next (s.finishStep p d { id := 0, kind := 10, part := p, step := 0, size := 0, ended := some (4, 0, 0) })
    | some o =>
      if !o.complete && o.ended.isNone then .next s
      else .next ({ s with ops := s.ops.filter fun x => decide (x.id ≠ o.id) }.finishStep p d o)

end Sys2Proof.Machine
end

