-- ==== Sys2Proof/Machine/Eng.lean ====
section
/-! DEFINITION. The issue of operations to the IOD engines (R178–R180), shared by CL.ISSUE, UP.ISSUE and GATHER. -/

namespace Sys2Proof.Machine

/-! ## Issue -/

/-- The first address of `[a, a + len)` that is not memory of the partition: the descriptor lies in partition memory (R178). -/
def State.outside (s : State) (p a len : Nat) : Option Nat :=
  (pieces a len).findSome? fun x => match place s.pkg x.1 with | .mem b => if s.owns p b then none else some x.1 | _ => some x.1



/-- The operation an issue to an engine waits for (R179): the oldest of eight outstanding, until it completes. -/
def Stream.awaited (x : Stream) : Option Nat :=
  match x.ninth.filter x.opsOut.contains with
  | some id => some id
  | none => if 8 ≤ x.opsOut.length then x.opsOut.head? else none

/-- What holds back an issue to an engine (R179, R323, R330, R433, Table 12-11, R40); events of a step two ahead of the oldest open one stall (R105). -/
def engineStall (i : Issue) (solo : Bool) (s : State) : Option Cause :=
  let x := s.streamAt i.tile i.stream
  let q := s.partAt x.part
  if s.sleepy || x.awaited.isSome || !s.mayStart x.part then some .peer
  else if s.fw.handoff && q.staged.any fun e => decide (e.1.toNat ≤ x.step.toNat) then some .peer
  else if q.hvalid && q.stepOpen && decide (q.oldest + 2 ≤ x.step.toNat) then some .dep
  else if !solo && (s.combining i.tile i.stream).isSome && decide (4096 ≤ s.comb.length) then some .dep
  else none

/-- Whether a line of the ranges is locked by a pour (R216), or locked or held (R191, R205). -/
def State.linesLocked (s : State) (rs : List (Nat × Nat)) : Bool := (s.linesOf rs).any s.locked
def State.linesWait (s : State) (rs : List (Nat × Nat)) : Bool := (s.linesOf rs).any fun l => s.locked l || s.lineHeld l

/-- Whether an issue starts its operation: made on the tile's own behalf, or the last its loaf's combined issue needs (R180). -/
def State.issueStarts (s : State) (i : Issue) (cls : Nat) (solo : Bool := i.word.func.getLsbD 3) : Bool :=
  match if solo then none else s.combining i.tile i.stream with
  | none => true
  | some loaf =>
    let gen := s.genOf loaf i.stream 0 0 cls ((s.streamAt i.tile i.stream).readS 13).toNat
    match s.comb.find? fun c => c.loaf == loaf && c.stream == some i.stream && decide (c.op = cls ∧ c.gen = gen) with
    | some c => decide ((s.loafTiles loaf).length ≤ c.joined.length + 1)
    | none => false

/-- An engine reads what its operation needs at the instant of the issue that starts it; while a line of it is locked or held that issue waits, cause
COPY (R216, log 62). -/
def Needs.holdReads (g : Needs) (s : State) (starts : Bool) (rs : List (Nat × Nat)) : Needs :=
  { g with stall := if g.stall.isSome then g.stall else if g.faults.isEmpty && starts && s.linesWait rs then some .copy else none }

/-- The descriptor address of an issue. -/
def descAt (i : Issue) (s : State) : Nat := (s.getS i (rn i.word.srca)).toNat

/-- ALIGN and MEM_RANGE of a descriptor of `len` bytes (Table 07-22). -/
def descFaults (i : Issue) (len : Nat) (s : State) : List (Nat × Word) :=
  let a := descAt i s
  (if a % 64 ≠ 0 then [(0x03, BitVec.ofNat 64 a)] else []) ++
    match s.outside (s.issuerPart i) a len with | some b => [(0x06, BitVec.ofNat 64 b)] | none => []

/-- The needs CL.ISSUE and UP.ISSUE share. -/
def needsEngine (i : Issue) (okFunc : Nat → Bool) (s : State) : Needs :=
  let f := descFaults i 256 s
  { ill := funcIll i.word okFunc ++ opsIll i.word .none .s .none ++ immIll i.word 23 6 zero ++ extZero i.word
    fence := true, reads := resS i.word.srca
    exR := if f.isEmpty then [(descAt i s, 256)] else []
    stall := engineStall i (i.word.func.getLsbD 3) s
    ninth := (s.streamAt i.tile i.stream).awaited
    faults := f }

/-- Takes an operation off the tiles that issued it: their scoreboard entries, their outstanding operations. -/
def State.release (s : State) (js : List Joiner) (st : StreamId) (id : Nat) : State :=
  js.foldl (fun (s : State) (j : Joiner) => s.modTile j.tile fun t =>
    { (t.modStream st fun x => { x with opsOut := x.opsOut.filter fun o => decide (o ≠ id) }) with sb := t.sb.filter fun e => decide (e.op ≠ id) }) s

/-- The descriptor has been read: the entries of CL.ISSUE and UP.ISSUE are released (R178). -/
def State.freeEntries (s : State) (js : List Joiner) (id : Nat) : State :=
  js.foldl (fun (s : State) (j : Joiner) => s.modTile j.tile fun t => { t with sb := t.sb.filter fun e => decide (e.op ≠ id) }) s

/-- A fault of the issue, found after it (R157), for each of these members. -/
def State.deferAll (s : State) (js : List Joiner) (st : StreamId) (code : Nat) (detail : Word) : State :=
  js.foldl (fun (s : State) (j : Joiner) => s.modTile j.tile fun t =>
    { t with deferred := t.deferred ++ [{ stream := st, pc := j.pc, code := BitVec.ofNat 8 code, detail := detail }] }) s

/-- DESC_INVALID: the operation does not start. -/
def State.descInvalid (s : State) (js : List Joiner) (st : StreamId) (id off : Nat) : State :=
  (s.release js st id).deferAll js st 0x14 (BitVec.ofNat 64 off)

/-- The completion signals of an operation (R178): one to each tile that issued it with SIGEN. -/
def State.signalJoiners (s : State) (js : List Joiner) (st : StreamId) (part : Nat) : State :=
  (js.filter fun j => j.sigen).foldl (fun (s : State) (j : Joiner) =>
    { s with sigs := s.sigs ++ [{ src := j.tile, stream := st, tiles := [j.tile], k := j.k, amount := 1, part := part, after := j.after }] }) s

/-- An issue, as one member makes it. -/
def joinerOf (i : Issue) (pc : BitVec 48) (expect : BitVec 32) (s : State) : Joiner :=
  { tile := i.tile, rank := ((s.streamAt i.tile i.stream).readS 13).toNat, pc := pc, addr := descAt i s
    sigen := decide (immF i.word 5 5 = 1), k := immF i.word 4 0, word := i.word, expect := expect }

/-- How an operation starts: its identifier, issuing members, partition, stream, step, LANE. -/
structure Begin where
  id      : Nat
  joiners : List Joiner
  part    : Nat
  stream  : StreamId
  step    : BitVec 32
  lane    : Nat

/-- The members whose descriptor address differs from rank 0's: CL_MISMATCH for them and for rank 0 (R180). -/
def misfits (js : List Joiner) : List Joiner :=
  match js.find? fun j => decide (j.rank = 0) with
  | none => []
  | some z => js.filter fun j => decide (j.addr ≠ z.addr)

def lowestRank (js : List Joiner) : Nat := js.foldl (fun m j => min m j.rank) 65535

/-- An issue to an engine: on the tile's own behalf, or joined to its loaf's combined issue, which starts with its last member (R180). `cls` keeps
the issues of different opcodes apart; `e` is the scoreboard entry of the issue. The signal of a GATHER follows R129 (R172). -/
def effEngine (cls : Nat) (solo : Bool) (e : SbEntry) (i : Issue) (pc : BitVec 48) (expect : BitVec 32) (start : Begin → State → State) (s : State) : State :=
  let x := s.streamAt i.tile i.stream
  let j := { joinerOf i pc expect s with after := if cls = 3 then ((s.tileAt i.tile).pendingWrites i.stream).map (·.op) else [] }
  let enter := fun (id : Nat) (s : State) => s.modTile i.tile fun t =>
    { (t.modStream i.stream fun x => { x with opsOut := x.opsOut ++ [id] }) with sb := t.sb ++ [{ e with op := id }] }
  match if solo then none else s.combining i.tile i.stream with
  | none =>
    start { id := s.nextId, joiners := [j], part := x.part, stream := i.stream, step := x.step, lane := if solo then i.tile else 0xFFFF } (enter s.nextId s).bumpId
  | some loaf =>
    let gen := s.genOf loaf i.stream 0 0 cls j.rank
    let same := fun (c : Comb) => c.loaf == loaf && c.stream == i.stream && decide (c.op = cls ∧ c.gen = gen)
    let s1 := s.bumpGen loaf i.stream 0 0 cls j.rank
    let (c, s2) := match s.comb.find? same with
      | some c => (c, s1)
      | none => (({ loaf := loaf, stream := i.stream, target := 0, k := 0, gen := gen, op := cls, arrived := [], part := x.part, id := s.nextId } : Comb), s1.bumpId)
    let c : Comb := { c with joined := c.joined ++ [j], step := if j.rank = 0 ∨ c.joined.isEmpty then x.step else c.step }
    let s3 := { (enter c.id s2) with comb := s2.comb.filter fun d => !same d }
    if c.joined.length < (s.loafTiles loaf).length then { s3 with comb := s3.comb ++ [c] }
    else
      let bad := misfits c.joined
      if bad.isEmpty then start { id := c.id, joiners := c.joined, part := x.part, stream := i.stream, step := c.step, lane := 0xFFFF } s3
      else (s3.release c.joined i.stream c.id).deferAll (c.joined.filter fun j => decide (j.rank = 0) || bad.contains j) i.stream 0x13
        (BitVec.ofNat 64 (lowestRank bad))

end Sys2Proof.Machine
end

