-- ==== Sys2Proof/Machine/Rules.lean ====
section
/-! DEFINITION. The update rules (chapter 10, R237–R243): recipes, the guard, one slice's new weights and moments, digests. -/

namespace Sys2Proof.Machine

/-! ## Recipes (Table 10-5) -/

def f32Of (d : List Byte) (off : Nat) : Lane := BitVec.ofNat 32 (fld d off 4)
def rRule (r : List Byte) : Nat := fld r 0 1
def rBc (r : List Byte) : Bool := (r.getD 1 0).getLsbD 0
def rSparse (r : List Byte) : Bool := (r.getD 1 0).getLsbD 1
def rLazy (r : List Byte) : Bool := (r.getD 1 0).getLsbD 2
def rScale (r : List Byte) : Bool := (r.getD 1 0).getLsbD 3
def rT0 (r : List Byte) : Nat := fld r 4 4
def rLr (r : List Byte) : Lane := f32Of r 0x08
def rB1 (r : List Byte) : Lane := f32Of r 0x0C
def rB2 (r : List Byte) : Lane := f32Of r 0x10
def rEps (r : List Byte) : Lane := f32Of r 0x14
def rWd (r : List Byte) : Lane := f32Of r 0x18
def rLimit (r : List Byte) : Lane := f32Of r 0x1C
def rDclip (r : List Byte) : Lane := f32Of r 0x20
def rTmax (r : List Byte) : Lane := f32Of r 0x24
/-- RDIG. -/
def recipeDigest (r : List Byte) : BitVec 32 := crc32c r

def one : Lane := 0x3F800000#32
def isFinite (x : Lane) : Bool := !(f32 x).nonfinite
/-- FP32 from an unsigned integer, RNE. -/
def f32Nat (n : Nat) : Lane := toF32 (.fin false n 0)

/-- The bias corrections of R242. -/
def biasCorr (b : Lane) (r : List Byte) (target : Nat) : Lane :=
  if rBc r then fDiv one (fSub one (fExp2 (fMul (f32Nat (target + 1 - rT0 r)) (fLog2 b)))) else one

/-- RECIPE_INVALID is not due (R238). -/
def recipeOk (r : List Byte) (step : Nat) : Bool :=
  let fps := [rLr r, rB1 r, rB2 r, rEps r, rWd r, rLimit r, rDclip r, rTmax r]
  decide (rRule r ≤ 5 ∧ fld r 1 1 < 16 ∧ fld r 2 2 = 0) && (slice r 0x28 24).all (fun b => b == 0) && fps.all isFinite &&
    fLe 0 (rLr r) && fLe 0 (rB1 r) && fLt (rB1 r) one && fLe 0 (rB2 r) && fLt (rB2 r) one && fLe 0 (rEps r) && fLe 0 (rWd r) && fLt 0 (rLimit r) &&
    (decide (rRule r ≠ 3) || fLt 0 (rDclip r)) && (decide (rRule r ≠ 4) || fLt 0 (rTmax r)) && decide (rT0 r ≤ step) &&
    isFinite (biasCorr (rB1 r) r step) && isFinite (biasCorr (rB2 r) r step)

/-- LAYOUT is not due (R238). -/
def layoutOk (r : List Byte) (d : DirEntry) : Bool :=
  (decide (rRule r ≠ 3) || decide (d.vfmt = 1)) && (decide (rRule r ≠ 2 ∧ rRule r ≠ 4) || decide (d.vfmt = 1 ∨ d.vfmt = 2)) &&
    (!rSparse r || decide (d.kind = 1 ∨ d.kind = 2))

/-! ## META lines (Table 10-4) -/



def State.metaLine (s : State) (d : DirEntry) (e k : Nat) : List Byte := s.memRead (d.metaAt e k) 64
def State.metaVersion (s : State) (d : DirEntry) (e k : Nat) : Nat := fld (s.metaLine d e k) 0 4
def State.metaCrust (s : State) (d : DirEntry) (e k : Nat) : Nat := fld (s.metaLine d e k) 4 4
def metaBytes (version crust : Nat) (digest : Word) (rest : List Byte) : List Byte :=
  natLe 4 version ++ natLe 4 crust ++ natLe 8 digest.toNat ++ slice rest 16 8 ++ List.replicate 40 0

/-! ## Sums of squares (R239) -/

def fTree (xs : List Lane) : Lane := treeReduce (fun _ a b => fAdd a b) 0 xs
def lanesOf (bs : List Byte) : List Lane :=
  let rd := rdOf bs.toArray
  (List.range (bs.length / 4)).map fun k => BitVec.ofNat 32 (leNat ((List.range 4).map fun j => rd (4 * k + j)))
def sumSquares (g : List Lane) : Lane := fTree (g.map fun x => fMul x x)

/-! ## One slice -/

/-- What a slice update reads: gradients, weights (as FP32), moments widened, Q8 values widened, R and C. -/
structure SliceIn where
  g : Array Lane
  w : Array Lane
  m : Array Lane
  q : Array Lane
  fr : Array Lane
  fc : Array Lane

/-- What it computes per element: the new moment, the exact new weight, the second moment; and R and C. -/
structure SliceOut where
  m1 : Array Lane
  w1 : Array Val
  v1 : Array Lane
  fr : Array Lane
  fc : Array Lane

def lane (a : Array Lane) (i : Nat) : Lane := a.getD i 0

/-- R242, the exact −a·d + w. -/
def stepExact (a d w : Lane) : Val := ((f32 a).negate.mul (f32 d)).add (f32 w)

/-- The second-moment vectors of FACT after the slice's update. -/
def factRows (b2 ob2 : Lane) (x : SliceIn) : Array Lane :=
  ((List.range 128).map fun r =>
    fFma b2 (lane x.fr r) (fMul ob2 (fDiv (fTree ((List.range 128).map fun c => let g := lane x.g (128 * r + c); fMul g g)) (f32Nat 128)))).toArray
def factCols (b2 ob2 : Lane) (x : SliceIn) : Array Lane :=
  ((List.range 128).map fun c =>
    fFma b2 (lane x.fc c) (fMul ob2 (fDiv (fTree ((List.range 128).map fun r => let g := lane x.g (128 * r + c); fMul g g)) (f32Nat 128)))).toArray

def elems : List Nat := List.range 16384

/-- The reference rules of R242 over one slice. -/
def ruleSlice (r : List Byte) (vfmt target : Nat) (x : SliceIn) : SliceOut :=
  let b1 := rB1 r
  let b2 := rB2 r
  let ob1 := fSub one b1
  let ob2 := fSub one b2
  let rc1 := biasCorr b1 r target
  let rc2 := biasCorr b2 r target
  let rule := rRule r
  let uses := decide (rule = 2 ∨ rule = 3 ∨ rule = 4)
  let fact := uses && decide (vfmt = 1)
  let fr := if fact then factRows b2 ob2 x else x.fr
  let fc := if fact then factCols b2 ob2 x else x.fc
  let rs := fDiv (fTree ((List.range 128).map (lane fr))) (f32Nat 128)
  let v1 := (elems.map fun e =>
    if fact then (if fEq rs 0 then 0 else fDiv (fMul (lane fr (e / 128)) (lane fc (e % 128))) rs)
    else
      let q := lane x.q e
      let g := lane x.g e
      fFma b2 (fMul q q) (fMul ob2 (fMul g g))).toArray
  let m1 := (elems.map fun e =>
    let m := lane x.m e
    let g := lane x.g e
    if rule ≤ 1 then fFma b1 m g else if rule = 5 then fFma b2 m (fMul ob2 g) else fFma b1 m (fMul ob1 g)).toArray
  let decay := fun (w u : Lane) => fFma (rWd r) w u
  let adam := fun (e : Nat) => fDiv (fMul (lane m1 e) rc1) (fAdd (fSqrt (fMul (lane v1 e) rc2)) (rEps r))
  let w1 : List Val :=
    if rule = 0 then elems.map fun e => stepExact (rLr r) (decay (lane x.w e) (lane m1 e)) (lane x.w e)
    else if rule = 1 then elems.map fun e => stepExact (rLr r) (decay (lane x.w e) (fFma b1 (lane m1 e) (lane x.g e))) (lane x.w e)
    else if rule = 2 then elems.map fun e => stepExact (rLr r) (decay (lane x.w e) (adam e)) (lane x.w e)
    else if rule = 3 then
      let u0 := (elems.map fun e => fDiv (lane m1 e) (fAdd (fSqrt (lane v1 e)) (rEps r))).toArray
      let k := fMax one (fDiv (fSqrt (fDiv (fTree (elems.map fun e => fMul (lane u0 e) (lane u0 e))) (f32Nat 16384))) (rDclip r))
      elems.map fun e => stepExact (rLr r) (decay (lane x.w e) (fDiv (lane u0 e) k)) (lane x.w e)
    else if rule = 4 then
      let d := (elems.map fun e => decay (lane x.w e) (adam e)).toArray
      let nw := fSqrt (fTree (elems.map fun e => fMul (lane x.w e) (lane x.w e)))
      let nd := fSqrt (fTree (elems.map fun e => fMul (lane d e) (lane d e)))
      let tr := if fEq nw 0 || fEq nd 0 then one else fMin (fDiv nw nd) (rTmax r)
      elems.map fun e => stepExact (fMul (rLr r) tr) (lane d e) (lane x.w e)
    else elems.map fun e =>
      let c := fFma b1 (lane x.m e) (fMul ob1 (lane x.g e))
      let u := if fLt 0 c then one else if fLt c 0 then fNeg one else 0
      stepExact (rLr r) (decay (lane x.w e) u) (lane x.w e)
  { m1 := m1, w1 := w1.toArray, v1 := v1, fr := fr, fc := fc }

/-- A gradient after the guard (R240, R241): the value, 1 where it was clamped, 1 where it was zeroed. -/
def guardElem (r : List Byte) (gscale : Lane) (g : Lane) : Lane × Nat × Nat :=
  if rSparse r then
    if !isFinite g then (0, 0, 1)
    else if fLt (rLimit r) g then (rLimit r, 1, 0)
    else if fLt g (fNeg (rLimit r)) then (fNeg (rLimit r), 1, 0)
    else (g, 0, 0)
  else if gscale = one then (g, 0, 0)
  else (fMul g gscale, 0, 0)

/-! ## The slice in memory -/

/-- The bytes a slice update writes, the counts of clamped and zeroed gradients, its health events. -/
structure SliceNew where
  w : List Byte
  m : List Byte
  v : List Byte
  clamped : Nat
  zeroed : Nat
  events : List (List Nat)

/-- The frame bytes `old` kept in the rows of `keep`, `new` elsewhere; `per` bytes a row, then `pl` plane bytes a row. -/
def keepRows (keep : Array Bool) (per pl : Nat) (old new : List Byte) : List Byte :=
  let o := old.toArray
  let n := new.toArray
  (List.range (128 * (per + pl))).map fun i =>
    let row := if i < 128 * per then i / per else (i - 128 * per) / (max 1 pl)
    if keep.getD row false then o.getD i 0 else n.getD i 0

/-- The update of slice `k` of a shard (R242, R246). Rows that LAZY keeps are stored as they were and round nothing, so they raise no health event
(DEDUCED, log 32). DESIGN CHOICE (log 96): the rounding of a weight to BF16 does not saturate. -/
def State.newSlice (s : State) (p e : Nat) (d : DirEntry) (r : List Byte) (k : Nat) : SliceNew :=
  let wb := s.memRead (d.wAt e k) 32768
  let mb := s.memRead (d.mAt e k) 16896
  let vb := s.memRead (d.vAt e k) d.vSlice
  let mf := if d.mfmt then 6 else 5
  let gs := (lanesOf (s.memRead (d.gAt e k) 65536)).map (guardElem r d.gscale)
  let rw := rdOf wb.toArray
  let rm := rdOf mb.toArray
  let rv := rdOf vb.toArray
  let vl := lanesOf vb
  let widen := fun (rd : Nat → Byte) (f : Nat) => (elems.map fun i => toF32 (valAt rd (fun n => rd (16384 + n)) f false (i / 128) (i % 128))).toArray
  let x : SliceIn :=
    { g := (gs.map (·.1)).toArray, w := (elems.map fun i => BitVec.ofNat 32 (elemAt rw 1 i * 65536)).toArray, m := widen rm mf
      q := if d.vfmt = 2 then widen rv 5 else #[]
      fr := if d.vfmt = 1 then (vl.take 128).toArray else #[], fc := if d.vfmt = 1 then (vl.drop 128).toArray else #[] }
  let y := ruleSlice r d.vfmt.toNat d.target.toNat x
  let sr := fun (purpose i : Nat) => s.srAt p d.tensor.toNat d.target purpose 0 ((d.slice0.toNat + k) * 16384 + i)
  let wv := fun (rr c : Nat) => y.w1.getD (128 * rr + c) .nan
  let cw := convSlice 1 .sr false false (fun rr c => sr 1 (128 * rr + c)) wv
  let mv := fun (rr c : Nat) => f32 (lane y.m1 (128 * rr + c))
  let cm := convSlice mf .sr true false (fun rr c => sr 2 (128 * rr + c)) mv
  let vv := fun (rr c : Nat) => f32 (fSqrt (lane y.v1 (128 * rr + c)))
  let newV := decide (rRule r = 2 ∨ rRule r = 3 ∨ rRule r = 4)
  let cv := convSlice 5 .sr true false (fun rr c => sr 3 (128 * rr + c)) vv
  let keep := ((List.range 128).map fun rr =>
    rLazy r && rSparse r && (List.range 128).all fun c => fEq (lane x.g (128 * rr + c)) 0).toArray
  let ev := fun (src : Nat → Nat → Val) (es : List (List Nat)) =>
    ((elems.zip es).filter fun z => !keep.getD (z.1 / 128) false).map fun z =>
      0 :: histIdx (s.partAt p).histBase (src (z.1 / 128) (z.1 % 128)) ++ z.2
  { w := keepRows keep 256 0 wb cw.elems
    m := keepRows keep 128 4 mb (cm.elems ++ cm.plane)
    v := if !newV then vb
      else if d.vfmt = 2 then keepRows keep 128 4 vb (cv.elems ++ cv.plane)
      else if d.vfmt = 1 then (List.range 128).flatMap (fun n => natLe 4 (lane y.fr n).toNat) ++ (List.range 128).flatMap fun n => natLe 4 (lane y.fc n).toNat
      else vb
    clamped := gs.foldl (fun n x => n + x.2.1) 0
    zeroed := gs.foldl (fun n x => n + x.2.2) 0
    events := ev wv cw.events ++ ev mv cm.events ++ if newV && decide (d.vfmt = 2) then ev vv cv.events else [] }

/-- The digest of a slice (R252): CRC-64 over its W frame, its M frame, its V data. -/
def sliceDigest (w m v : List Byte) : Word := crc64 (w ++ m ++ v)

/-- The shard digest: over the slices' digests in META, in ascending order (R252). -/
def State.shardDigest (s : State) (d : DirEntry) (e : Nat) : Word := crc64 ((List.range d.n).flatMap fun k => slice (s.metaLine d e k) 8 8)

end Sys2Proof.Machine
end

