-- ==== Sys2Proof/Machine/Up.lean ====
section
/-! DEFINITION. UP.ISSUE and the update engines (chapter 10): descriptors, guards, shard and slice updates, PARTIAL shards, the digest exchange. -/

namespace Sys2Proof.Machine

/-! ## Engines (R257) -/

/-- The engine that serves a directory: its own, else the next two of its die in turn. -/
def State.serverOf (s : State) (e : Nat) : Option Nat :=
  let d := e / 3 * 3
  ([e, d + (e + 1) % 3, d + (e + 2) % 3].find? fun x => !(s.engineAt x).fenced && !(s.engineAt x).disabled && !(s.stackAt x).fenced)

/-- Whether updates of a directory's shards can run. -/
def State.served (s : State) (e : Nat) : Bool := !(s.stackAt e).fenced && !(s.engineAt e).disabled && (s.serverOf e).isSome

/-- UPE_CNT[l][c] gains k (Table 10-11), by the directory's engine. -/
def State.countUpe (s : State) (e c : Nat) (k : Nat := 1) : State :=
  s.modEngine e fun u => { u with cnt := Map.upd 0 u.cnt c fun n => satAdd max48 n k }

/-- SERVER of every directory of a die. -/
def State.reserve (s : State) (die : Nat) : State :=
  [0, 1, 2].foldl (fun (s : State) l => s.modEngine (3 * die + l) fun u => { u with server := match s.serverOf (3 * die + l) with | some x => if x = 3 * die + l then none else some x | none => none }) s

/-! ## Update operations -/

/-- The shards a descriptor names, in ascending index; none where one is undefined. -/
def State.namedShards (s : State) (p : Nat) (d : List Byte) : Option (List (Nat × Nat)) :=
  let l := (List.range (fld d 8 4)).map fun i => s.findShard p (fld d 0 4) (fld d 4 4 + i)
  if l.all Option.isSome then some (l.filterMap id) else none

/-- The guard reduction descriptor of an update, where it may be used (Table 12-9). -/
def State.guardDesc (s : State) (p a : Nat) : Option (List Byte) :=
  let g := s.pkgRead a 64
  if a = 0 ∨ a % 64 ≠ 0 ∨ (s.outside p a 64).isSome then none
  else if fld g 2 2 ≠ 0 ∨ fld g 8 4 = 0 ∨ 2 ^ 24 < fld g 8 4 ∨ fld g 12 4 = 0 ∨ fld g 8 4 < fld g 12 4 ∨ !((slice g 16 48).all fun b => b == 0) then none
  else if ((s.partAt p).cuts (fld g 0 2)).isNone then none
  else some g

/-- SHAPE of a guard operation (R318). -/
def guardShape (g : List Byte) : BitVec 32 := crc32c (slice g 0 2 ++ slice g 4 8)

/-- Whether every shard a descriptor names is PARTIAL: its guard is not repeated (R248), so no guard descriptor is read. -/
def State.allPartial (s : State) (p : Nat) (d : List Byte) : Bool :=
  match s.namedShards p d with
  | some l => l.all fun x => decide ((s.dirAt x.1 x.2).state = .partial_)
  | none => false

/-- The lowest refused field of an update descriptor (R244); log 20 gives the refusals beyond R244's list. -/
def State.upBad (s : State) (p : Nat) (d r : List Byte) (step : BitVec 32) : Option Nat :=
  let a := fld d 0x10 8
  let bad : List (Nat × Bool) :=
    [(0x00, decide (2 ^ 20 ≤ fld d 0 4)),
     (0x04, decide (1 ≤ fld d 8 4 ∧ fld d 8 4 ≤ 4096) && (s.namedShards p d).isNone),
     (0x08, !decide (1 ≤ fld d 8 4 ∧ fld d 8 4 ≤ 4096)),
     (0x0C, decide (4 ≤ fld d 0xC 4)),
     (0x10, decide (a % 64 ≠ 0) || (s.outside p a 64).isSome),
     (0x18, !rSparse r && !s.allPartial p d && match s.guardDesc p (fld d 0x18 8) with
        | none => true
        | some g => s.ops.any fun o => decide (o.kind = 9 ∧ o.part = p ∧ o.step = step ∧ fld o.desc 4 4 = fld g 4 4) && o.desc != g),
     (0x28, !((slice d 0x28 208).all fun b => b == 0))]
  (bad.find? (·.2)).map (·.1)

/-- A shard's guard partial (R239): NaN and a crumb where a gradient line cannot be read. -/
def State.guardPartial (s : State) (hw : Hw) (norm : Bool) (e i : Nat) : State × Lane :=
  let d := s.dirAt e i
  let r := s.eccRead hw (lineAddrs (d.at_ e + d.gOff) (65536 * d.n))
  if !norm then (s, fTree ((List.range d.n).map fun k => f32Of (s.metaLine d e k) 16))
  else if r.2.isSome then
    (r.1.errorEvent 1 0x0301 (uEngine e) [(6, .u d.version.toNat), (7, .u d.part), (10, .u d.shard.toNat), (32, .u d.tensor.toNat), (33, .u d.pbase.toNat)], canonF32)
  else (r.1, fTree ((List.range d.n).map fun k => sumSquares (lanesOf (s.memRead (d.gAt e k) 65536))))

/-- The codes 5 to 8 an update ends with before any shard starts (R238, R239, R248); 0 for none. -/
def State.upRefusal (s : State) (d r : List Byte) (shards : List (Nat × Nat)) (step : BitVec 32) : Nat :=
  let part := shards.filter fun x => decide ((s.dirAt x.1 x.2).state = .partial_)
  let rest := shards.filter fun x => decide ((s.dirAt x.1 x.2).state ≠ .partial_)
  let norm := decide (fld d 0xC 4 / 2 % 2 = 1)
  if !norm && !rSparse r && rest.any (fun x => (List.range (s.dirAt x.1 x.2).n).any fun k => decide (fld (s.metaLine (s.dirAt x.1 x.2) x.1 k) 20 4 ≠ fld d 0x20 4)) then 8
  else if part.any fun x => decide ((s.dirAt x.1 x.2).rdig ≠ recipeDigest r) then 7
  else if rest.any fun x => !layoutOk r (s.dirAt x.1 x.2) then 6
  else if !rest.isEmpty && !recipeOk r step.toNat then 5
  else 0

/-- An operation ends: its status word (Table 10-7) and its signals (R178), once the word's line is not locked (R216). -/
def State.finishUp (s : State) (id : Nat) : State :=
  match s.opOf id with
  | none => s
  | some o =>
    if !o.shards.isEmpty || s.linesLocked [(o.addr + 248, 8)] then s
    else
      let s1 := s.pkgWrite none (o.addr + 248) (natLe 4 o.code ++ natLe 4 o.slices)
      ({ (s1.release o.joiners o.stream id) with ops := s1.ops.filter fun x => decide (x.id ≠ id) }).signalJoiners o.joiners o.stream o.part

/-- A shard leaves its update with a code; the update's code is the highest. -/
def State.dropShard (s : State) (id : Nat) (x : Nat × Nat) (code : Nat) : State :=
  ((s.modDir x.1 x.2 fun d => { d with state := if d.state = .waitpin then .idle else d.state }).modOp id fun o =>
    { o with shards := o.shards.filter fun y => decide (y ≠ x), code := max o.code code }).finishUp id

/-! ## Guards (R318) -/

/-- Sends a guard partial, tagged with its rank, to every member. -/
def State.sendPartial (s : State) (o : Op) (last : Bool) (c : Nat × Nat × List Byte) : State :=
  o.peers.foldl (fun (s : State) r => s.collSend o.part (s.opCuts o) r (o.message last c.2.1 c.2.2)) s

/-- The partials of an update enter the guard operation of its step and GKEY, which is begun where there is none; they are sent once LRANKS are
formed. A rank that arrives twice, or is out of range, ends the operation. -/
def State.feedGuard (s : State) (p : Nat) (step : BitVec 32) (g : List Byte) (id : Nat) (ps : List (Nat × Lane)) : State :=
  let q := s.partAt p
  let cuts := (q.cuts (fld g 0 2)).getD 0
  let nrank := fld g 8 4
  let lranks := fld g 12 4
  let (gid, s) := match s.ops.find? fun o => decide (o.kind = 9 ∧ o.part = p ∧ o.step = step ∧ fld o.desc 4 4 = fld g 4 4) with
    | some o => (o.id, s)
    | none =>
      let o : Op :=
        { id := s.nextId, kind := 9, part := p, step := step, group := fld g 0 2, seq := q.seqOf (fld g 0 2) 0xFFFE step.toNat, tag := q.tagFor step
          shape := guardShape g, desc := g, size := q.groupSize cuts, rank := q.groupRank cuts, counts := [nrank, lranks] }
      (s.nextId, (((s.addOp o).bumpId).modPart p fun q => q.bumpSeq (fld g 0 2) 0xFFFE step.toNat).replayEarly s.nextId)
  let s := s.modOp id fun o => { o with guardId := some gid }
  match s.opOf gid with
  | none => s
  | some o =>
    let had := o.contrib.filter fun c => decide (c.1 = o.rank)
    let new : List (Nat × Nat × List Byte) := ps.map fun x => (o.rank, x.1, natLe 4 x.2.toNat)
    if ps.any (fun x => decide (nrank ≤ x.1) || o.contrib.any fun c => decide (c.2.1 = x.1)) then (s.endOp gid 9 o.rank 0).sendAbort o 9
    else
      let s1 := s.modOp gid fun o => { o with contrib := o.contrib ++ new }
      let n := had.length + new.length
      if n < lranks then s1
      else
        -- the partials held so far go out with the one that completes them; later ones at once
        let out := if had.length < lranks then had ++ new else new
        (List.range out.length).foldl (fun (s : State) k => s.sendPartial o (decide (k + 1 = out.length)) (out.getD k (0, 0, []))) s1

/-- The update operation starts (R244, R245): the descriptor is checked, refusals 5 to 8 end it, the guard partials are formed. -/
def State.beginUp (hw : Hw) (b : Begin) (s : State) : State :=
  let a := (b.joiners.headD { tile := 0, rank := 0, pc := 0, addr := 0, sigen := false, k := 0 }).addr
  let d := s.pkgRead a 256
  let r := s.pkgRead (fld d 0x10 8) 64
  match s.upBad b.part d r b.step with
  | some off => s.descInvalid b.joiners b.stream b.id off
  | none =>
    let shards := (s.namedShards b.part d).getD []
    let s1 := s.freeEntries b.joiners b.id
    let c := s1.upRefusal d r shards b.step
    let o : Op :=
      { id := b.id, kind := 16, part := b.part, stream := b.stream, step := b.step, lane := b.lane, desc := d, addr := a, joiners := b.joiners
        shards := if c = 0 then shards else [], code := c, bf16 := rSparse r }
    let s2 := s1.addOp o
    if c ≠ 0 then s2.finishUp b.id
    else
      let mine := ((List.range shards.length).zip shards).filter fun x => decide ((s.dirAt x.2.1 x.2.2).state ≠ .partial_)
      match if rSparse r || mine.isEmpty then none else s.guardDesc b.part (fld d 0x18 8) with
      | none => s2
      | some g =>
        let (s3, ps) := mine.foldl (fun (acc : State × List (Nat × Lane)) x =>
          let y := acc.1.guardPartial hw (decide (fld d 0xC 4 / 2 % 2 = 1)) x.2.1 x.2.2
          (y.1, acc.2 ++ [(fld d 0x24 4 + x.1, y.2)])) (s2, [])
        s3.feedGuard b.part b.step g b.id ps

/-- The ranges an update operation reads as it starts: recipe, guard descriptor, and G or META of the shards it names (R237, R239, R318). -/
def State.upReads (s : State) (p a : Nat) : List (Nat × Nat) :=
  let d := s.pkgRead a 256
  [(fld d 0x10 8, 64), (fld d 0x18 8, 64)] ++ ((s.namedShards p d).getD []).map fun x =>
    let e := s.dirAt x.1 x.2
    if fld d 0xC 4 / 2 % 2 = 1 then (e.at_ x.1 + e.gOff, 65536 * e.n) else (e.at_ x.1 + e.metaOff, 64 * e.n)

/-- UP.ISSUE (R178–R180, R244). -/
def needsUpIssue (i : Issue) (s : State) : Needs :=
  (needsEngine i (fun f => decide (f % 8 = 0)) s).holdReads s (s.issueStarts i 2) (s.upReads (s.issuerPart i) (descAt i s))

def execUpIssue (i : Issue) (s : State) : Host.Outcome State Fault Refusal :=
  issue i (needsUpIssue i s) (fun pc s =>
    let e : SbEntry := { stream := i.stream, reads := s.extRes (descAt i s, 256), writes := [], op := 0, cause := .peer }
    effEngine 2 (i.word.func.getLsbD 3) e i pc 0 (State.beginUp i.hw) s) s

/-- GUARD_REDUCE_COMPLETE: the partials of every rank are here, or the operation was refused: n2 is formed (R318), or the updates it guards end with
GUARD_REFUSED and start no further shard. -/
def execGuardReduceComplete (id : Nat) (s : State) : Host.Outcome State Fault Refusal :=
  match s.opOf id with
  | none => .next s
  | some o =>
    if o.kind ≠ 9 then .next s
    else
      let fed := s.ops.filter fun x => decide (x.guardId = some id)
      let gone := { s with ops := s.ops.filter fun x => decide (x.id ≠ id) }
      if o.ended.isSome then
        .next (fed.foldl (fun (s : State) u =>
          (s.modOp u.id fun x =>
            { x with guardId := none, code := max x.code 9
                     shards := x.shards.filter fun y => match (s.engineAt y.1).cur with | some c => decide (c.op = u.id ∧ c.dir = y.2) | none => false }).finishUp u.id) gone)
      else
        let vals := (List.range (o.counts.headD 0)).map fun r => o.contrib.find? fun c => decide (c.2.1 = r)
        if !vals.all Option.isSome then .next s
        else
          let n2 := fTree ((vals.filterMap fun x => x).map fun c => f32Of c.2.2 0)
          .next ((fed.foldl (fun (s : State) u => s.modOp u.id fun x => { x with guardId := none, n2 := some n2 }) gone).countClx o.part 0)

/-! ## Shards (R245) -/

/-- The update whose next shard on engine `e` is directory entry `i`. -/
def State.updateOf (s : State) (e i : Nat) : Option Op :=
  s.ops.find? fun o => decide (o.kind = 16) && match o.shards.find? (fun x => decide (x.1 = e)) with | some x => decide (x.2 = i) | none => false

/-- Keys of an engine crumb. -/
def DirEntry.keys (d : DirEntry) (detail : List (Nat × Cb)) : List (Nat × Cb) :=
  [(6, .u d.target.toNat), (7, .u d.part)] ++ detail ++ [(32, .u d.tensor.toNat), (33, .u d.shard.toNat), (34, .u d.pbase.toNat)]

/-- A digest exchange falls due when a shard reaches a version that is a multiple of D (R253). -/
def State.noteDue (s : State) (e i : Nat) : State :=
  let d := s.dirAt e i
  let D := (s.partAt d.part).dint.toNat
  if d.version ≠ 0 ∧ d.dgrp ≠ 0 ∧ D ≠ 0 ∧ d.version.toNat % D = 0 then s.modEngine e fun u => { u with due := u.due ++ [{ dir := i, version := d.version, digest := d.digest, part := d.part, dgrp := d.dgrp }] }
  else s

/-- The factor the guard gives: none to skip the step, or GSCALE (R240). -/
def guardFactor (r : List Byte) (n2 : Lane) : Option Lane :=
  if !isFinite n2 then none
  else if fLe n2 (rLimit r) then some one
  else if rScale r then some (fSqrt (fDiv (rLimit r) n2))
  else none

/-- The lines a slice update reads, and those it writes (R246). -/
def DirEntry.readLines (d : DirEntry) (e k : Nat) : List Nat :=
  lineAddrs (d.wAt e k) 32768 ++ lineAddrs (d.gAt e k) 65536 ++ lineAddrs (d.mAt e k) 16896 ++ lineAddrs (d.vAt e k) d.vSlice ++ lineAddrs (d.metaAt e k) 64
def DirEntry.writeLines (d : DirEntry) (e k : Nat) : List Nat :=
  lineAddrs (d.wAt e k) 32768 ++ lineAddrs (d.mAt e k) 16896 ++ lineAddrs (d.vAt e k) d.vSlice ++ lineAddrs (d.metaAt e k) 64 ++
    if d.crust then lineAddrs (d.crustAt e k) 32768 else []

/-- The lowest journal slot of an engine that neither a slice brew nor a record still to be written home holds (R225, R245). -/
def Upe.freeSlot (u : Upe) (c : ShardUpd) : Option Nat :=
  [0, 1, 2, 3].find? fun k => !(c.brews.any fun b => decide (b.slot = k)) && !(u.wbs.any fun w => decide (w.1 = k))

/-- The next slices of a shard in ascending order (R245 step 5): one whose META VERSION is TARGET is passed over and counted; of any other a brew opens, as
long as a slot is free and no line it reads is locked or held (R216). A META line that cannot be read stops the shard at that slice's commit. -/
def State.openSlices (hw : Hw) (e : Nat) : Nat → State → State
  | 0, s => s
  | fuel + 1, s =>
    match (s.engineAt e).cur with
    | none => s
    | some c =>
      let d := s.dirAt e c.dir
      let k := c.slice
      let next := fun (s : State) (bs : List SliceBrew) => s.modEngine e fun u => { u with cur := some { c with slice := k + 1, brews := bs } }
      if d.n ≤ k then s
      else
        let r := s.eccRead hw [d.metaAt e k]
        if r.2.isNone ∧ s.metaVersion d e k = d.target.toNat then State.openSlices hw e fuel (next (r.1.countUpe e 1) c.brews)
        else match (s.engineAt e).freeSlot c with
          | none => s
          | some j =>
            if (d.readLines e k).any (fun l => s.locked l || s.lineHeld l) then s
            else State.openSlices hw e fuel (next r.1 (c.brews ++ [{ slice := k, slot := j }]))

/-- Opens as many of the shard's slices as it can. -/
def State.goOn (s : State) (hw : Hw) (e : Nat) : State :=
  match (s.engineAt e).cur with
  | some c => s.openSlices hw e (s.dirAt e c.dir).n
  | none => s

/-- UPDATE_SHARD_START: with its guard settled and its pins at zero, the next shard of an update on this engine starts, is resumed, or is skipped
(R240, R245, R248, R257). -/
def execUpdateShardStart (die l i : Nat) (hw : Hw) (s : State) : Host.Outcome State Fault Refusal :=
  if nDies ≤ die ∨ 3 ≤ l then .fault (.noSuchUnit "engine" (3 * die + l))
  else
    let e := 3 * die + l
    match s.updateOf e i with
    | none => .next s
    | some o =>
      let d := s.dirAt e i
      let r := s.pkgRead (fld o.desc 0x10 8) 64
      let again := decide (d.state = .partial_)
      if (s.engineAt e).cur.isSome then .next s
      else if !s.served e then .next (s.dropShard o.id (e, i) 4)
      else if again then
        if d.rdig ≠ recipeDigest r then .next (s.dropShard o.id (e, i) 7)
        else
          .next (((s.modDir e i fun d => { d with state := .updating }).modEngine e fun u => { u with cur := some { dir := i, op := o.id, recipe := r, resumed := true } }).goOn hw e)
      else if !recipeOk r o.step.toNat || (o.bf16 && !rSparse r) then .next (s.dropShard o.id (e, i) 5)
      else if !layoutOk r d then .next (s.dropShard o.id (e, i) 6)
      else if !rSparse r && o.n2.isNone then .next s
      else if fld o.desc 0xC 4 % 2 = 0 ∧ d.pins ≠ 0 then .next (s.modDir e i fun d => { d with state := .waitpin })
      else
        let f : Option Lane := if rSparse r then some ((Config.freeWord s.freeCtr).setWidth 32) else guardFactor r (o.n2.getD canonF32)
        let s1 := if rSparse r then { s with freeCtr := s.freeCtr + 1 } else s
        match f with
        | none =>
          let s2 := (s1.modDir e i fun d =>
            { d with state := .idle, target := o.step, version := o.step, gscale := canonF32, rdig := recipeDigest r }).countUpe e 3
          .next ((s2.noteDue e i).dropShard o.id (e, i) 1)
        | some g =>
          let s2 := s1.modDir e i fun d => { d with state := .updating, target := o.step, gscale := g, rdig := recipeDigest r }
          let s3 := if !rSparse r && decide (g ≠ one) then s2.countUpe e 4 else s2
          .next ((s3.modEngine e fun u => { u with cur := some { dir := i, op := o.id, recipe := r } }).goOn hw e)

/-- A shard stops part-way at a slice (R247); its brews in flight leave no trace. -/
def State.stopShard (s : State) (e : Nat) (c : ShardUpd) (slice cause : Nat) : State :=
  let d := s.dirAt e c.dir
  let s1 := ((s.modDir e c.dir fun d => { d with state := .partial_ }).modEngine e fun u => { u with cur := none }).countUpe e 9
  (s1.errorEvent 1 0x0304 (uEngine e) (d.keys [(10, .u cause), (35, .u slice)])).dropShard c.op (e, c.dir) 4

/-- An engine slot of the journal (Table 09-4). -/
def Part.engineSlot (p : Part) (e k : Nat) : Nat := p.jregion + 0x0B600000 + 0x20000 * (4 * e + k % 4)

/-! ## Slice brews (R226, R245, R246) -/

/-- The owner of an engine's line locks. -/
def engineOwner (e : Nat) : Nat := nTiles + e

/-- Changes the slice brew in a slot. -/
def State.modBrew (s : State) (e slot : Nat) (f : SliceBrew → SliceBrew) : State :=
  s.modEngine e fun u => { u with cur := u.cur.map fun c => { c with brews := c.brews.map fun b => if b.slot = slot then f b else b } }

/-- A slice brew reaches its commit point: its lines are locked, its record stands in the journal with DONE 0, the slice's new state waits for its
write-back; counters and health events (R217, R226, R246, R252). -/
def State.commitSlice (s : State) (e : Nat) (c : ShardUpd) (b : SliceBrew) : State :=
  let d := s.dirAt e c.dir
  let k := b.slice
  let q := s.partAt d.part
  let y := s.newSlice d.part e d c.recipe k
  let old := s.metaLine d e k
  let line := metaBytes d.target.toNat (if d.crust then fld old 0 4 else fld old 4 4) (sliceDigest y.w y.m y.v) old
  let data := y.w ++ y.m ++ y.v ++ line ++ if d.crust then s.memRead (d.wAt e k) 32768 else []
  let lines := d.writeLines e k
  let serial := (Config.freeWord s.freeCtr).setWidth 32
  let slot := q.engineSlot e b.slot
  let s1 := s.pkgWrite none slot (commitWord serial 1 false ++ recordBody e 0 lines [] data)
  let s2 := { s1 with freeCtr := s1.freeCtr + 1, locks := s1.locks ++ lines.map fun l => (l, engineOwner e, b.slot) }
  let s3 := (((s2.countUpe e 0).countUpe e 5 y.clamped).countUpe e 6 y.zeroed).engineEvents d.part d.tensor.toNat d.target.toNat y.events
  let s4 := if d.crust then s3.modDir e c.dir fun d => { d with crustOk := false } else s3
  (s4.modEngine e fun u =>
    { u with
      cur := some { c with committed := c.committed + 1, brews := c.brews.filter fun x => decide (x.slot ≠ b.slot) }
      wbs := u.wbs ++ [(b.slot, { serial := serial, lines := lines, bytes := data, slot := slot })] }).modOp c.op fun o => { o with slices := o.slices + 1 }

/-- UPDATE_SLICE_COMMIT: the engine's slice brew in a journal slot commits, or spills with code 1 on a conflict or a lock, replays on a lockstep
disagreement (fencing the engine after two failed replays), or stops the shard on a line it cannot read (R226, R246, R247, R257). -/
def execUpdateSliceCommit (die l slot : Nat) (hw : Hw) (lockstep : Bool) (s : State) : Host.Outcome State Fault Refusal :=
  if nDies ≤ die ∨ 3 ≤ l then .fault (.noSuchUnit "engine" (3 * die + l))
  else
    let e := 3 * die + l
    match (s.engineAt e).cur with
    | none => .next s
    | some c =>
      match c.brews.find? fun b => decide (b.slot = slot) with
      | none => .next (s.goOn hw e)
      | some b =>
        let d := s.dirAt e c.dir
        let lines := d.writeLines e b.slice
        if b.spilled ∨ (d.readLines e b.slice ++ lines).any s.lineHeld then .next s
        else if !s.served e then .next (s.stopShard e c b.slice 4)
        else if !(s.partAt d.part).jvalid then .next (s.stopShard e c b.slice 2)
        else if b.conflict then .next (s.modBrew e slot fun b => { b with conflict := false, spilled := true })
        else
          let (s2, bad) := s.eccRead hw (d.readLines e b.slice)
          match bad with
          | some l => .next (s2.stopShard e c b.slice l)
          | none =>
            if lockstep then
              if b.replays < 2 then
                .next (((s2.countUpe e 8).modBrew e slot fun b => { b with replays := b.replays + 1 }).errorEvent 1 0x0305 (uEngine e) (d.keys [(35, .u b.slice)]))
              else
                let x := (s2.serverOf e).getD e
                let s4 := (s2.modEngine x fun u => { u with fenced := true }).reserve die
                .next ((s4.errorEvent 2 0x0306 (uEngine x) (d.keys [(35, .u b.slice)])).stopShard e c b.slice 3)
            else if lines.any s2.locked then .next (s2.modBrew e slot fun b => { b with spilled := true })
            else .next ((s2.commitSlice e c b).goOn hw e)

/-- ENGINE_BREW_RETRY: 1 µs after a code-1 spill the engine tries the slice again, once no line it reads is locked; after 16 retries the shard stops
(R216, R226, R247). -/
def execEngineBrewRetry (die l slot : Nat) (s : State) : Host.Outcome State Fault Refusal :=
  if nDies ≤ die ∨ 3 ≤ l then .fault (.noSuchUnit "engine" (3 * die + l))
  else
    let e := 3 * die + l
    match (s.engineAt e).cur with
    | none => .next s
    | some c =>
      match c.brews.find? fun b => decide (b.slot = slot) with
      | none => .next s
      | some b =>
        if !b.spilled || ((s.dirAt e c.dir).readLines e b.slice).any fun l => s.locked l || s.lineHeld l then .next s
        else if 16 ≤ b.retries then .next (s.stopShard e c b.slice 1)
        else .next ((s.countUpe e 7).modBrew e slot fun b => { b with spilled := false, retries := b.retries + 1 })

/-- An engine's record is written home: every line is written and unlocked, then DONE in the slot (R215, R226). -/
def State.engineHome (s : State) (e slot : Nat) : State :=
  match (s.engineAt e).wbs.find? fun w => decide (w.1 = slot) with
  | none => s
  | some w =>
    let s1 := (s.linesHome none w.2).unlockAs (engineOwner e) slot
    (s1.modEngine e fun u => { u with wbs := u.wbs.filter fun x => decide (x.1 ≠ slot) }).goOn {} e

/-- Updates whose shards have all ended and whose status word met a lock end now. -/
def State.finishWaiting (s : State) : State := (s.ops.filter fun o => decide (o.kind = 16) && o.shards.isEmpty).foldl (fun (s : State) o => s.finishUp o.id) s

/-- BREW_WRITEBACK_DONE: every staged line is written home and unlocked, and DONE is written in the slot (R215). -/
def execBrewWritebackDone (o : BrewOwner) (s : State) : Host.Outcome State Fault Refusal :=
  match o with
  | .tile n st => if nTiles ≤ n then .fault (.noSuchUnit "tile" n) else .next (s.tileHome n st).finishWaiting
  | .engine die l slot => if nDies ≤ die ∨ 3 ≤ l then .fault (.noSuchUnit "engine" (3 * die + l)) else .next (s.engineHome (3 * die + l) slot).finishWaiting

/-- Stops whatever shard an engine works on: at the lowest slice not committed yet. -/
def State.stopEngine (s : State) (e cause : Nat) : State :=
  match (s.engineAt e).cur with
  | some c => s.stopShard e c (c.brews.foldl (fun k b => min k b.slice) c.slice) cause
  | none => s

/-- CRUST_OK and CRUST_VER as the META lines have them: whether every slice's crust holds one version (R255). -/
def State.crustOf (s : State) (d : DirEntry) (e : Nat) : Bool × Nat :=
  let v := s.metaCrust d e 0
  (d.crust && (List.range d.n).all fun k => decide (s.metaCrust d e k = v), v)

/-- UPDATE_SHARD_COMPLETE: every slice is at TARGET and home; the digest is formed from the META lines, VERSION becomes TARGET, the shard is IDLE (R245 step 6). -/
def execUpdateShardComplete (die l : Nat) (hw : Hw) (s : State) : Host.Outcome State Fault Refusal :=
  if nDies ≤ die ∨ 3 ≤ l then .fault (.noSuchUnit "engine" (3 * die + l))
  else
    let e := 3 * die + l
    match (s.engineAt e).cur with
    | none => .next s
    | some c =>
      let d := s.dirAt e c.dir
      if c.slice < d.n ∨ !c.brews.isEmpty ∨ !(s.engineAt e).wbs.isEmpty then .next (s.goOn hw e)
      else
        let (s1, bad) := s.eccRead hw ((List.range d.n).map (d.metaAt e))
        match bad with
        | some l => .next (s1.stopShard e c ((l - d.metaAt e 0) / 64) l)
        | none =>
          let cr := s1.crustOf d e
          let s2 := s1.modDir e c.dir fun d =>
            { d with
              state := .idle, version := d.target, digest := s1.shardDigest d e, crustOk := cr.1
              crustVer := if cr.1 then BitVec.ofNat 32 cr.2 else d.crustVer }
          let s3 := ((s2.modEngine e fun u => { u with cur := none }).countUpe e 2).noteDue e c.dir
          let step := match s.opOf c.op with | some o => o.step | none => d.target
          let code := if c.resumed ∧ step ≠ d.target then 3 else if !rSparse c.recipe && decide (d.gscale ≠ one) then 2 else 0
          .next (s3.dropShard c.op (e, c.dir) code)

/-- Whether a directory entry's update waits for pins and has emitted no crumb for it yet. -/
def State.pinCrumbDue (s : State) (e : Nat) (x : Nat × DirEntry) : Bool :=
  decide (x.2.state = .waitpin ∧ x.2.pins ≠ 0) && match s.updateOf e x.1 with | some o => !(s.engineAt e).pinWaited.contains o.id | none => false

/-- PIN_WAIT: an update has waited over 1 s for pins: one crumb per update (R251). -/
def execPinWait (die l : Nat) (s : State) : Host.Outcome State Fault Refusal :=
  if nDies ≤ die ∨ 3 ≤ l then .fault (.noSuchUnit "engine" (3 * die + l))
  else
    let e := 3 * die + l
    match (s.engineAt e).dir.find? (s.pinCrumbDue e) with
    | none => .next s
    | some x =>
      match s.updateOf e x.1 with
      | none => .next s
      | some o =>
          .next (((s.modEngine e fun u => { u with pinWaited := u.pinWaited ++ [o.id] }).countUpe e 10).crumbOut 0 0x0302 (uEngine e)
            (x.2.keys [(10, .u x.2.pins.toNat)]))

/-! ## The digest exchange (R253) -/

/-- CHAIN at the close of step v − 1; none until that step has closed and its decision is taken. -/
def Part.chainBefore (p : Part) (v : Nat) : Option Word :=
  match p.s0 with
  | none => some p.chain
  | some f =>
    if v ≤ f then some 0
    else match Map.get ((0, false) : Word × Bool) p.chainAt (v - 1) with
      | (c, true) => some c
      | _ => none

/-- DIGEST_EXCHANGE: after the close of step v − 1 the engine hands the record of a shard that reached v to the collectives engine, which exchanges it
in the shard's replica group. -/
def execDigestExchange (die l i : Nat) (s : State) : Host.Outcome State Fault Refusal :=
  if nDies ≤ die ∨ 3 ≤ l then .fault (.noSuchUnit "engine" (3 * die + l))
  else
    let e := 3 * die + l
    match (s.engineAt e).due.find? fun x => decide (x.dir = i) with
    | none => .next s
    | some x =>
      let q := s.partAt x.part
      if !s.mayStart x.part then .next s
      else match q.cuts x.dgrp.toNat, q.chainBefore x.version.toNat with
      | some _, some ch =>
        let rec_ := natLe 4 x.version.toNat ++ natLe 8 x.digest.toNat ++ natLe 8 ch.toNat
        let s1 := s.modEngine e fun u => { u with due := u.due.filter fun y => decide (y ≠ x) }
        .next (s1.engineOp { id := 0, kind := 11, part := x.part, step := x.version, group := x.dgrp.toNat, dir := (e, i) } rec_)
      | _, _ => .next s

end Sys2Proof.Machine
end

