-- ==== Sys2Proof/Machine/D2dLink.lean ====
section
/-! DEFINITION. Hyirdan modules and links (R412–R420): frames in sequence, go-back-N, retraining and repair, degraded links. Modules 0–15 of a die are its
IOD link, 16–23 its neighbour link. -/

namespace Sys2Proof.Machine

/-- Ticks of one millisecond. -/
def msTicks : Nat := 100000

/-- The ticks of the last millisecond, and now (R415, R416). -/
def recent (now : Word) (ts : List Word) : List Word := (ts.filter fun t => decide ((now - t).toNat < msTicks)) ++ [now]

/-- A cumulative acknowledgement: held frames up to and including `ack` leave the replay buffer, delivered (R415). -/
def D2d.acked (m : D2d) (ack : Nat) : D2d :=
  let left := m.replay.filter fun f => decide (ack < f.modSeq)
  { m with replay := left, txAck := max m.txAck (if left.length < m.replay.length then ack + 1 else m.txAck), frames := m.frames + BitVec.ofNat 64 (m.replay.length - left.length) }

/-- Delivers the frames of a link that stand next in their streams (R414). -/
def deliverStreams (die k : Nat) (s : State) : Nat → State
  | 0 => s
  | fuel + 1 =>
    let i := 2 * die + linkOf k
    let l := s.dlinkAt i
    match l.waiting.find? fun f => decide (f.streamSeq = Map.get 0 l.next f.stream) with
    | none => s
    | some f =>
      deliverStreams die k ((s.setDlink i { next := Map.upd 0 l.next f.stream (· + 1), waiting := l.waiting.erase f }).emit (.frame die k f)) fuel

/-- Unacknowledged frames of a module that leaves service are resent on the remaining modules of its link, in ascending module order (R418). -/
def State.remap (s : State) (die k : Nat) : State :=
  let m := s.moduleAt (24 * die + k)
  let left := (s.linkServing die (linkOf k)).filter fun j => decide (j ≠ k)
  match left with
  | [] => s
  | j0 :: _ =>
    let fs := (List.range m.replay.length).zip m.replay
    fs.foldl (fun (s : State) x =>
      let j := left.getD (x.1 % left.length) j0
      let n := s.moduleAt (24 * die + j)
      let f : Frame := { x.2 with modSeq := n.txAck + n.replay.length }
      (s.setModule (24 * die + j) { n with replay := n.replay ++ [f] }).emit (.frame die j f)) (s.setModule (24 * die + k) { m with replay := [] })

/-! ## Fencing -/

/-- A copy in flight with a line on a stack of the die ends with MEM_UNCORR (R419, R157). -/
def State.failDieCopies (s : State) (die : Nat) : State :=
  let hits := s.tile.flatMap fun t => t.2.copyQ.filterMap fun c =>
    (c.lines.find? fun a => match s.lineOf a with | some l => decide (stackOf l / 3 = die) | none => false).map fun a => (t.1, c.id, a)
  hits.foldl (fun (s : State) x => s.failCopy x.1 x.2.1 0x22 (BitVec.ofNat 64 x.2.2) (hwSyndrome 0x22)) s

/-- An engine of a die that is lost: fenced, and its update in progress ends PARTIAL. -/
def State.loseEngine (s : State) (e : Nat) : State :=
  ((s.stopEngine e 4).modEngine e fun u => { u with fenced := true }).reserve (e / 3)

/-- A compute die is held in reset while the package runs (R419, Table 01-8): its tiles, stacks, engines and links are lost. -/
def State.loseDie (s : State) (die : Nat) : State :=
  let s1 := s.modDie die fun d => { d with heldReset := true }
  let s2 := (List.range 144).foldl (fun (s : State) k =>
    match s.physOf (144 * die + k) with
    | some m => s.loseTile (144 * die + k) m
    | none => s) s1
  let s3 := s2.failDieCopies die
  [0, 1, 2].foldl (fun (s : State) l => (s.loseEngine (3 * die + l)).modStack (3 * die + l) Stack.fence) s3

/-- A fifth module of a link becomes degraded (R419). -/
def State.linkLimit (s : State) (die j before : Nat) : State :=
  if 5 ≤ before ∨ s.linkDegraded die j < 5 then s
  else if j = 0 then (s.errorEvent 2 0x0906 (uDie die) []).loseDie die
  else
    let o := neighbour die
    ((s.modDie die fun d => { d with nbrFenced := true }).modDie o fun d => { d with nbrFenced := true }).errorEvent 2 0x0905 (uLink die 1 0) []

/-! ## Commands -/

/-- Whether a die and module index name a module, whose link runs. -/
def noModule (die k : Nat) : Option Fault :=
  if nDies ≤ die then some (.noSuchUnit "die" die) else if 24 ≤ k then some (.noSuchUnit "module" k) else none

/-- D2D_FRAME_RECEIVE (R414, R415): accepted when its CRC matches and its module sequence is the next; any other frame is NAKed. The sixteenth CRC failure
within 1 ms sends the module to retraining (R416). -/
def execD2dFrameReceive (die k : Nat) (f : Frame) (s : State) : Host.Outcome State Fault Refusal :=
  match noModule die k with
  | some e => .fault e
  | none =>
    let i := 24 * die + k
    let m := s.moduleAt i
    if !m.carries || (s.dieAt die).heldReset then .next s
    else if f.crcOk && decide (f.modSeq = m.rxNext) then
      let s1 := s.setModule i { (m.acked f.ack) with rxNext := m.rxNext + 1, frames := (m.acked f.ack).frames + 1 }
      let j := 2 * die + linkOf k
      let l := s1.dlinkAt j
      .next (deliverStreams die k (s1.setDlink j { l with waiting := l.waiting ++ [f] }) (l.waiting.length + 1))
    else
      let at_ := if f.crcOk then m.crcAt else recent s.refTick m.crcAt
      let train := decide (16 ≤ at_.length)
      let s1 := (s.setModule i { m with crcFail := if f.crcOk then m.crcFail else satAdd max48 m.crcFail, crcAt := if train then [] else at_, retraining := train }).emit (.d2dNak die k m.rxNext)
      .next (if train then s1.remap die k else s1)

/-- D2D_NAK_RECEIVE: the transmitter goes back to the frame after the last acknowledged one and sends every later frame again (R415); `ack` is the sequence
the receiver expects. -/
def execD2dNakReceive (die k ack : Nat) (s : State) : Host.Outcome State Fault Refusal :=
  match noModule die k with
  | some e => .fault e
  | none =>
    let i := 24 * die + k
    let m := s.moduleAt i
    if !m.carries || (s.dieAt die).heldReset then .next s
    else
      let m1 := if ack = 0 then m else m.acked (ack - 1)
      let at_ := recent s.refTick m.retryAt
      let burst := decide (64 < at_.length)
      let s1 := s.setModule i { m1 with retry := satAdd max48 m1.retry, crcFail := satAdd max48 m1.crcFail, retryAt := if burst then [] else at_ }
      let s2 := m1.replay.foldl (fun (s : State) f => s.emit (.frame die k f)) s1
      .next (if burst then s2.errorEvent 1 0x0901 (uLink die (linkOf k) k) [] else s2)

/-- The lanes of a half (R417). -/
def inHalf (half : Bool) (ls : List Nat) : Nat := (ls.filter fun l => decide (l < 64) && (decide (32 ≤ l) == half)).length

/-- The settings a training leaves for its failing lanes (R416, R417). -/
def D2d.trained (m : D2d) (txFail rxFail : List Nat) : D2d :=
  let t := txFail.length
  let r := rxFail.length
  let m := { m with retraining := false, retrains := satAdd 65535 m.retrains, crcAt := [] }
  if t ≤ 4 ∧ r ≤ 4 then { m with x32 := false, half := false, txRepair := t, rxRepair := r }
  else
    let h := decide (inHalf true txFail + inHalf true rxFail < inHalf false txFail + inHalf false rxFail)
    let a := inHalf h txFail
    let b := inHalf h rxFail
    if a ≤ 4 ∧ b ≤ 4 then { m with x32 := true, half := h, txRepair := a, rxRepair := b } else { m with retired := true }

/-- D2D_RETRAIN: a running module retrains; `txFail` and `rxFail` are the lanes that fail at its training (R416–R419). -/
def execD2dRetrain (die k : Nat) (txFail rxFail : List Nat) (s : State) : Host.Outcome State Fault Refusal :=
  match noModule die k with
  | some e => .fault e
  | none =>
    let i := 24 * die + k
    let m := s.moduleAt i
    if m.retired || m.off || (s.dieAt die).heldReset then .next s
    else
      let before := s.linkDegraded die (linkOf k)
      let n := m.trained txFail rxFail
      let u := uLink die (linkOf k) k
      let s0 := if m.retraining then s else s.remap die k
      let s1 := s0.setModule i { n with replay := (s0.moduleAt i).replay }
      let s2 := if !n.retired && (decide (m.txRepair < n.txRepair) || decide (m.rxRepair < n.rxRepair)) then s1.errorEvent 1 0x0902 u [] else s1
      let s3 := if n.x32 && !m.x32 && !n.retired then s2.errorEvent 1 0x0903 u [] else s2
      let s4 := if n.retired then s3.errorEvent 2 0x0904 u [] else s3
      .next (s4.linkLimit die (linkOf k) before)

end Sys2Proof.Machine
end

