-- ==== Sys2Proof/Machine/Cl.lean ====
section
/-! DEFINITION. CL.ISSUE and the collectives of Table 12-5: descriptors, contributions, results, KNEAD, completion, lost messages, divergence. -/

namespace Sys2Proof.Machine

/-! ## Descriptors (Table 12-6) -/

def clDshard (d : List Byte) : Bool := (d.getD 5 0).getLsbD 3
def clTensor (d : List Byte) : Nat := fld d 8 4
/-- Position of element 0 of the full vector in its tensor (R310). -/
def clBase (d : List Byte) : Nat := fld d 0x18 4 * 16384
/-- Whether an operation reduces. -/
def reduces (kind : Nat) : Bool := decide (kind ≤ 1)

/-- Entries of the count array. -/
def clEntries (kind n : Nat) : Nat := if kind = 1 ∨ kind = 2 then n else if kind = 3 then n * n else 0

/-- The counts of an operation: from COUNTS, or uniform (R309). -/
def State.clCounts (s : State) (kind n : Nat) (d : List Byte) : List Nat :=
  let k := clEntries kind n
  if k = 0 then [fld d 0x10 8]
  else if fld d 0x20 8 = 0 then List.replicate k (fld d 0x10 8)
  else (List.range k).map fun i => leNat (s.pkgRead (fld d 0x20 8 + 8 * i) 8)

def sumTo (c : List Nat) (k : Nat) : Nat := (c.take k).foldl (· + ·) 0
def sumAll (c : List Nat) : Nat := c.foldl (· + ·) 0
/-- c_{r,q} of an all-to-all. -/
def cell (c : List Nat) (n r q : Nat) : Nat := c.getD (r * n + q) 0

/-- Elements rank `r`'s source vector has, and its result vector (Table 12-5). -/
def sourceLen (kind n root r : Nat) (c : List Nat) : Nat :=
  match kind with
  | 0 => c.getD 0 0
  | 1 => sumAll c
  | 2 => c.getD r 0
  | 3 => sumAll ((List.range n).map fun q => cell c n r q)
  | _ => if r = root then c.getD 0 0 else 0

def resultLen (kind n r : Nat) (c : List Nat) : Nat :=
  match kind with
  | 0 => c.getD 0 0
  | 1 => c.getD r 0
  | 2 => sumAll c
  | 3 => sumAll ((List.range n).map fun q => cell c n q r)
  | _ => c.getD 0 0

/-- What rank `r` contributes to rank `q`: first element of its source, number of elements, OFFSET. -/
def contribution (kind n root r q : Nat) (c : List Nat) : Nat × Nat × Nat :=
  match kind with
  | 0 => (0, c.getD 0 0, 0)
  | 1 => (sumTo c q, c.getD q 0, sumTo c q)
  | 2 => (0, c.getD r 0, sumTo c r)
  | 3 => (sumAll ((List.range q).map fun x => cell c n r x), cell c n r q, sumAll ((List.range r).map fun x => cell c n x q))
  | _ => if r = root then (0, c.getD 0 0, 0) else (0, 0, 0)

/-- The byte ranges of a vector of `k` elements at `base` (R308). -/
def vecRanges (base f k : Nat) : List (Nat × Nat) :=
  if k = 0 then []
  else (List.range ((k + 16383) / 16384)).flatMap fun j =>
    let n := min 16384 (k - 16384 * j)
    (base + j * frameBytes f, (n * fmtWidth f + 7) / 8) :: if scaled f then [(base + j * frameBytes f + framePlane f, 4 * ((n + 127) / 128))] else []

def State.outsideAny (s : State) (p : Nat) (rs : List (Nat × Nat)) : Bool := rs.any fun r => (s.outside p r.1 r.2).isSome

/-- The format codes a collective takes. -/
def clFmtOk (f : Nat) : Bool := decide (f ≤ 10 ∨ f = 12)

/-- The shards a DSHARD delivery goes to; none where one is undefined. -/
def State.clShards (s : State) (p : Nat) (d : List Byte) : Option (List (Nat × Nat)) :=
  let l := (List.range (fld d 0x38 4)).map fun i => s.findShard p (clTensor d) (fld d 0x1C 4 + i)
  if l.all Option.isSome then some (l.filterMap id) else none

/-! ## KNEAD move lists (Table 12-10) -/

structure Move where
  srank : Nat
  drank : Nat
  n     : Nat
  saddr : Nat
  daddr : Nat
  shard : Bool
  sent  : Nat
  dent  : Nat
  ok    : Bool

def moveOf (b : List Byte) : Move :=
  { srank := fld b 0 2, drank := fld b 2 2, n := fld b 4 4, saddr := fld b 8 8, daddr := fld b 0x10 8, shard := (b.getD 0x18 0).getLsbD 0
    sent := fld b 0x1A 2, dent := fld b 0x1C 2
    ok := decide (fld b 0x18 1 < 2 ∧ fld b 0x19 1 = 0 ∧ fld b 0x1E 2 = 0 ∧ 1 ≤ fld b 4 4 ∧ fld b 4 4 ≤ 2 ^ 24 ∧ fld b 8 8 % 65536 = 0 ∧ fld b 0x10 8 % 65536 = 0) }

/-- An entry's engine and index (SENT, DENT). -/
def entEngine (x : Nat) : Nat := 3 * bits x 15 14 + bits x 13 12
def entOk (x : Nat) : Bool := decide (bits x 13 12 < 3)
def entIndex (x : Nat) : Nat := bits x 11 0

def chunk : Nat := 65536
def Move.sources (m : Move) : List (Nat × Nat) := (List.range m.n).map fun k => (m.srank, m.saddr + chunk * k)
def Move.dests (m : Move) : List (Nat × Nat) := (List.range m.n).map fun k => (m.drank, m.daddr + chunk * k)

/-- The moves of an operation's descriptor and list. -/
def movesOf (d : List Byte) : List Move := (List.range (fld d 0x48 4)).map fun i => moveOf (slice d (256 + 32 * i) 32)

def repeats (xs : List (Nat × Nat)) : Bool := xs.length != xs.eraseDups.length

/-- Whether a run overlaps a defined shard block of this package. -/
def State.overShard (s : State) (a len : Nat) : Bool :=
  s.upe.any fun u => u.2.dir.any fun x =>
    x.2.valid && ((pieces a len).any fun y =>
      match place s.pkg y.1 with
      | .mem b => decide (b < x.2.at_ u.1 + x.2.blockSize ∧ x.2.at_ u.1 < b + y.2)
      | _ => false)

/-- Refusals of a move list (R320), each package judging the chunks it holds (log 21). -/
def State.movesBad (s : State) (p n own : Nat) (ms : List Move) : Bool :=
  ms.any (fun m => !m.ok || decide (n ≤ m.srank ∨ n ≤ m.drank)) || repeats (ms.flatMap Move.sources) || repeats (ms.flatMap Move.dests) ||
    ms.any fun m =>
      let src := decide (m.srank = own)
      let dst := decide (m.drank = own)
      (src && (s.outside p m.saddr (chunk * m.n)).isSome) || (dst && (s.outside p m.daddr (chunk * m.n)).isSome) ||
      (!m.shard && ((src && s.overShard m.saddr (chunk * m.n)) || (dst && s.overShard m.daddr (chunk * m.n)))) ||
      (m.shard && src &&
        (let e := s.dirAt (entEngine m.sent) (entIndex m.sent)
         !entOk m.sent || !e.valid || decide (e.part ≠ p ∨ e.state ≠ .idle ∨ e.pins ≠ 0) ||
           !decide (m.saddr ≤ e.at_ (entEngine m.sent) ∧ e.at_ (entEngine m.sent) + e.blockSize ≤ m.saddr + chunk * m.n))) ||
      (m.shard && dst &&
        (!entOk m.dent || (s.dirAt (entEngine m.dent) (entIndex m.dent)).valid ||
          !decide (entEngine m.dent * stackBytes ≤ m.daddr ∧ m.daddr + chunk * m.n ≤ (entEngine m.dent + 1) * stackBytes)))

/-! ## Validation -/

/-- The lowest refused field of a collective descriptor (DESC_INVALID). -/
def State.clBad (s : State) (p kind : Nat) (d : List Byte) : Option Nat :=
  let q := s.partAt p
  match q.cuts (fld d 0 2) with
  | none => some 0
  | some cuts =>
    let n := q.groupSize cuts
    let own := q.groupRank cuts
    let k := clEntries kind n
    let arr := fld d 0x20 8
    let knead := decide (kind = 5)
    let arrBad := decide (kind = 0 ∧ arr ≠ 0) || (decide (k ≠ 0 ∧ arr ≠ 0) && (decide (arr % 8 ≠ 0) || (s.outside p arr (8 * k)).isSome))
    let c := if arrBad then [] else s.clCounts kind n d
    let ds := clDshard d
    let total := match s.clShards p d with | some l => (l.foldl (fun t x => t + (s.dirAt x.1 x.2).n) 0) | none => 0
    let short := !knead && ds && decide (c.getD own 0 ≠ 16384 * total)
    let moves := (List.range (fld d 0x48 4)).map fun i => moveOf (s.pkgRead (fld d 0x40 8 + 32 * i) 32)
    let bad : List (Nat × Bool) :=
      [(0x02, !knead && !clFmtOk (fld d 2 1)), (0x03, !knead && (!clFmtOk (fld d 3 1) || (ds && decide (fld d 3 1 ≠ 0)))),
       (0x04, decide (2 < fld d 4 1)), (0x05, decide (16 ≤ fld d 5 1 ∨ fld d 5 1 % 4 = 3) || (ds && decide (kind ≠ 1))), (0x06, decide (fld d 6 2 ≠ 0)),
       (0x08, decide (2 ^ 20 ≤ fld d 8 4)), (0x0C, decide (kind = 4 ∧ n ≤ fld d 0xC 4)),
       (0x10, !knead && (decide (2 ^ 32 < fld d 0x10 8) || (short && decide (arr = 0)))),
       (0x1C, ds && decide (1 ≤ fld d 0x38 4 ∧ fld d 0x38 4 ≤ 4096) && (s.clShards p d).isNone),
       (0x20, !knead && (arrBad || c.any (fun x => decide (2 ^ 32 < x)) || (short && decide (arr ≠ 0)))),
       (0x28, !knead && s.outsideAny p (vecRanges (fld d 0x28 8) (fld d 2 1) (sourceLen kind n (fld d 0xC 4) own c))),
       (0x30, !knead && !ds &&
          (s.outsideAny p (vecRanges (fld d 0x30 8) (fld d 3 1) (resultLen kind n own c)) ||
           (s.firstProt p (vecRanges (fld d 0x30 8) (fld d 3 1) (resultLen kind n own c))).isSome)),
       (0x38, ds && !decide (1 ≤ fld d 0x38 4 ∧ fld d 0x38 4 ≤ 4096)), (0x3C, decide (fld d 0x3C 4 ≠ 0)),
       (0x40, knead && decide (1 ≤ fld d 0x48 4 ∧ fld d 0x48 4 ≤ 65536) &&
          ((s.outside p (fld d 0x40 8) (32 * fld d 0x48 4)).isSome || s.movesBad p n own moves)),
       (0x48, knead && !decide (1 ≤ fld d 0x48 4 ∧ fld d 0x48 4 ≤ 65536)),
       (0x4C, knead && (decide (fld d 0x4C 2 % 256 ≠ 0) || decide (lsSize < 256 * fld d 0x4C 2 + chunk))),
       (0x4E, !((slice d 0x4E 170).all fun b => b == 0))]
    (bad.find? (·.2)).map (·.1)

/-- SHAPE: bytes 0x00 to 0x1F, the count array, a KNEAD's move list (Table 12-6). -/
def clShape (d : List Byte) (arr : List Nat) : BitVec 32 := crc32c (slice d 0 32 ++ arr.flatMap (natLe 8) ++ d.drop 256)

/-! ## Contributions -/

/-- Whether the reduction carry is BF16 (R112, Table 12-6). -/
def State.clCarry (s : State) (p kind : Nat) (step : BitVec 32) (d : List Byte) : Bool :=
  reduces kind && (decide (fld d 4 1 = 1) || (decide (fld d 4 1 = 2) && (s.partAt p).autoCarry (clTensor d) step.toNat))

/-- The source and result formats in force (R311). -/
def State.clFmt (s : State) (o : Op) (off : Nat) : Nat := (s.resolveFmt o.part (clTensor o.desc) o.step (fld o.desc off 1)).1

/-- The carry's code. -/
def Op.carry (o : Op) : Nat := if o.bf16 then 1 else 0

/-- The source elements as they are sent: converted into the carry for a reduction (R310 step 1), otherwise as they stand; with their events. -/
def State.clSource (s : State) (o : Op) (len : Nat) : List (Nat × Nat) × List (List Nat) :=
  let sf := s.clFmt o 2
  let xs := (List.range len).map fun k => s.vecElem (fld o.desc 0x28 8) (fld o.desc 2 1) sf k
  if reduces o.kind then
    let vs := xs.map (pairVal sf)
    let md := if o.bf16 then Rnd.sr else Rnd.rne
    let cv := convVector o.carry md false (fun k => s.srAt o.part (clTensor o.desc) o.step 4 0 (clBase o.desc + k)) 0 vs
    (cv.1, vectorEvents (s.partAt o.part).histBase false vs cv.2)
  else (xs, [])

/-- The format elements have in this operation's messages. -/
def State.clWire (s : State) (o : Op) : Nat := if reduces o.kind then o.carry else s.clFmt o 2

/-- Lines of the source that cannot be read are substituted (R326): each is poisoned, counted and reported. -/
def State.clPoison (s : State) (o : Op) (hw : Hw) (source : List (Nat × Nat)) : State :=
  let lines := s.linesOf source
  let s0 := (lines.filter hw.memCorr.contains).foldl State.lineCorrected s
  (lines.filter fun l => hw.memUncorr.contains l || s.poisoned l).foldl (fun (s : State) l =>
    ((s.spoil l).countClx o.part 6).errorEvent 1 0x0503 (uPart o.part)
      (s.partKeys o.part ++ [(10, .u l)])) s0

/-- This package's contributions go to every member; its own stays (R309). -/
def State.clSend (s : State) (o : Op) (hw : Hw) : State :=
  let root := fld o.desc 0xC 4
  let len := sourceLen o.kind o.size root o.rank o.counts
  let s1 := s.clPoison o hw (vecRanges (fld o.desc 0x28 8) (fld o.desc 2 1) len)
  let (xs, ev) := s1.clSource o len
  let f := s1.clWire o
  let seg := fun (q : Nat) =>
    let c := contribution o.kind o.size root o.rank q o.counts
    (c.2.2, ((xs.drop c.1).take c.2.1).flatMap (encodePair f))
  let s2 := s1.engineEvents o.part (clTensor o.desc) o.step.toNat ev
  let own := seg o.rank
  let s3 := if own.2.isEmpty then s2 else s2.modOp o.id fun x => { x with contrib := x.contrib ++ [(o.rank, own.1, own.2)], lasts := x.lasts ++ [o.rank] }
  o.peers.foldl (fun (s : State) q => let d := seg q; if d.2.isEmpty then s else s.sendData o q d.1 (msgElemBytes f) d.2) s3

/-! ## KNEAD: sending and the spare -/

/-- OFFSET of chunk `k` of move `m` (log 9). -/
def chunkOff (m k : Nat) : Nat := m * 2 ^ 25 + k

/-- A directory entry's 64 bytes, as a SHARD move carries it (Table 10-3). -/
def DirEntry.bytes (d : DirEntry) : List Byte :=
  let w0 := b2n d.valid * 2 ^ 63 + d.part % 8 * 2 ^ 60 + d.kind.toNat * 2 ^ 58 + b2n d.crust * 2 ^ 57 + d.state.code * 2 ^ 54 + d.vfmt.toNat * 2 ^ 52 +
    b2n d.mfmt * 2 ^ 51 + b2n d.crustOk * 2 ^ 50 + d.base.toNat
  natLe 8 w0 ++ natLe 8 (d.shard.toNat * 2 ^ 32 + d.tensor.toNat) ++ natLe 8 (d.slice0.toNat * 2 ^ 32 + d.nslice.toNat) ++
    natLe 8 (d.version.toNat * 2 ^ 32 + d.target.toNat) ++ natLe 8 (d.pins.toNat * 2 ^ 48 + d.dgrp.toNat * 2 ^ 32 + d.crustVer.toNat) ++
    natLe 8 d.digest.toNat ++ natLe 8 (d.gscale.toNat * 2 ^ 32 + d.rdig.toNat) ++ natLe 8 d.pbase.toNat

/-- The entry a destination takes over (R322): every field but BASE, PART, STATE. -/
def entryOf (b : List Byte) (p base : Nat) : DirEntry :=
  let w (i : Nat) : Nat := fld b (8 * i) 8
  { valid := true, part := p, kind := BitVec.ofNat 2 (bits (w 0) 59 58), crust := decide (bits (w 0) 57 57 = 1), state := .idle
    vfmt := BitVec.ofNat 2 (bits (w 0) 53 52), mfmt := decide (bits (w 0) 51 51 = 1), crustOk := decide (bits (w 0) 50 50 = 1), base := BitVec.ofNat 37 base
    shard := BitVec.ofNat 32 (bits (w 1) 63 32), tensor := BitVec.ofNat 20 (w 1), slice0 := BitVec.ofNat 32 (bits (w 2) 63 32), nslice := BitVec.ofNat 24 (w 2)
    version := BitVec.ofNat 32 (bits (w 3) 63 32), target := BitVec.ofNat 32 (w 3), pins := BitVec.ofNat 16 (bits (w 4) 63 48)
    dgrp := BitVec.ofNat 16 (bits (w 4) 47 32), crustVer := BitVec.ofNat 32 (w 4), digest := BitVec.ofNat 64 (w 5), gscale := BitVec.ofNat 32 (bits (w 6) 63 32)
    rdig := BitVec.ofNat 32 (w 6), pbase := BitVec.ofNat 47 (w 7) }

/-- The bytes that stand for an uncorrectable line of a KNEAD source: the canonical NaN of SFMT in every element (R326); a chunk has no block scale, so for an
MX format they are free (log 105). -/
def State.kneadLine (s : State) (f l : Nat) : List Byte :=
  if clFmtOk f && !isMx f then (List.replicate (512 / fmtWidth f) (natLe (fmtWidth f / 8) (canonNan f))).flatten
  else (List.range 64).map fun k => Config.freeByte (s.freeCtr + l + k)

/-- A chunk as it is sent: its content, uncorrectable lines substituted (R326). -/
def State.kneadChunk (s : State) (f a : Nat) : List Byte :=
  if (s.linesOf [(a, chunk)]).any s.poisoned then
    (List.range (chunk / 64)).flatMap fun j => if s.poisonAt (a + 64 * j) then s.kneadLine f (a + 64 * j) else s.pkgRead (a + 64 * j) 64
  else s.pkgRead a chunk

/-- The chunks of a move as messages: OFFSET and data, the entry after the last chunk of a SHARD move. -/
def State.moveData (s : State) (f i : Nat) (m : Move) : List (Nat × List Byte) :=
  (List.range m.n).map fun k =>
    (chunkOff i k, s.kneadChunk f (m.saddr + chunk * k) ++
      if m.shard && decide (k + 1 = m.n) then (s.dirAt (entEngine m.sent) (entIndex m.sent)).bytes else [])

def indexed {α : Type} (xs : List α) : List (Nat × α) := (List.range xs.length).zip xs

/-- Every chunk this package is the source of goes to its destination, as it stood before the KNEAD (R321). -/
def State.kneadSend (s : State) (o : Op) : State :=
  let ms := indexed (movesOf o.desc)
  let dest := fun (q : Nat) => (ms.filter fun x => decide (x.2.srank = o.rank ∧ x.2.drank = q)).flatMap fun x => s.moveData (s.clFmt o 2) x.1 x.2
  let own := dest o.rank
  let s1 := if own.isEmpty then s else s.modOp o.id fun x => { x with contrib := x.contrib ++ own.map fun c => (o.rank, c.1, c.2), lasts := x.lasts ++ [o.rank] }
  o.peers.foldl (fun (s : State) q =>
    let cs := dest q
    (indexed cs).foldl (fun (s : State) x => s.collSend o.part (s.opCuts o) q (o.message (decide (x.1 + 1 = cs.length)) x.2.1 x.2.2)) s) s1

/-- Follows a chunk along the moves; whether it comes back, all chunks met being at least the first. -/
def cycleFrom (es : List ((Nat × Nat) × (Nat × Nat))) (c : Nat × Nat) : Nat → (Nat × Nat) → Bool
  | 0, _ => false
  | fuel + 1, x =>
    match es.find? fun e => decide (e.1 = x) with
    | none => false
    | some e => if e.2 = c then true else if e.2.1 < c.1 ∨ (e.2.1 = c.1 ∧ e.2.2 < c.2) then false else cycleFrom es c fuel e.2

/-- Whether the spare a KNEAD uses is held on a tile: by a pour past its lock phase (R215), a check failure's reservation (R58), or a migration (R31). -/
def State.spareHeld (s : State) (d : List Byte) (n : Nat) : Bool :=
  (s.tileAt n).holdsDelivery none [(256 * fld d 0x4C 2, chunk)] || (s.tmapAt n).migrating

/-- The chunks of this package that open a cycle (R321): copied into the spare of a tile of the issuing loaf, which one the spec leaves open, among those
whose spare is not held. -/
def State.kneadSpares (s : State) (o : Op) : State :=
  let ms := movesOf o.desc
  let es := ms.flatMap fun m => m.sources.zip m.dests
  let heads := (es.filter fun e => decide (e.1.1 = o.rank) && cycleFrom es e.1 es.length e.1).map fun e => e.1.2
  let tiles := (o.joiners.map fun j => j.tile).filter fun n => !s.spareHeld o.desc n
  heads.foldl (fun (s : State) a =>
    match tiles[(Config.freeByte s.freeCtr).toNat % max 1 tiles.length]? with
    | some n => { (s.modTile n fun t => t.lsDeliver (256 * fld o.desc 0x4C 2) (s.kneadChunk (s.clFmt o 2) a)) with freeCtr := s.freeCtr + 1 }
    | none => s) s

/-- The runs this package is the source of. -/
def Op.kneadSource (o : Op) : List (Nat × Nat) := ((movesOf o.desc).filter fun m => decide (m.srank = o.rank)).map fun m => (m.saddr, chunk * m.n)

/-- The spares are filled and the chunks sent; the free bytes of lines substituted lie at package addresses below 2⁴⁴ above the counter. -/
def State.kneadBegin (s : State) (o : Op) : State :=
  let s1 := (s.kneadSpares o).kneadSend o
  { s1 with freeCtr := s1.freeCtr + 2 ^ 44 }

/-! ## Issue -/

/-- The operation starts: descriptor checked, contributions sent, messages that were waiting taken in. -/
def State.beginCl (w : IWord) (hw : Hw) (b : Begin) (s : State) : State :=
  let kind := w.func.toNat % 8
  let a := (b.joiners.headD { tile := 0, rank := 0, pc := 0, addr := 0, sigen := false, k := 0 }).addr
  let d := s.pkgRead a 256
  match s.clBad b.part kind d with
  | some off => s.descInvalid b.joiners b.stream b.id off
  | none =>
    let q := s.partAt b.part
    let g := fld d 0 2
    let cuts := (q.cuts g).getD 0
    let n := q.groupSize cuts
    let own := q.groupRank cuts
    let desc := if kind = 5 then d ++ s.pkgRead (fld d 0x40 8) (32 * fld d 0x48 4) else d
    let c := if kind = 5 then [] else s.clCounts kind n d
    let arr := if fld d 0x20 8 ≠ 0 ∧ clEntries kind n ≠ 0 then c else []
    let root := fld d 0xC 4
    let o : Op :=
      { id := b.id, kind := kind, part := b.part, stream := b.stream, step := b.step, group := g, seq := q.seqOf g b.lane b.step.toNat, lane := b.lane
        tag := q.tagFor b.step, shape := clShape desc arr, desc := desc, addr := a, size := n, rank := own, joiners := b.joiners, counts := c
        bf16 := s.clCarry b.part kind b.step d
        awaits := if kind = 5 then (List.range n).filter fun r => (movesOf desc).any fun m => decide (m.srank = r ∧ m.drank = own)
          else (List.range n).filter fun r => decide ((contribution kind n root r own c).2.1 ≠ 0) }
    let s1 := ((s.freeEntries b.joiners b.id).addOp o).modPart b.part fun q => q.bumpSeq g b.lane b.step.toNat
    let s2 := if kind = 5 then (s1.clPoison o hw o.kneadSource).kneadBegin o else s1.clSend o hw
    s2.replayEarly b.id

/-- Whether the descriptor's BLEND conversions stall on a blend decision (R111), or its AUTO carry waits for one (R112). -/
def clWaits (i : Issue) (s : State) : Bool :=
  let x := s.streamAt i.tile i.stream
  let d := s.pkgRead (descAt i s) 256
  let q := s.partAt x.part
  (decide (i.word.func.toNat % 8 ≠ 5 ∧ (fld d 2 1 = 12 ∨ fld d 3 1 = 12)) && q.blendWaits (clTensor d) x.step.toNat) ||
    (reduces (i.word.func.toNat % 8) && decide (fld d 4 1 = 2) && q.carryWaits (clTensor d) x.step.toNat)

/-- The ranges a collective reads as it starts: its source, count array, and for a KNEAD the move list and the chunks this package is the source of. -/
def State.clReads (s : State) (p kind a : Nat) : List (Nat × Nat) :=
  let d := s.pkgRead a 256
  let q := s.partAt p
  match q.cuts (fld d 0 2) with
  | none => []
  | some cuts =>
    let n := q.groupSize cuts
    let own := q.groupRank cuts
    if kind = 5 then
      (fld d 0x40 8, 32 * fld d 0x48 4) :: ((movesOf (d ++ s.pkgRead (fld d 0x40 8) (32 * fld d 0x48 4))).filter fun m => decide (m.srank = own)).map fun m => (m.saddr, chunk * m.n)
    else (fld d 0x20 8, 8 * clEntries kind n) :: vecRanges (fld d 0x28 8) (fld d 2 1) (sourceLen kind n (fld d 0xC 4) own (s.clCounts kind n d))

/-- CL.ISSUE (R178–R180). -/
def needsClIssue (i : Issue) (s : State) : Needs :=
  let g := needsEngine i (fun f => decide (f % 8 ≤ 5)) s
  let kind := i.word.func.toNat % 8
  let held := decide (kind = 5) && s.spareHeld (s.pkgRead (descAt i s) 256) i.tile
  let g := g.holdReads s (s.issueStarts i 1) (s.clReads (s.issuerPart i) kind (descAt i s))
  { g with stall := if g.stall.isSome then g.stall else if g.faults.isEmpty && clWaits i s then some .peer else if g.faults.isEmpty && held then some .copy else none }

def execClIssue (i : Issue) (s : State) : Host.Outcome State Fault Refusal :=
  issue i (needsClIssue i s) (fun pc s =>
    let e : SbEntry := { stream := i.stream, reads := s.extRes (descAt i s, 256), writes := [], op := 0, cause := .peer }
    effEngine 1 (i.word.func.getLsbD 3) e i pc 0 (State.beginCl i.word i.hw) s) s

/-! ## Results -/

/-- The elements rank `r` contributed, as wire pairs. -/
def Op.pairsOf (o : Op) (f r : Nat) : List (Nat × Nat) :=
  let d := o.dataOf r
  (List.range (d.length / msgElemBytes f)).map (decodePair f d)

/-- Node addition of a reduction (R95): FP32 with RNE, or BF16 by SR with the node's number. DESIGN CHOICE (log 94): neither it nor the conversion into
the carry saturates. -/
def State.addRound (s : State) (o : Op) (index node : Nat) (a b : Val) : Val :=
  if o.bf16 then
    decodeElem 1 (convElem 1 .sr false (s.srAt o.part (clTensor o.desc) o.step 4 node index) (a.add b)).1
  else f32 (toF32 (a.add b))

/-- The exact values of the result's elements, first position of the full vector. -/
def State.clResult (s : State) (o : Op) : List Val :=
  let f := s.clWire o
  if reduces o.kind then
    let cols := (List.range o.size).map fun r => ((o.pairsOf f r).map (pairVal f)).toArray
    let off := if o.kind = 1 then sumTo o.counts o.rank else 0
    (List.range (resultLen o.kind o.size o.rank o.counts)).map fun j =>
      treeReduce (s.addRound o (clBase o.desc + off + j)) .nan (cols.map fun c => c.getD j .nan)
  else ((List.range o.size).flatMap (o.pairsOf f)).map (pairVal f)

/-- The result's codes in DFMT with their health events: the conversion of R310 step 3 or R311, or bytes unchanged. -/
def State.clCodes (s : State) (o : Op) : List (Nat × Nat) × List (List Nat) :=
  let df := s.clFmt o 3
  let f := s.clWire o
  if !reduces o.kind && decide (f = df) then ((List.range o.size).flatMap (o.pairsOf f), [])
  else
    let vs := s.clResult o
    let blend := decide (fld o.desc 3 1 = 12)
    let off := if o.kind = 1 then sumTo o.counts o.rank else 0
    let md := if blend then Rnd.sr else Rnd.ofCode (fld o.desc 5 1 % 4)
    let cv := convVector df md (decide (fld o.desc 5 1 / 4 % 2 = 1)) (fun k => s.srAt o.part (clTensor o.desc) o.step 5 0 (clBase o.desc + off + k)) 0 vs
    (cv.1, vectorEvents (s.partAt o.part).histBase blend vs cv.2)

/-- The slices a DSHARD delivery goes to: engine, entry, slice, in order (R313). -/
def State.clSlices (s : State) (o : Op) : List (Nat × Nat × Nat) :=
  ((s.clShards o.part o.desc).getD []).flatMap fun x => (List.range (s.dirAt x.1 x.2).n).map fun k => (x.1, x.2, k)

/-- G2 and G2_STEP of a slice's META line. -/
def State.putG2 (s : State) (x : Nat × Nat × Nat) (g2 step : Nat) : State :=
  s.pkgWrite none ((s.dirAt x.1 x.2.1).metaAt x.1 x.2.2 + 16) (natLe 4 g2 ++ natLe 4 step)

/-- Writes the result vector, or delivers it into the shards (R313). -/
def State.clWrite (s : State) (o : Op) (xs : List (Nat × Nat)) : State :=
  if clDshard o.desc then
    (indexed (s.clSlices o)).foldl (fun (s : State) x =>
      let part := (xs.drop (16384 * x.1)).take 16384
      let g := part.map fun c => (BitVec.ofNat 32 c.1 : Lane)
      let d := s.dirAt x.2.1 x.2.2.1
      (s.pkgWrite none (d.gAt x.2.1 x.2.2.2) (part.flatMap fun c => natLe 4 c.1)).putG2 x.2 (sumSquares g).toNat o.step.toNat) s
  else
    s.vecWrite none (fld o.desc 0x30 8) (fld o.desc 3 1) (s.clFmt o 3) 0 xs

/-- The byte ranges of the result. -/
def State.clDest (s : State) (o : Op) : List (Nat × Nat) :=
  if o.kind = 5 then ((movesOf o.desc).filter fun m => decide (m.drank = o.rank)).map fun m => (m.daddr, chunk * m.n)
  else if clDshard o.desc then (s.clSlices o).map fun x => ((s.dirAt x.1 x.2.1).gAt x.1 x.2.2, 65536)
  else vecRanges (fld o.desc 0x30 8) (fld o.desc 3 1) (resultLen o.kind o.size o.rank o.counts)

/-- After a code other than DONE each line of the result holds its old content or result data, which one is open (R314): each line of the result keeps
its content or takes free bytes. The gradient of a shard that is UPDATING or PARTIAL is kept (R249). -/
def State.clFree (s : State) (o : Op) : State :=
  let s1 := (s.clDest o).foldl (fun (s : State) r =>
    (lineAddrs r.1 r.2).foldl (fun (s : State) l =>
      let lo := max l r.1
      let hi := min (l + 64) (r.1 + r.2)
      let n := s.freeCtr
      if (match s.lineOf l with | some b => s.inHeldGrad b | none => false) then s
      else if (Config.freeByte n).getLsbD 0 then
        { (s.pkgWrite none lo ((List.range (hi - lo)).map fun k => Config.freeByte (n + 1 + k))) with freeCtr := n + 65 }
      else { s with freeCtr := n + 1 }) s) s
  let free := fun (x : Nat × Nat × Nat) => decide ((s.dirAt x.1 x.2.1).state ≠ .updating ∧ (s.dirAt x.1 x.2.1).state ≠ .partial_)
  if clDshard o.desc && decide (o.kind = 1) then ((s.clSlices o).filter free).foldl (fun (s : State) x => s.pkgWrite none ((s.dirAt x.1 x.2.1).metaAt x.1 x.2.2 + 20) (natLe 4 0xFFFFFFFF)) s1
  else s1

/-! ## KNEAD: arrival -/

/-- The chunks of a move that have arrived. -/
def Op.chunkData (o : Op) (i k : Nat) : Option (List Byte) := (o.contrib.find? fun c => decide (c.2.1 = chunkOff i k)).map fun c => c.2.2

def Op.moveHere (o : Op) (i : Nat) (m : Move) : Bool := (List.range m.n).all fun k => (o.chunkData i k).isSome

/-- Writes the chunks of a move. -/
def State.landMove (s : State) (o : Op) (i : Nat) (m : Move) : State :=
  ((List.range m.n).foldl (fun (s : State) k => s.pkgWrite none (m.daddr + chunk * k) (((o.chunkData i k).getD []).take chunk)) s).countClx o.part 8 m.n

/-- KNEAD_SHARD_MOVE: the last chunk of a SHARD move lands: the destination entry takes the source entry's fields (R322). -/
def execKneadShardMove (id i : Nat) (s : State) : Host.Outcome State Fault Refusal :=
  match s.opOf id with
  | none => .next s
  | some o =>
    match (movesOf o.desc)[i]? with
    | none => .next s
    | some m =>
      if o.kind ≠ 5 ∨ o.ended.isSome ∨ !m.shard ∨ m.drank ≠ o.rank ∨ o.moved.contains i ∨ !o.moveHere i m ∨ s.linesWait [(m.daddr, chunk * m.n)] then .next s
      else
        let e := ((o.chunkData i (m.n - 1)).getD []).drop chunk
        let s1 := s.landMove o i m
        let s2 := s1.modDir (entEngine m.dent) (entIndex m.dent) fun _ => entryOf e o.part (m.daddr % stackBytes)
        let s3 := if m.srank = o.rank then s2.modDir (entEngine m.sent) (entIndex m.sent) fun _ => {} else s2
        .next (s3.modOp id fun x => { x with moved := x.moved ++ [i] })

/-- Every entry a failed KNEAD names becomes invalid at both ends, with a crumb that lists them (R322). -/
def State.kneadLost (s : State) (o : Op) : State :=
  let ms := (movesOf o.desc).filter fun m => m.shard
  if ms.isEmpty then s
  else
    let s1 := ms.foldl (fun (s : State) m =>
      let s := if m.srank = o.rank then s.modDir (entEngine m.sent) (entIndex m.sent) fun _ => {} else s
      if m.drank = o.rank then s.modDir (entEngine m.dent) (entIndex m.dent) fun _ => {} else s) s
    s1.errorEvent 2 0x0506 (uPart o.part) (s.partKeys o.part ++ [(32, .a (ms.map fun m => m.sent)), (33, .a (ms.map fun m => m.dent))])

/-- A KNEAD that is complete: plain moves land; entries moved away are invalid. -/
def State.kneadDone (s : State) (o : Op) : State :=
  let ms := indexed (movesOf o.desc)
  let s1 := (ms.filter fun x => !x.2.shard && decide (x.2.drank = o.rank)).foldl (fun (s : State) x => s.landMove o x.1 x.2) s
  (ms.filter fun x => x.2.shard && decide (x.2.srank = o.rank ∧ x.2.drank ≠ o.rank)).foldl (fun (s : State) x =>
    s.modDir (entEngine x.2.sent) (entIndex x.2.sent) fun _ => {}) s1

/-- SHARD moves into this package that have not been taken over yet. -/
def Op.shardsDue (o : Op) : Bool := (indexed (movesOf o.desc)).any fun x => x.2.shard && decide (x.2.drank = o.rank) && !o.moved.contains x.1

/-! ## Divergence (R253) -/

/-- PARK, or the parking a divergence brings (R373): every stream of the partition stops at its safe point. -/
def State.parkPart (s : State) (p : Nat) : State :=
  let s1 := s.modPart p fun q => { q with state := if q.state = .orphan then .orphan else .parking }
  ((s1.runningOf p).foldl (fun (s : State) x => s.parkStream x.1 x.2 3) s1).checkParked p

/-- The record most ranks hold; on a tie rank 0's. -/
def majority (rs : List (List Byte)) : List Byte :=
  let votes := fun (r : List Byte) => (rs.filter fun x => decide (x = r)).length
  let top := rs.foldl (fun n r => max n (votes r)) 0
  if (rs.filter fun r => decide (votes r = top)).eraseDups.length = 1 then (rs.find? fun r => decide (votes r = top)).getD [] else rs.headD []

/-- The verdict of a digest exchange: unequal records, or a refusal, are a divergence (R253, R317). -/
def State.digestVerdict (s : State) (o : Op) : State :=
  let rs := (List.range o.size).map o.dataOf
  let m := majority rs
  let out := if o.ended.isSome then (match o.ended with | some e => [e.2.1] | none => []) else (List.range o.size).filter fun r => decide (rs.getD r [] ≠ m)
  if out.isEmpty then s.countClx o.part 0
  else
    let d := s.dirAt o.dir.1 o.dir.2
    let s1 := s.modPart o.part fun q => { q with diverged := satAdd (2 ^ 24 - 1) q.diverged }
    let s2 := s1.errorEvent 2 0x0303 (uPart o.part) (s.partKeys o.part ++ [(32, .a out), (33, .u d.tensor.toNat), (34, .u d.shard.toNat), (35, .u o.step.toNat)])
    if (s.partAt o.part).action then s2.parkPart o.part else s2

/-! ## Completion -/

/-- The operation leaves the table with its status (Table 12-7) and its signals (R178). -/
def State.closeCl (s : State) (o : Op) (code prank : Nat) (pstep : BitVec 32) : State :=
  let st := code + prank % 65536 * 65536 + (if 1 ≤ code ∧ code ≤ 3 then pstep.toNat else 0) * 2 ^ 32
  let s1 := s.pkgWrite none (o.addr + 248) (natLe 8 st)
  ({ (s1.release o.joiners o.stream o.id) with ops := s1.ops.filter fun x => decide (x.id ≠ o.id) }).signalJoiners o.joiners o.stream o.part

/-- Target shards of a DSHARD delivery in a state (R249). -/
def State.clHas (s : State) (o : Op) (st : ShState) : Bool :=
  clDshard o.desc && decide (o.kind = 1) && ((s.clShards o.part o.desc).getD []).any fun x => decide ((s.dirAt x.1 x.2).state = st)

/-- The ranges a collective's end writes: its result, the META lines of a DSHARD delivery, its status word; it waits while a line of them is locked or
held (R216, R191, R205). -/
def State.clWrites (s : State) (o : Op) : List (Nat × Nat) :=
  (o.addr + 248, 8) :: (s.clDest o ++ if clDshard o.desc && decide (o.kind = 1) then (s.clSlices o).map fun x => ((s.dirAt x.1 x.2.1).metaAt x.1 x.2.2, 64) else [])

/-- COLLECTIVE_COMPLETE: a collective of Table 12-5 has its data, or was ended by a code: results, status word and signals (R178, R310–R314, R321); a
digest exchange reaches its verdict (R253). -/
def execCollectiveComplete (id : Nat) (s : State) : Host.Outcome State Fault Refusal :=
  match s.opOf id with
  | none => .next s
  | some o =>
    if o.kind = 11 then
      if !o.complete && o.ended.isNone then .next s else .next ({ s with ops := s.ops.filter fun x => decide (x.id ≠ id) }.digestVerdict o)
    else if 5 < o.kind ∨ s.linesWait (s.clWrites o) then .next s
    else match o.ended with
      | some (code, prank, pstep) =>
        .next (((if o.kind = 5 then s.kneadLost o else s).clFree o).closeCl o code prank pstep)
      | none =>
        if !o.complete || s.clHas o .updating then .next s
        else if s.clHas o .partial_ then .next ((s.clFree o).closeCl o 5 o.rank 0)
        else if o.kind = 5 then
          if o.shardsDue then .next s else .next (((s.kneadDone o).countClx o.part 0).closeCl o 0 0 0)
        else
          let (xs, ev) := s.clCodes o
          let s1 := (s.clWrite o xs).engineEvents o.part (clTensor o.desc) o.step.toNat ev
          let s2 := if (s.resolveFmt o.part (clTensor o.desc) o.step (fld o.desc 3 1)).2 then s1.countUnmapped o.part 1 else s1
          .next ((s2.countClx o.part 0).closeCl o 0 0 0)

/-! ## Messages -/

/-- A lockstep disagreement of adder pair `i` recomputes the node; a second in a row fences the pair, and with fewer than 8 left the event is C3 (R327). -/
def State.pairDisagree (s : State) (p i k : Nat) : State :=
  if k = 0 ∨ 16 ≤ i ∨ s.clx.pairsOk.getLsbD i = false then s
  else
    let u : UnitId := { kind := 7, idx := [i] }
    let s1 := (s.countClx p 9).errorEvent 1 0x0504 u []
    if k < 2 then s1
    else
      let ok := s1.clx.pairsOk &&& ~~~(1#16 <<< i)
      let left := ((List.range 16).filter fun j => ok.getLsbD j).length
      State.errorEvent { s1 with clx := { s1.clx with pairsOk := ok } } (if left < 8 then 3 else 2) 0x0505 u []

/-- The engine takes the message that stands first on its VC in the port's buffer, if it has room for it. -/
def State.fromPort (s : State) (port p : Nat) (m : CollMsg) : State :=
  match s.arrived port p (collHead m ++ m.data) with
  | none => s
  | some v => if s.noRoom port p m then s else (s.takeMessage port v (collHead m ++ m.data)).receiveColl port p m

/-- COLLECTIVE_MESSAGE_RECEIVE (R305, R306), with the lockstep errors of the adder pairs that reduce it. -/
def execCollectiveMessageReceive (port p : Nat) (m : CollMsg) (pairErr : List (Nat × Nat)) (s : State) : Host.Outcome State Fault Refusal :=
  if nPorts ≤ port then .fault (.noSuchUnit "port" port)
  else if nParts ≤ p then .fault (.noSuchUnit "partition" p)
  else .next (pairErr.foldl (fun (s : State) x => s.pairDisagree p x.1 x.2) (s.fromPort port p m))

/-- CL_ABORT_RECEIVE: an ABORT ends the operation with its code and fences nothing (R306). -/
def execClAbortReceive (port p : Nat) (m : CollMsg) (s : State) : Host.Outcome State Fault Refusal :=
  if nPorts ≤ port then .fault (.noSuchUnit "port" port)
  else if nParts ≤ p then .fault (.noSuchUnit "partition" p)
  else .next (s.fromPort port p { m with op := 15 })

/-- The axes of the group a message belongs to. -/
def State.msgAxes (s : State) (p : Nat) (m : CollMsg) : List Nat := (s.partAt p).groupAxes (((s.partAt p).cuts m.group.toNat).getD 0)

/-- Another ACTIVE, unfenced port of the group's path than the one that lost a message (R325). -/
def State.otherPort (s : State) (x : LostMsg) : Option Nat :=
  (List.range nPorts).find? fun n => decide (n ≠ x.port) && s.portServes x.part (s.msgAxes x.part x.msg) n

/-- COLLECTIVE_RESEND: the k-th message lost on a port goes out on another ACTIVE, unfenced port of its group's path (R325). -/
def execCollectiveResend (port k : Nat) (s : State) : Host.Outcome State Fault Refusal :=
  match (s.lost.filter fun x => decide (x.port = port))[k]? with
  | none => .next s
  | some x =>
    match s.otherPort x with
    | none => .next s
    | some n =>
      let s1 := { s with lost := s.lost.erase x }.collQueue n x.part x.dest x.vc x.msg
      .next (if port = 64 then s1 else s1.countClx x.part 5)

/-- PEER_LOST_TIMEOUT: a lost message of an operation found no port within 1 s: the operation ends PEER_LOST, or FENCED where fenced ports alone remain,
and ABORT goes out by any remaining route (R325). -/
def execPeerLostTimeout (id : Nat) (s : State) : Host.Outcome State Fault Refusal :=
  match s.opOf id with
  | none => .next s
  | some o =>
    match (if o.ended.isSome then none else s.lost.find? fun x => o.matches x.part x.msg && (s.otherPort x).isNone) with
    | none => .next s
    | some x =>
      let axes := s.msgAxes o.part x.msg
      let fenced := (List.range nPorts).any fun n =>
        let q := s.portAt n
        decide (n ≠ x.port) && q.takes && (s.partAt o.part).pairs.getLsbD (n / 2) && axes.contains (q.dir / 2) && (s.partAt o.part).fence.getLsbD q.lport
      let code := if fenced then 6 else 4
      let s1 := { s with lost := s.lost.filter fun y => !o.matches y.part y.msg }
      let s2 := (s1.endOp id code x.dest 0).sendAbort o code
      .next (if code = 4 then s2.countClx o.part 4 else s2)

/-- CL_STALL: a VC's head message has found no local operation for 1 s (R324). -/
def execClStall (port vc p : Nat) (s : State) : Host.Outcome State Fault Refusal :=
  if nPorts ≤ port then .fault (.noSuchUnit "port" port)
  else if nParts ≤ p then .fault (.noSuchUnit "partition" p)
  else if !((s.early.any fun e => decide (e.1 = port ∧ e.2.1 = p ∧ vcOf e.2.2.op.toNat = vc)) || ((s.portAt port).front vc).isSome) then .next s
  else .next ((s.countClx p 7).errorEvent 1 0x0502 (uPart p) (s.partKeys p ++ [(10, .u (port * 8 + vc))]))

end Sys2Proof.Machine
end

