-- ==== Sys2Proof/Machine/Port.lean ====
section
/-! DEFINITION. Fabric ports as links (chapter 11): flits, credits, retry, discovery, and what a port's going down brings. -/

namespace Sys2Proof.Machine

/-- Reference ticks of one second. -/
def secondTicks : Nat := 100000000

/-! ## Flit headers (Table 11-4) -/

def hdrType (h : BitVec 96) : Nat := bits h.toNat 95 92
def hdrVc (h : BitVec 96) : Nat := bits h.toNat 91 89
def hdrSom (h : BitVec 96) : Bool := h.getLsbD 88
def hdrEom (h : BitVec 96) : Bool := h.getLsbD 87
def hdrSeq (h : BitVec 96) : Nat := bits h.toNat 86 75
def hdrAck (h : BitVec 96) : Nat := bits h.toNat 74 63
def hdrAckv (h : BitVec 96) : Bool := h.getLsbD 62
def hdrCvc (h : BitVec 96) : Nat := bits h.toNat 61 59
def hdrCredit (h : BitVec 96) : Nat := bits h.toNat 58 51
def hdrLen (h : BitVec 96) : Nat := bits h.toNat 50 43

/-- The bytes the flit CRC covers (R264). -/
def flitCovered (f : Flit) : List Byte := natLe 12 f.hdr.toNat ++ slice f.payload 0 240

/-- The 256 bytes of a flit, and what each lane in use carries of them (R263, R264). -/
def flitBytes (f : Flit) : List Byte := flitCovered f ++ natLe 4 f.crc.toNat
def lanesIn (ls : BitVec 4) : List Nat := (List.range 4).filter fun l => ls.getLsbD l
def flitStriped (f : Flit) (ls : BitVec 4) : List (Nat × List Byte) :=
  let per := 256 / max 1 (lanesIn ls).length
  ((List.range (lanesIn ls).length).zip (lanesIn ls)).map fun x => (x.2, slice (flitBytes f) (per * x.1) per)

/-- Whether a port carries flits: trained, and in a state from HELLO onward, or returned within the hold of R286. -/
def Port.trained (q : Port) : Bool :=
  q.state == .hello || q.state == .standby || q.state == .active || q.state == .quarantine || (q.state == .retrain && q.resume)

/-- Buffers held by a VC and credits outstanding to it (R268). -/
def Port.vcTotal (q : Port) (v : Nat) : Nat := Map.get 0 q.rxBuf v + Map.get 0 q.granted v

/-- Credits the conditions of R268 let the receiver return to a VC now. -/
def Port.mayGrant (q : Port) (v : Nat) : Nat :=
  let shared := (List.range 8).foldl (fun n x => n + (q.vcTotal x - 128)) 0
  let t := q.vcTotal v
  min (2304 - t) ((128 - t) + (3072 - shared))

/-- The VC whose credits the next header returns, and how many. -/
def Port.creditNext (q : Port) : Option (Nat × Nat) :=
  (((List.range 8).map fun k => (q.lastCvc + 1 + k) % 8).map fun v => (v, min 255 (min (Map.get 0 q.creditDue v) (q.mayGrant v)))).find? fun x => decide (0 < x.2)

/-- Forms a flit with the acknowledgement and credit return every flit carries (R264). -/
def Port.form (q : Port) (ty vc : Nat) (som eom : Bool) (seq len : Nat) (data : List Byte) : Port × Flit :=
  let c := q.creditNext
  let q1 := match c with
    | some (v, k) => { q with granted := Map.upd 0 q.granted v (· + k), creditDue := Map.upd 0 q.creditDue v (· - k), lastCvc := v }
    | none => q
  let ack := (q.rxNext + 4095) % 4096
  let h := ty * 2 ^ 92 + vc * 2 ^ 89 + b2n som * 2 ^ 88 + b2n eom * 2 ^ 87 + seq * 2 ^ 75 + (if q.rxAny then ack else 0) * 2 ^ 63 + b2n q.rxAny * 2 ^ 62 +
    (match c with | some x => x.1 * 2 ^ 59 + x.2 * 2 ^ 51 | none => 0) + len * 2 ^ 43
  let f : Flit := { hdr := BitVec.ofNat 96 h, payload := slice data 0 240, crc := 0 }
  ({ q1 with ackDue := false }, { f with crc := crc32c (flitCovered f) })

/-! ## Transmitting -/

/-- The partition that owns the pair of a port. -/
def State.pairPart (s : State) (n : Nat) : Option Nat := (List.range nParts).find? fun p => (s.partAt p).pairs.getLsbD (n / 2)

/-- The HELLO a port sends (Table 11-12). -/
def State.helloOf (s : State) (n : Nat) : Hello :=
  let q := s.portAt n
  { serial := Config.serial, port := BitVec.ofNat 8 n, dir := BitVec.ofNat 8 q.dir, slot := BitVec.ofNat 8 s.pkg
    flags := BitVec.ofNat 8 (b2n q.lastHello.isSome + 2 * b2n (q.resume || q.darkKept)), aqpMaj := 1, aqpMin := 2
    fwMaj := s.fw.version.extractLsb' 16 16, fwMin := s.fw.version.extractLsb' 0 16
    tag := match s.pairPart n with | some p => if (s.partAt p).job then (s.partAt p).tag else 0 | none => 0
    rxNext := if q.resume || q.darkKept then BitVec.ofNat 16 q.rxNext else 0, hseq := q.hseq }

def Hello.encode (h : Hello) : List Byte :=
  natLe 8 h.serial.toNat ++ [h.port, h.dir, h.slot, h.flags, h.aqpMaj, h.aqpMin] ++ natLe 2 h.fwMaj.toNat ++ natLe 2 h.fwMin.toNat ++
    natLe 8 h.tag.toNat ++ natLe 2 h.rxNext.toNat ++ natLe 4 h.hseq.toNat

def Hello.decode (b : List Byte) : Hello :=
  let at_ := fun (o n : Nat) => leNat (slice b o n)
  { serial := BitVec.ofNat 64 (at_ 0 8), port := b.getD 8 0, dir := b.getD 9 0, slot := b.getD 10 0, flags := b.getD 11 0, aqpMaj := b.getD 12 0
    aqpMin := b.getD 13 0, fwMaj := BitVec.ofNat 16 (at_ 14 2), fwMin := BitVec.ofNat 16 (at_ 16 2), tag := BitVec.ofNat 64 (at_ 18 8)
    rxNext := BitVec.ofNat 16 (at_ 26 2), hseq := BitVec.ofNat 32 (at_ 28 4) }

/-- A VC has a flit ready. -/
def Port.ready (q : Port) (v : Nat) : Option TxFlit := q.queue.find? fun f => decide (f.vc = v)

/-- The VC served next: round-robin after the last one, with a flit ready and a credit (R269). -/
def Port.nextVc (q : Port) : Option Nat :=
  ((List.range 8).map fun k => (q.lastVc + 1 + k) % 8).find? fun v => (q.ready v).isSome && decide (0 < Map.get 0 q.credits v)

/-- STALL after a flit slot (R270, R271). -/
def Port.countStalls (q : Port) : Port :=
  { q with stall := (List.range 8).foldl (fun m v =>
      if (q.ready v).isSome && (decide (Map.get 0 q.credits v = 0) || decide (3072 ≤ q.held.length)) then Map.upd 0 m v (satAdd max48 ·) else m) q.stall }

/-- Holds a sequenced flit for replay (R271). -/
def Port.keep (q : Port) (f : TxFlit) : Port :=
  { q with held := q.held ++ [(q.txSeq, f)], txSeq := (q.txSeq + 1) % 4096, replayHwm := max q.replayHwm (q.held.length + 1) }

/-- Sends a held flit. -/
def Port.sendHeld (q : Port) (seq : Nat) (f : TxFlit) : Port × Flit :=
  if f.vc = 8 then q.form 4 0 false false seq 0 [] else q.form 1 f.vc f.som f.eom seq f.len f.data

/-- The HELLO that is due (R277). -/
def State.sayHello (s : State) (n : Nat) (q : Port) : Port × Flit :=
  { q with helloDue := false, hseq := q.hseq + 1, seenSent := q.seenSent || (q.trained && q.lastHello.isSome) }.form 2 0 false false 0 0 (s.helloOf n).encode

/-- The held flit to be sent again now: DATA only in ACTIVE (R262). -/
def Port.resendNow (q : Port) : Option (Nat × TxFlit) :=
  match q.resend with
  | r :: _ => q.held.find? fun h => decide (h.1 = r) && (q.state == .active || decide (h.2.vc = 8))
  | [] => none

/-- One flit slot of a trained port: a resend, a NAK, a HELLO that is due, DATA, the DARK flit, IDLE (R269, R288). The HELLO's place among them is the
model's (log 24). -/
def State.slotOf (s : State) (n : Nat) : Port × Flit :=
  let q := (s.portAt n).countStalls
  let carries := q.state == .active && !s.safeState
  match q.resendNow with
  | some h => { q with resend := q.resend.drop 1 }.sendHeld h.1 h.2
  | none =>
    if q.nakDue then { q with nakDue := false, nakSent := satAdd max48 q.nakSent }.form 3 0 false false 0 0 []
    else if q.helloDue then s.sayHello n q
    else match (if carries && decide (q.held.length < 3072) then q.nextVc else none) with
    | some v =>
      match q.ready v with
      | some f =>
        ({ q with queue := q.queue.erase f, credits := Map.upd 0 q.credits v (· - 1), lastVc := v, txFlits := satAdd max64 q.txFlits }.keep f).sendHeld q.txSeq f
      | none => q.form 0 0 false false 0 0 []
    | none =>
      if q.darkReq && !q.darkSent && q.queue.isEmpty && decide (q.held.length < 3072) then
        let f : TxFlit := { vc := 8, som := false, eom := false, len := 0, data := [] }
        ({ q with darkSent := true }.keep f).sendHeld q.txSeq f
      else q.form 0 0 false false 0 0 []

/-! ## Loss (R287) -/

/-- The messages of a port not wholly acknowledged: those whose last flit is held or waiting. -/
def Port.unacked (q : Port) : List Carried :=
  ((q.held.map (·.2) ++ q.queue).filter fun f => f.eom && decide (f.vc ≠ 8)).map (·.what)

/-- Each is reported lost to its engine: a collective message waits to be resent (R325), a board request ends its copy (R290). -/
def State.reportLost (s : State) (n : Nat) : Carried → State
  | .coll p d v m => s.loseColl n p d v m
  | .board tag =>
    match s.board.find? fun o => decide (o.tag = tag) with
    | some o => s.failCopy o.tile o.copy 0x22 (BitVec.ofNat 64 o.addr) 0x0202
    | none => s
  | .other => s

/-- The replay buffer is discarded; messages of both directions are lost, and each left open on a VC is reported to its receiving engine (R287). -/
def State.loseMessages (s : State) (n : Nat) : State :=
  let q := s.portAt n
  let gone := q.unacked
  let s := q.openMsg.foldl (fun (s : State) o => s.emit (.openLost n o.1)) s
  let s1 := s.modPort n fun q =>
    { q with held := [], queue := [], resend := [], openMsg := [], rxBuf := q.openMsg.foldl (fun b o => Map.upd 0 b o.1 (· - flitCount o.2)) q.rxBuf, msgLost := satAdd max48 q.msgLost (gone.length + q.openMsg.length) }
  gone.foldl (fun s c => s.reportLost n c) s1

/-- The anchor port loses lock: the fabric reference falls back to local and stays there until a PORT_RESET of an anchor port (R291, R427). -/
def State.dropAnchor (s : State) (n : Nat) : State :=
  if (s.portAt n).anchor then
    let s1 := s.modPort n fun q => { q with anchor := false }
    { s1 with clk := { s1.clk with fabref := 0, anchorWait := true } }.errorEvent 1 0x090A (uPort n) []
  else s

/-- A port goes DOWN outside a dark period (R285). -/
def State.portDown (s : State) (n reason : Nat) : State :=
  let s1 := (s.loseMessages n).modPort n fun q =>
    { q with state := .down, reason := reason, width := 0, lanes := 0, stormed := false, stormAt := none, holding := false, resume := false, darkReq := false, darkSent := false, darkRcvd := false,
             darkKept := false, discovered := false, attempts := 0 }
  (s1.dropAnchor n).errorEvent 2 0x0404 (uPort n) [(10, .u reason)]

/-- The lanes a port uses of those healthy in both directions, and its width (R263). -/
def lanesFor (ok : BitVec 4) : BitVec 4 :=
  if ok = 15 then 15
  else if ok.toNat % 4 = 3 then 3
  else if 12 ≤ ok.toNat then 12
  else match (List.range 4).find? fun l => ok.getLsbD l with
    | some l => 1#4 <<< l
    | none => 0
def widthOf (ok : BitVec 4) : Nat := (lanesIn (lanesFor ok)).length

/-- The lanes a training leaves; a loss of lanes is reported (R18, R263). -/
def State.takeLanes (s : State) (n : Nat) (ok : BitVec 4) : State :=
  let old := (s.portAt n).lanesOk
  let s1 := s.modPort n fun q => { q with lanesOk := ok, lanes := lanesFor ok, width := widthOf ok }
  if widthOf ok < 4 ∧ ok ≠ old then s1.errorEvent 1 0x0402 (uPort n) [] else s1

/-- Link-level state of a link that comes up afresh: SEQ starts at 0 and credits are granted afresh (Table 11-16). -/
def Port.freshLink (q : Port) : Port :=
  { q with txSeq := 0, held := [], resend := [], nakDue := false, credits := [], rewinds := 0, rxNext := 0, rxAny := false, discard := false, granted := []
           creditDue := (List.range 8).foldl (fun m v => Map.put 0 m v 128) [], openMsg := [], lastHello := none, seenSent := false, discovered := false, resume := false }

/-- Full or stored-equalisation training begins. -/
def State.train (s : State) (n : Nat) (full : Bool) : State :=
  s.modPort n fun q => { q with state := .train, reason := 0, width := 0, lanes := 0, fullTrain := full, holding := false, discovered := false, darkReq := false, darkSent := false, darkRcvd := false }

/-- The port leaves the state it was in for RETRAIN, to which its return leads back. -/
def Port.toRetrain (q : Port) : Port :=
  { q with state := .retrain, width := 0, lanes := 0, before := if q.state == .retrain then q.before else q.state, beforeReason := if q.state == .retrain then q.beforeReason else q.reason }

/-- A link loss (R286): one LINK_DOWN, and a hold of 300 ms in RETRAIN, with stored-equalisation training first and full training after it. -/
def State.beginHold (s : State) (n reason : Nat) : State :=
  (s.modPort n fun q =>
    { q.toRetrain with fullTrain := q.holding && q.fullTrain, holding := true, holdReason := reason, resume := false, linkDown := if q.holding then q.linkDown else satAdd max48 q.linkDown }).dropAnchor n

/-- Lanes become unhealthy (R283): RETRAIN to the widest width left, or a link loss where none is left; either counts in DEGRADE and is reported. -/
def State.degrade (s : State) (n : Nat) (bad : BitVec 4) : State :=
  let q := s.portAt n
  let ok := q.lanesOk &&& ~~~bad
  if ok = q.lanesOk then s
  else
    let s1 := s.modPort n fun q => { q.toRetrain with lanesOk := ok, degrade := satAdd max48 q.degrade, fullTrain := false }
    (if ok = 0 then s1.beginHold n 5 else s1).errorEvent 1 0x0402 (uPort n) []

/-! ## Discovery (R279, R280) -/

/-- The direction of a port's plan entry names the peer (Table 11-10). -/
def Port.planned (q : Port) (serial : Word) (port : Nat) : Bool := q.plan1.getLsbD 63 && q.plan0 == serial && decide (bits q.plan1.toNat 55 48 = port)

/-- Entry into QUARANTINE. -/
def State.quarantine (s : State) (n reason : Nat) : State :=
  (s.modPort n fun q => { q with state := .quarantine, reason := reason, quar := satAdd max48 q.quar }).errorEvent 2 0x0405 (uPort n) [(10, .u reason)]

/-- The anchor ports the configuration block names: bit 0 P0, bit 1 P32. -/
def State.anchorNamed (s : State) (n : Nat) : Bool :=
  (decide (n = 0) && s.fw.config.anchor.getLsbD 0) || (decide (n = 32) && s.fw.config.anchor.getLsbD 1)

/-- The fabric reference takes the first named anchor port that is ACTIVE (R427). -/
def State.takeAnchor (s : State) : State :=
  let act := fun (n : Nat) => s.anchorNamed n && (s.portAt n).state == .active
  let mark := fun (s : State) (n : Nat) => (s.modPort 0 fun q => { q with anchor := decide (n = 0) }).modPort 32 fun q => { q with anchor := decide (n = 32) }
  if s.clk.anchorWait then s
  else if act 0 then mark { s with clk := { s.clk with fabref := 1 } } 0
  else if act 32 then mark { s with clk := { s.clk with fabref := 2 } } 32
  else s

/-- A port becomes ACTIVE as a logical port; of two that claim one logical port the lower-numbered keeps it (R280). -/
def State.activate (s : State) (n lport : Nat) : State :=
  let rivals := (List.range nPorts).filter fun m => decide (m ≠ n ∧ (s.portAt m).lport = lport) && (s.portAt m).state == .active
  if rivals.any fun m => decide (m < n) then s.quarantine n 12
  else
    let s1 := rivals.foldl (fun (s : State) m => s.quarantine m 12) s
    ((s1.modPort n fun q => { q with state := .active, reason := 0, lport := lport, attempts := 0 }).takeAnchor).retryBoards

/-- A port that returns to ACTIVE serves its logical port again, under the same rule of rivals; the time counts for R272. -/
def State.reactivate (s : State) (n : Nat) : State :=
  (s.modPort n fun q => { q with stormAt := if q.stormed then some s.refTick else q.stormAt, stormed := false }).activate n (s.portAt n).lport

/-- The outcome of discovery (Table 11-14). -/
def State.outcome (s : State) (n : Nat) : State :=
  let q := s.portAt n
  let s0 := s.modPort n fun q => { q with discovered := true, aqpMaj := 1, aqpMin := min 2 q.peerAqpMin }
  if q.peerAqpMaj ≠ 1 then s0.quarantine n 10
  else if q.peerFwMaj ≠ bits s.fw.version.toNat 31 16 then s0.quarantine n 11
  else match s.pairPart n with
  | none => s0.modPort n fun q => { q with state := .standby, reason := 0 }
  | some p =>
    let pt := s.partAt p
    if !pt.planValid then s0.modPort n fun q => { q with state := .standby, reason := 0 }
    else if q.planned q.peerSerial q.peerPort then s0.activate n n
    else match (List.range nPorts).find? fun m => decide (m ≠ n ∧ (s.portAt m).dir = q.dir) && (s.portAt m).planned q.peerSerial q.peerPort with
    | some m => if pt.relabel.getLsbD q.dir then s0.activate n m else s0.quarantine n 13
    | none => s0.quarantine n 12

/-- Discovery completes when a HELLO with SEEN has come and one has been sent (R277). -/
def State.tryDiscover (s : State) (n : Nat) : State :=
  let q := s.portAt n
  match q.lastHello with
  | some h => if q.state == .hello && !q.discovered && q.seenSent && h.flags.getLsbD 0 then s.outcome n else s
  | none => s

/-! ## Receiving -/

/-- R265. -/
def Port.fails (q : Port) (f : Flit) : Bool :=
  let ty := hdrType f.hdr
  let v := hdrVc f.hdr
  f.fecBad || f.crc != crc32c (flitCovered f) || decide (5 ≤ ty) ||
    (decide (ty = 1) && (decide (v = 7) || (hdrSom f.hdr && q.openMsg.any fun o => decide (o.1 = v)) || (!hdrEom f.hdr && decide (hdrLen f.hdr ≠ 240))))

/-- The first failed or out-of-order flit brings a NAK; later ones are discarded (R271). -/
def Port.refuseFlit (q : Port) : Port := if q.discard then q else { q with discard := true, nakDue := true }

/-- A cumulative acknowledgement and a credit return. -/
def Port.takeHeader (q : Port) (h : BitVec 96) : Port :=
  let q1 := if hdrCredit h = 0 then q else { q with credits := Map.upd 0 q.credits (hdrCvc h) (· + hdrCredit h) }
  if !hdrAckv h then q1
  else match q1.held.findIdx? (fun x => decide (x.1 = hdrAck h)) with
  | some i =>
    let left := q1.held.drop (i + 1)
    { q1 with held := left, rewinds := 0, resend := q1.resend.filter fun r => left.any fun x => decide (x.1 = r) }
  | none => q1

/-- The next SEQ in order has come. -/
def Port.inOrder (q : Port) : Port := { q with rxNext := (q.rxNext + 1) % 4096, rxAny := true, discard := false, ackDue := true }

/-- A DATA flit in order: it holds a buffer, its message grows and with its last flit stands whole in the receive buffer; a message on VC6 goes to
firmware at once, whose use of it the spec does not give. One more credit falls due while R268 lets the VC's share grow (log 24). -/
def Port.takeData (q : Port) (f : Flit) : Port :=
  let v := hdrVc f.hdr
  let d := slice f.payload 0 (hdrLen f.hdr)
  let msg := ((q.openMsg.find? fun o => decide (o.1 = v)).map (·.2)).getD [] ++ d
  let rest := q.openMsg.filter fun o => decide (o.1 ≠ v)
  let q1 := { q.inOrder with
    openMsg := if hdrEom f.hdr then rest else rest ++ [(v, msg)]
    inbox := if hdrEom f.hdr then q.inbox ++ [(v, msg)] else q.inbox
    rxFlits := satAdd max64 q.rxFlits
    rxBuf := Map.upd 0 q.rxBuf v (· + 1)
    granted := Map.upd 0 q.granted v (· - 1)
    creditDue := Map.upd 0 q.creditDue v (· + 1) }
  if hdrEom f.hdr && decide (v = 6) then q1.leave v msg else q1

/-- A flit that fails R265 is counted and refused. -/
def State.failFlit (s : State) (n : Nat) : State := s.modPort n fun q => { q.refuseFlit with crcFail := satAdd max48 q.crcFail }

end Sys2Proof.Machine
end

