-- ==== Sys2Proof/Machine/Link.lean ====
section
/-! DEFINITION. The commands of fabric ports (chapter 11): flit slots and arrivals, timers, training, degradation, dark periods, the port messages. -/

namespace Sys2Proof.Machine

/-! ## Judging lanes (R282) -/

/-- A lane's ratio exceeds 2.4 × 10⁻⁴. -/
def LaneStat_bad (l : LaneStat) : Bool := l.lostLock || decide (24 * 10 * l.symbols < l.bitErrs * 100000)

/-- The lane with the highest error ratio, the lowest on a tie. -/
def worstLane : List (Nat × LaneStat) → Option (Nat × LaneStat)
  | [] => none
  | x :: xs => match worstLane xs with
    | none => some x
    | some y => if x.2.bitErrs * y.2.symbols < y.2.bitErrs * x.2.symbols then some y else some x

/-- The lanes R282 finds unhealthy: those above the ratio or out of lock, and the worst one where more than 16 codewords were uncorrectable. -/
def unhealthy (lanes : List LaneStat) (codewords : List Nat) : BitVec 4 :=
  let ls := (List.range 4).zip lanes
  let worst := if 16 < codewords.getD 16 0 then (match worstLane ls with | some l => [l.1] | none => []) else []
  ((ls.filter fun l => LaneStat_bad l.2).map (·.1) ++ worst).foldl (fun (b : BitVec 4) l => b ||| (1#4 <<< l)) 0

/-- A state in which HELLO is sent (R277). -/
def Port.greets (q : Port) : Bool := q.state != .disabled && q.state != .down

/-! ## Resumption (R286, R289) -/

/-- A port that came back within its hold, or from a dark period entered with a kept replay buffer, to the same peer. -/
def Port.resuming (q : Port) : Bool := (q.state == .retrain && q.resume) || (q.state == .hello && q.darkKept)

/-- Resends from the peer's RX_NEXT and returns to ACTIVE. A port that was not ACTIVE when its link was lost returns to the state it left (DEDUCED, log 56):
QUARANTINE is left as R279 says and no other way. -/
def State.resumeLink (s : State) (n : Nat) (h : Hello) : State :=
  let q := s.portAt n
  let left := match q.held.findIdx? (fun x => decide (x.1 = h.rxNext.toNat % 4096)) with | some i => q.held.drop i | none => []
  let s1 := s.modPort n fun q =>
    { q with state := q.before, reason := q.beforeReason, held := left, resend := left.map (·.1), holding := false, resume := false, darkKept := false,
             discovered := q.before != .hello, discard := false, nakDue := false, attempts := 0 }
  let s2 := if q.holding then s1.errorEvent 1 0x0403 (uPort n) [] else s1
  if q.before == .active then s2.reactivate n else s2

/-- Completes a resumption once a RESUME has been received and one sent. -/
def State.tryResume (s : State) (n : Nat) : State :=
  let q := s.portAt n
  match q.lastHello with
  | some h => if q.resuming && q.seenSent && h.flags.getLsbD 1 then s.resumeLink n h else s
  | none => s

/-! ## Flits -/

/-- FLIT_TRANSMIT: one flit slot of the port (R269). A port that is not trained sends no flit but a HELLO that is due (R277). -/
def execFlitTransmit (n : Nat) (s : State) : Host.Outcome State Fault Refusal :=
  if nPorts ≤ n then .fault (.noSuchUnit "port" n)
  else
    let q := s.portAt n
    if q.trained then
      let r := s.slotOf n
      .next ((((s.setPort n r.1).emit (.flit n r.2 (flitStriped r.2 q.lanes))).tryResume n).tryDiscover n)
    else if q.helloDue && q.greets && s.pwr.state != .deep then
      let r := s.sayHello n q
      .next ((s.setPort n r.1).emit (.flit n r.2 (flitStriped r.2 (lanesFor q.lanesOk))))
    else .next s

/-- The checks every arriving flit passes, then `body` on the port after its header is taken. A flit of another TYPE than the command's is not this
event. -/
def State.arriveFlit (s : State) (n ty : Nat) (f : Flit) (body : State → State) : Host.Outcome State Fault Refusal :=
  if nPorts ≤ n then .fault (.noSuchUnit "port" n)
  else
    let q := s.portAt n
    if !q.trained then .next s
    else if q.fails f then .next (s.failFlit n)
    else if hdrType f.hdr ≠ ty then .next s
    else .next (body (s.modPort n fun q => q.takeHeader f.hdr))

/-- FLIT_DATA_RECEIVE: only the next SEQ in order is accepted, and only in ACTIVE (R262, R266, R271). -/
def execFlitDataReceive (n : Nat) (f : Flit) (s : State) : Host.Outcome State Fault Refusal :=
  s.arriveFlit n 1 f fun s =>
    if (s.portAt n).state != .active then s
    else if hdrSeq f.hdr = (s.portAt n).rxNext then
      (if hdrVc f.hdr < 3 ∨ hdrVc f.hdr = 5 then s.wakeSleep else s).modPort n fun q => q.takeData f
    else s.modPort n Port.refuseFlit

/-- FLIT_IDLE_RECEIVE: an acknowledgement and a credit return (R264). -/
def execFlitIdleReceive (n : Nat) (f : Flit) (s : State) : Host.Outcome State Fault Refusal := s.arriveFlit n 0 f fun s => s

/-- A DARK flit in order starts the dark procedure here too (R288). -/
def execFlitDarkReceive (n : Nat) (f : Flit) (s : State) : Host.Outcome State Fault Refusal :=
  s.arriveFlit n 4 f fun s =>
    if hdrSeq f.hdr = (s.portAt n).rxNext then s.modPort n fun q => { q.inOrder with darkRcvd := true, darkReq := true }
    else s.modPort n Port.refuseFlit

/-- FLIT_NAK_RECEIVE: every held flit after ACK is sent again. The sixteenth rewind without progress is a retry storm: the port retrains, its lanes being
judged at once by what they showed, and a second one within 1 s of its return to ACTIVE takes it DOWN (R271, R272). -/
def execFlitNakReceive (n : Nat) (f : Flit) (lanes : List LaneStat) (codewords : List Nat) (s : State) : Host.Outcome State Fault Refusal :=
  s.arriveFlit n 3 f fun s =>
    let s1 := s.modPort n fun q => { q with resend := q.held.map (·.1), retry := satAdd max48 q.retry, rewinds := q.rewinds + 1 }
    let q := s1.portAt n
    if q.rewinds < 16 then s1
    else if (match q.stormAt with | some t => decide ((s.refTick - t).toNat ≤ secondTicks) | none => false) then s1.portDown n 7
    else
      let s2 := s1.degrade n (unhealthy lanes codewords)
      s2.modPort n fun q => { (if q.state == .retrain then q else { q.toRetrain with fullTrain := false }) with rewinds := 0, stormed := true }

/-- Whether two HELLOs differ in a compared field (R277). -/
def Hello.differs (a b : Hello) : Bool :=
  a.serial != b.serial || a.port != b.port || a.dir != b.dir || a.slot != b.slot || a.aqpMaj != b.aqpMaj || a.aqpMin != b.aqpMin ||
    a.fwMaj != b.fwMaj || a.fwMin != b.fwMin

/-- The peer's fields are recorded (Tables 11-7, 11-9). -/
def Port.recordHello (q : Port) (h : Hello) : Port :=
  { q with peerSerial := h.serial, peerPort := h.port.toNat % 64, peerDir := h.dir.toNat % 16, peerSlot := h.slot.toNat % 8, peerAqpMaj := h.aqpMaj.toNat
           peerAqpMin := h.aqpMin.toNat, peerFwMaj := h.fwMaj.toNat, peerFwMin := h.fwMin.toNat, peerTag := h.tag, lastHello := some h }

/-- A link that comes back to another peer loses its messages, within the hold by going DOWN with the hold's reason, and starts discovery with the new one
(R287, R289). -/
def State.newPeer (s : State) (n : Nat) (h : Hello) : State :=
  let q := s.portAt n
  let s1 := if q.holding then s.portDown n q.holdReason else s.loseMessages n
  s1.modPort n fun x =>
    { x.freshLink with state := .hello, reason := 0, holding := false, darkKept := false, lastHello := some h, helloDue := true, lanes := lanesFor q.lanesOk, width := widthOf q.lanesOk }

/-- FLIT_HELLO_RECEIVE (R277, R279, R286). -/
def execFlitHelloReceive (n : Nat) (f : Flit) (s : State) : Host.Outcome State Fault Refusal :=
  s.arriveFlit n 2 f fun s =>
    let h := Hello.decode f.payload
    let q := s.portAt n
    let s1 := s.modPort n fun q => q.recordHello h
    if q.resuming then
      if q.peerSerial == h.serial && decide (q.peerPort = h.port.toNat % 64) then s1.tryResume n else (s1.newPeer n h).tryDiscover n
    else if q.discovered && q.state != .retrain && (match q.lastHello with | some o => o.differs h | none => true) then s1.outcome n
    else s1.tryDiscover n

/-! ## Timers -/

/-- NAK_REPEAT (R271). -/
def execNakRepeat (n : Nat) (s : State) : Host.Outcome State Fault Refusal :=
  if nPorts ≤ n then .fault (.noSuchUnit "port" n)
  else .next (s.modPort n fun q => if q.discard then { q with nakDue := true } else q)

/-- ACK_TIMER: an acknowledgement is due; the next flit slot carries it (R264, R271). -/
def execAckTimer (n : Nat) (s : State) : Host.Outcome State Fault Refusal :=
  if nPorts ≤ n then .fault (.noSuchUnit "port" n)
  else .next (s.modPort n fun q => if q.trained && q.rxAny then { q with ackDue := true } else q)

/-- HELLO_TIMER: a HELLO is due in every state but DISABLED and DOWN (R277). -/
def execHelloTimer (n : Nat) (s : State) : Host.Outcome State Fault Refusal :=
  if nPorts ≤ n then .fault (.noSuchUnit "port" n)
  else .next (s.modPort n fun q => if q.greets then { q with helloDue := true } else q)

/-! ## Training (R276, R284) -/

/-- Light at a port's laser input (R261, R467). -/
def State.litAt (s : State) (n : Nat) : Bool := if n % 4 < 2 then (s.laserAt (n / 4)).lit0 else (s.laserAt (n / 4)).lit1

/-- A port goes DOWN where its input is dark, otherwise it trains. -/
def State.startPort (s : State) (n : Nat) (full : Bool) : State := if s.litAt n then s.train n full else s.portDown n 1

/-- One failed attempt: after the third the port goes DOWN (R276). -/
def State.attemptFailed (s : State) (n reason : Nat) : State :=
  if 2 ≤ (s.portAt n).attempts then s.portDown n reason
  else (s.train n true).modPort n fun q => { q with attempts := q.attempts + 1 }

/-- Why a full training failed (Table 11-3): no signal came, no lane passed, or it did not complete. -/
def trainFailure (signal ok : Bool) : Nat := if !signal then 2 else if ok then 5 else 3

/-- Whether a training of the port can end now: not in a handoff window, and ports held as it ended come before the others (R294). -/
def State.trainTurn (s : State) (n : Nat) : Bool :=
  !s.fw.handoff && (s.fw.trainFirst.contains n || s.fw.trainFirst.all fun m =>
    let q := s.portAt m
    !(q.state == .retrain && q.holding && !q.resume))

/-- TRAINING_COMPLETE: whether the far end's signal was there, whether training completed, the lanes healthy in both directions. -/
def execTrainingComplete (n : Nat) (signal ok : Bool) (lanesOk : BitVec 4) (s : State) : Host.Outcome State Fault Refusal :=
  if nPorts ≤ n then .fault (.noSuchUnit "port" n)
  else
    let q := s.portAt n
    if q.state != .train || !s.trainTurn n then .next s
    else
      let lanes := if q.fullTrain then lanesOk else q.lanesOk &&& lanesOk
      if signal && ok && decide (lanes ≠ 0) then
        .next ((s.modPort n fun q =>
          let q1 := if q.darkKept then { q with lastHello := none, seenSent := false, discovered := false } else q.freshLink
          { q1 with state := .hello, reason := 0, helloDue := true }).takeLanes n lanes)
      else if !q.fullTrain then .next (s.modPort n fun q => { q with fullTrain := true })
      else .next (s.attemptFailed n (trainFailure signal ok))

/-- HELLO_TIMEOUT: no valid HELLO within 100 ms of training (R276). -/
def execHelloTimeout (n : Nat) (s : State) : Host.Outcome State Fault Refusal :=
  if nPorts ≤ n then .fault (.noSuchUnit "port" n)
  else if (s.portAt n).state == .hello && !(s.portAt n).discovered then .next (s.attemptFailed n 4)
  else .next s

/-- DOWN_RETRY_TIMER: firmware tries a DOWN port again, but for FENCED and DARK_TIMEOUT (R276); not in a handoff window (R294). -/
def execDownRetryTimer (n : Nat) (s : State) : Host.Outcome State Fault Refusal :=
  if nPorts ≤ n then .fault (.noSuchUnit "port" n)
  else
    let q := s.portAt n
    if q.state == .down && decide (q.reason ≠ 9 ∧ q.reason ≠ 8) && !s.fw.handoff && s.litAt n then .next (s.train n true) else .next s

/-! ## Lanes (R282–R287) -/

/-- LANE_EVAL_WINDOW: the lanes of an ACTIVE port over 1 s, its codewords by symbols corrected, and its retry burst (R274, R282, R285). -/
def execLaneEvalWindow (n : Nat) (lanes : List LaneStat) (codewords : List Nat) (s : State) : Host.Outcome State Fault Refusal :=
  if nPorts ≤ n then .fault (.noSuchUnit "port" n)
  else if (s.portAt n).state != .active || s.fw.handoff then .next s
  else
    let ls := (List.range 4).zip lanes
    let s1 := s.modPort n fun q =>
      { q with
        laneSym := ls.foldl (fun m l => Map.upd 0 m l.1 fun x => satAdd max64 x l.2.symbols) q.laneSym
        laneErr := ls.foldl (fun m l => Map.upd 0 m l.1 fun x => satAdd max48 x l.2.bitErrs) q.laneErr
        cwHist := ((List.range 17).zip codewords).foldl (fun m c => Map.upd 0 m c.1 fun x => satAdd max48 x c.2) q.cwHist
        retryAt := q.retry }
    let q := s.portAt n
    let s2 := if 64 < q.retry - q.retryAt then s1.errorEvent 1 0x0401 (uPort n) [(10, .u (q.retry - q.retryAt))] else s1
    .next (s2.degrade n (unhealthy lanes codewords))

/-- LANE_LOSS_OF_LOCK: acted on at once (R282). -/
def execLaneLossOfLock (n lane : Nat) (s : State) : Host.Outcome State Fault Refusal :=
  if nPorts ≤ n then .fault (.noSuchUnit "port" n)
  else if 4 ≤ lane then .fault (.noSuchUnit "lane" lane)
  else if (s.portAt n).state != .active then .next s
  else .next (s.degrade n (1#4 <<< lane))

/-- RETRAIN_COMPLETE: the port resumes go-back-N; a failed retrain is a link loss. Within the hold it exchanges RESUME first; there a failed
stored-equalisation training is followed by full training, which alone regains lanes, and a failed full training leaves its reason (R283, R284, R286,
R287). -/
def execRetrainComplete (n : Nat) (signal ok : Bool) (lanesOk : BitVec 4) (s : State) : Host.Outcome State Fault Refusal :=
  if nPorts ≤ n then .fault (.noSuchUnit "port" n)
  else
    let q := s.portAt n
    if q.state != .retrain || q.resume || !s.trainTurn n then .next s
    else
      let lanes := if q.holding && q.fullTrain then lanesOk else q.lanesOk &&& lanesOk
      if !(signal && ok) || decide (lanes = 0) then
        .next (if !q.holding then s.beginHold n 6
          else s.modPort n fun q => { q with fullTrain := true, holdReason := if q.fullTrain then trainFailure signal ok else q.holdReason })
      else if q.holding then
        .next ((s.modPort n fun q => { q with resume := true, lastHello := none, seenSent := false, helloDue := true }).takeLanes n lanes)
      else
        .next (((s.modPort n fun q => { q with resend := q.held.map (·.1) }).takeLanes n lanes).reactivate n)

/-- LINK_LOSS: every lane of a port outside DARK loses lock (R286). -/
def execLinkLoss (n : Nat) (s : State) : Host.Outcome State Fault Refusal :=
  if nPorts ≤ n then .fault (.noSuchUnit "port" n)
  else
    let q := s.portAt n
    if q.trained || q.state == .retrain then .next (s.beginHold n 6) else .next s

/-- LINK_HOLD_EXPIRY (R287). -/
def execLinkHoldExpiry (n : Nat) (s : State) : Host.Outcome State Fault Refusal :=
  if nPorts ≤ n then .fault (.noSuchUnit "port" n)
  else if (s.portAt n).state == .retrain && (s.portAt n).holding then .next (s.portDown n (s.portAt n).holdReason) else .next s

/-- ANCHOR_LOSS_OF_LOCK: the anchor port holds in RETRAIN, the reference falls back to local and stays there until a PORT_RESET (R291, R427). -/
def execAnchorLossOfLock (n : Nat) (s : State) : Host.Outcome State Fault Refusal :=
  if nPorts ≤ n then .fault (.noSuchUnit "port" n)
  else if !(s.portAt n).anchor then .next s
  else .next (s.beginHold n 6)

/-- What a port failed and received over the hour since the last check (R331). -/
def Port.hour (q : Port) : Nat × Nat := (q.crcFail - q.crcHour, q.rxFlits - q.rxHour)

/-- LINK_QUALITY: the hourly check of a port's FLIT_CRC_FAIL against 10⁻¹² of its RX_FLITS (R331). -/
def execLinkQuality (n : Nat) (s : State) : Host.Outcome State Fault Refusal :=
  if nPorts ≤ n then .fault (.noSuchUnit "port" n)
  else
    let x := (s.portAt n).hour
    let s1 := s.modPort n fun q => { q with crcHour := q.crcFail, rxHour := q.rxFlits }
    .next (if x.2 < x.1 * 10 ^ 12 then s1.crumbOut 0 0x0407 (uPort n) [(10, .u x.1)] else s1)

/-! ## Dark periods -/

/-- EV_DARK_DONE to the steward (Table 11-16). -/
def State.darkDone (s : State) (n : Nat) : State :=
  match s.stewardPort with | some p => s.event p none (.darkDone (1#64 <<< n)) | none => s

/-- The dark procedure starts on a port; one in RETRAIN or under a hold goes dark at once with its replay buffer kept (R288, R289). -/
def State.goDark (s : State) (n : Nat) : State :=
  let q := s.portAt n
  if q.state == .retrain then
    ((s.modPort n fun q => { q with state := .dark, reason := 0, darkKept := true, holding := false, resume := false, fullTrain := decide (widthOf q.lanesOk < 4), width := 0, lanes := 0, before := q.before }).dropAnchor n).darkDone n
  else if q.trained then s.modPort n fun q => { q with darkReq := true }
  else s

/-- DARK_ENTERED: both DARK flits are exchanged and this side's is acknowledged. -/
def execDarkEntered (n : Nat) (s : State) : Host.Outcome State Fault Refusal :=
  if nPorts ≤ n then .fault (.noSuchUnit "port" n)
  else
    let q := s.portAt n
    if !(q.trained && q.darkReq && q.darkSent && q.darkRcvd) || q.held.any (fun h => decide (h.2.vc = 8)) then .next s
    else .next (((s.modPort n fun q =>
      { q with state := .dark, reason := 0, fullTrain := decide (q.width < 4), width := 0, lanes := 0, darkReq := false, darkSent := false, darkRcvd := false }).dropAnchor n).darkDone n)

/-- Relight: stored-equalisation training at width 4, otherwise full training (Table 11-16); a port whose input has no light goes DOWN (R261). -/
def State.relight (s : State) (n : Nat) : State :=
  let q := s.portAt n
  if q.state == .dark then s.startPort n q.fullTrain else s

/-- PEER_TRAINING_SIGNAL relights a dark port. -/
def execPeerTrainingSignal (n : Nat) (s : State) : Host.Outcome State Fault Refusal :=
  if nPorts ≤ n then .fault (.noSuchUnit "port" n) else .next (s.relight n)

/-- DARK_TIMEOUT: still DARK after DARK_MAX seconds (R289). -/
def execDarkTimeout (n : Nat) (s : State) : Host.Outcome State Fault Refusal :=
  if nPorts ≤ n then .fault (.noSuchUnit "port" n)
  else if (s.portAt n).state == .dark then .next (s.portDown n 8) else .next s

/-! ## Messages -/

/-- A message about one partition, sent by its owner or the steward; an undefined partition is RANGE. -/
def State.partMsg (s : State) (h : MsgHdr) (ty : BitVec 16) (body : Nat → State → Nat × State × List Byte) : Host.Outcome State Fault Refusal :=
  .next (s.message h ty .owner fun s =>
    let p := h.part.toNat
    if nParts ≤ p ∨ (s.partAt p).valid = false then refuse s stRange else body p s)

/-- The ports of a mask. -/
def maskPorts (mask : Word) : List Nat := (List.range nPorts).filter fun n => mask.getLsbD n

/-- A message that names ports: all of pairs the partition owns, else FOREIGN (Table 14-10). -/
def State.portMsg (s : State) (h : MsgHdr) (ty : BitVec 16) (mask : Word) (body : Nat → State → State) : Host.Outcome State Fault Refusal :=
  s.partMsg h ty fun p s => if (maskPorts mask).all fun n => (s.partAt p).pairs.getLsbD (n / 2) then accept (body p s) else refuse s stForeign

/-- DARK (R288). -/
def execDark (h : MsgHdr) (mask : Word) (s : State) : Host.Outcome State Fault Refusal :=
  s.portMsg h 0x0086 mask fun _ s => (maskPorts mask).foldl State.goDark s

/-- RELIGHT (R288). -/
def execRelight (h : MsgHdr) (mask : Word) (s : State) : Host.Outcome State Fault Refusal :=
  s.portMsg h 0x0087 mask fun _ s => (maskPorts mask).foldl State.relight s

/-- PORT_CNT_CLEAR (R274). -/
def Port.clearCounters (q : Port) : Port :=
  { q with laneSym := [], laneErr := [], cwHist := [], crcFail := 0, nakSent := 0, retry := 0, retryAt := 0, replayHwm := 0, linkDown := 0, degrade := 0, quar := 0
           stall := [], txFlits := 0, rxFlits := 0, crcHour := 0, rxHour := 0, msgLost := 0, refused := 0 }

def execPortCntClear (h : MsgHdr) (mask : Word) (s : State) : Host.Outcome State Fault Refusal :=
  s.portMsg h 0x0083 mask fun _ s => (maskPorts mask).foldl (fun s n => s.modPort n Port.clearCounters) s

/-- A full retrain; messages of the port not yet acknowledged are lost (R276, R287). -/
def State.resetPort (s : State) (n : Nat) : State :=
  let q := s.portAt n
  if q.state == .disabled then s
  else
    let s1 := (s.loseMessages n).modPort n fun q => { q with attempts := 0, darkKept := false, anchor := false, resume := false, stormed := false, stormAt := none }
    let s2 := if q.anchor then { s1 with clk := { s1.clk with fabref := 0 } } else s1
    let s3 := if s.anchorNamed n then { s2 with clk := { s2.clk with anchorWait := false } } else s2
    s3.startPort n true

/-- PORT_RESET (R276, R291). -/
def execPortReset (h : MsgHdr) (mask : Word) (s : State) : Host.Outcome State Fault Refusal :=
  s.portMsg h 0x0084 mask fun _ s => ((maskPorts mask).foldl State.resetPort s).takeAnchor

/-- PORT_UNFENCE: the named logical ports (R306). -/
def execPortUnfence (h : MsgHdr) (mask : Word) (s : State) : Host.Outcome State Fault Refusal :=
  s.portMsg h 0x0085 mask fun p s => s.modPart p fun q => { q with fence := q.fence &&& ~~~mask }

/-- A plan write takes effect at once; a port with discovery complete re-runs R279 (R278). -/
def State.replan (s : State) (n : Nat) : State :=
  let q := s.portAt n
  if q.discovered && (q.state == .standby || q.state == .quarantine) then s.outcome n else s

/-- PLAN_WRITE (R278): of several reasons to refuse it the lowest status answers (R368), BUSY first. -/
def execPlanWrite (h : MsgHdr) (port : Nat) (w0 w1 : Word) (s : State) : Host.Outcome State Fault Refusal :=
  .next (s.message h 0x0080 .owner fun s =>
    let p := h.part.toNat
    if port < nPorts ∧ ((s.portAt port).state = .active ∨ (s.portAt port).state = .retrain) then refuse s stBusy
    else if nParts ≤ p ∨ (s.partAt p).valid = false ∨ nPorts ≤ port ∨ bits w1.toNat 62 56 ≠ 0 ∨ bits w1.toNat 47 0 ≠ 0 ∨ 63 < bits w1.toNat 55 48 then refuse s stRange
    else if !(s.partAt p).pairs.getLsbD (port / 2) then refuse s stForeign
    else accept ((s.modPort port fun q => { q with plan0 := w0, plan1 := w1 }).replan port))

/-- PLANCTL_WRITE (Table 11-13): DARK_MAX 0 is refused; ports with discovery complete re-run R279. -/
def execPlanctlWrite (h : MsgHdr) (word : Word) (s : State) : Host.Outcome State Fault Refusal :=
  s.partMsg h 0x0081 fun p s =>
    let w := word.toNat
    if bits w 27 20 = 0 ∨ bits w 63 32 ≠ 0 ∨ bits w 30 28 ≠ 0 ∨ bits w 19 18 ≠ 0 then refuse s stRange
    else
      let s1 := s.modPart p fun q =>
        { q with planValid := word.getLsbD 31, darkMax := BitVec.ofNat 8 (bits w 27 20), degrade := BitVec.ofNat 6 (bits w 17 12), relabel := BitVec.ofNat 12 (bits w 11 0) }
      accept (((List.range nPorts).filter fun n => (s1.partAt p).pairs.getLsbD (n / 2)).foldl State.replan s1)

/-- BROUTE_WRITE (R290). -/
def execBrouteWrite (h : MsgHdr) (index : Nat) (mask : Word) (s : State) : Host.Outcome State Fault Refusal :=
  s.partMsg h 0x0082 fun p s =>
    if 8 ≤ index then refuse s stRange
    else if !(maskPorts mask).all fun n => (s.partAt p).pairs.getLsbD (n / 2) then refuse s stForeign
    else accept ((s.modPart p fun q => { q with broute := Map.put 0 q.broute index mask }).retryBoards)

end Sys2Proof.Machine
end

