-- ==== Sys2Proof/Machine/Mem.lean ====
section
/-! DEFINITION. Stacks on their own and as other agents use them (chapter 08): patrol scrub, row repair, pitch changes, requests of other packages. -/

namespace Sys2Proof.Machine

/-- Lines of a stack. -/
def stackLines : Nat := 1342177280



/-- SCRUB_LINE: the next line of the patrol scrub with `badSymbols` symbols in error (R204); it stands still in self-refresh and before a bank a row
repair holds. -/
def execScrubLine (stack badSymbols : Nat) (s : State) : Host.Outcome State Fault Refusal :=
  if nStacks ≤ stack then .fault (.noSuchUnit "stack" stack)
  else
    let x := s.stackAt stack
    let line := stack * stackBytes + 64 * x.pos
    if x.selfRefresh || x.fenced || x.maint || s.bankHeld line then .next s
    else
      let s1 :=
        if 2 ≤ badSymbols ∨ s.poisoned line = true then (s.spoil line).errorEvent 1 0x0102 (uStack stack) [(10, .u line)]
        else if badSymbols = 1 then s.lineCorrected line
        else s
      .next (s1.modStack stack fun x =>
        if x.pos + 1 = stackLines then { x with pos := 0, passes := if x.passes = BitVec.allOnes 32 then x.passes else x.passes + 1 }
        else { x with pos := x.pos + 1 })

/-- Rows no longer due for repair, and the history that made them so. -/
def Stack.settleRow (x : Stack) (row : Nat) : Stack :=
  { x with rowsDue := x.rowsDue.filter fun r => decide (r ≠ row), ceAt := x.ceAt.filter fun e => decide (e.1 ≠ row) }

/-- ROW_REPAIR: soft post-package repair of a row with 4 corrected reads within 24 h or one uncorrectable one (R205). The table has one command for it
and the rule a hold of the bank while it lasts: the first ROW_REPAIR of a row that is due takes the bank, the next one of that row ends the repair
(DESIGN CHOICE, log 89). `uncorr` are the row's lines that do not correct while they are staged; poisoned lines stay poisoned. With no repair resource
left the row stays in service. -/
def execRowRepair (stack row : Nat) (uncorr : List Nat) (s : State) : Host.Outcome State Fault Refusal :=
  if nStacks ≤ stack then .fault (.noSuchUnit "stack" stack)
  else
    let x := s.stackAt stack
    if x.fenced then .next s
    else if x.repair = some row then
      let s1 := (uncorr.filter fun l => decide (l < stackLines ∧ rowOf (64 * l) = row)).foldl (fun (s : State) l => s.spoil (stack * stackBytes + 64 * l)) s
      .next ((s1.modStack stack fun x =>
        { x.settleRow row with pprDone := satAdd 255 x.pprDone, pprLeft := x.pprLeft - 1, repair := none, softRows := x.softRows ++ [row] }).crumbOut 0 0x0103
          (uStack stack) [(10, .u row)])
    else if x.repair.isSome || !x.rowsDue.contains row then .next s
    else if x.pprLeft = 0 then .next ((s.modStack stack fun x => x.settleRow row).crumbOut 0 0x0104 (uStack stack) [(10, .u row)])
    else .next (s.modStack stack fun x => { x with repair := some row })

/-! ## Pitch -/

/-- The channel that serves 16 KiB unit `u` of a stack at a pitch code (R190). -/
def channelOf (code u : Nat) : Nat := if code < 5 then u % 32 else (u / 2 ^ code + u) % 32

/-- The unit of the same aligned group of 32 that a channel serves at a pitch code. -/
def unitOn (code u ch : Nat) : Nat :=
  ((List.range 32).find? fun j => decide (channelOf code (u / 32 * 32 + j) = ch)).elim u (u / 32 * 32 + ·)

/-- Where the contents of a byte of granule `g` stand after its pitch changes from `c0` to `c1` (R191): the cell keeps its channel and group. -/
def repitch (k g c0 c1 a : Nat) : Nat :=
  if stackOf a = k ∧ granOf a = g then
    let o := a % stackBytes
    k * stackBytes + unitOn c1 (o / 16384) (channelOf c0 (o / 16384)) * 16384 + o % 16384
  else a

/-- Whether some access to the granule is in flight: a scoreboard entry, a write-back or a lock on one of its lines. -/
def State.granBusy (s : State) (k g : Nat) : Bool :=
  let lo := k * stackBytes + g * 2 ^ 30
  let inside := fun (l : Nat) => decide (lo ≤ l ∧ l < lo + 2 ^ 30)
  s.locks.any (fun l => inside l.1) ||
    s.tile.any fun t => (t.2.sb.any fun e => anyOverlap (e.reads ++ e.writes) [.ext (lo / 16384) (lo / 16384 + 65535)]) ||
      t.2.str.any fun x => match x.2.wb with | some w => w.lines.any inside | none => false

/-- PITCH_APPLY: with no access to the granule in flight its new pitch takes effect; no data moves, so addresses reach other cells (R191). -/
def execPitchApply (stack g : Nat) (s : State) : Host.Outcome State Fault Refusal :=
  if nStacks ≤ stack then .fault (.noSuchUnit "stack" stack)
  else if 80 ≤ g then .fault (.noSuchUnit "granule" g)
  else
    let x := s.stackAt stack
    match x.pitchPend.find? fun e => decide (e.1 = g) with
    | none => .next s
    | some e =>
      if s.granBusy stack g then .next s
      else
        let w := Map.get 0 x.gran g
        let f := repitch stack g (granPitch w).toNat e.2.toNat
        let s1 := s.modStack stack fun x =>
          { x with gran := Map.put 0 x.gran g (granWord (granOwned w) (granPart w) e.2), pitchPend := x.pitchPend.filter fun y => decide (y.1 ≠ g) }
        .next { s1 with
          mem := s.mem.foldl (fun (m : Map Byte) b => Map.put 0 m (f b.1) b.2) []
          poison := s.poison.foldl (fun (m : Map Bool) b => Map.put false m (f b.1) b.2) [] }

/-! ## Requests of other packages -/

/-- The partition a board request acts for (R193): it has the request's job tag, owns the granule and does not protect the line. -/
def State.boardPart (s : State) (r : BoardReq) : Option Nat :=
  let a := r.addr.toNat
  if 0xF000000000 ≤ a then none
  else (List.range nParts).find? fun p =>
    let q := s.partAt p
    q.valid && q.job && q.tag == r.tag && s.owns p a && !s.protectedAt p (a / 64 * 64)

/-- The response leaves on VC4 of the port that carried the request (R290). -/
def State.boardAnswer (s : State) (port : Nat) (refused : Bool) (data : List Byte) : State :=
  (s.queueMessage port 4 .other (Config.boardReply refused data)).emit (.boardResp port refused data)

/-- The router takes a request from the port's receive buffer (R266, R267). -/
def State.takeBoard (s : State) (port : Nat) (r : BoardReq) : State := s.takeMessage port 3 (Config.boardPayload r.tag r.addr r.write)

/-- BOARD_REQUEST_RECEIVE: one line read or written for another package, or refused (R193). A line a pour has locked or a pitch change holds is reached
later, the request waiting in the port's buffer; a poisoned one has no data to answer with. On a port fenced for the partition it is discarded and
counted (R306, log 99). -/
def execBoardRequestReceive (port : Nat) (r : BoardReq) (s : State) : Host.Outcome State Fault Refusal :=
  if nPorts ≤ port then .fault (.noSuchUnit "port" port)
  else if (s.portAt port).front 3 ≠ some (Config.boardPayload r.tag r.addr r.write) then .next s
  else match s.boardPart r with
  | none =>
    .next ((((s.takeBoard port r).modPort port fun x => { x with refused := x.refused + 1 }).crumbOut 2 0x0201 (uPort port) [(10, .u r.addr.toNat)]).boardAnswer port true [])
  | some p =>
    let line := r.addr.toNat / 64 * 64
    let u := s.takeBoard port r
    if s.fencedAt p port then .next (u.countClx p 10)
    else if (s.lockOf line).isSome || s.lineHeld line then .next s
    else match r.write with
    | some bs => .next ((u.writeLine none line (slice bs 0 64)).boardAnswer port false [])
    | none =>
      if s.poisoned line then .next ((u.spoil line).boardAnswer port true [])
      else .next (u.boardAnswer port false (s.memRead line 64))

end Sys2Proof.Machine
end

