-- ==== Sys2Proof/Machine/Part.lean ====
section
/-! DEFINITION. Partitions (chapter 14): the partition table and the switching of units (R375–R378), leases and orphans (R379–R381), the messages that
start, stop and park programs (R372, R373), proving control and maintenance (R349). -/

namespace Sys2Proof.Machine

/-- A steward's message. -/
def State.stewMsg (s : State) (h : MsgHdr) (ty : BitVec 16) (body : State → Nat × State × List Byte) : Host.Outcome State Fault Refusal :=
  .next (s.message h ty .steward body)

/-- Whether the package is in deep sleep (R434). -/
def State.inDeep (s : State) : Bool := decide (s.pwr.state = .deep ∨ s.pwr.state = .deepExit)

/-- Whether deep sleep, or the retention of the safe state (R339, log 29), answers this request BUSY (R434). -/
def State.deepAsleep (s : State) : Bool := s.inDeep || s.safeState

/-! ## Programs -/

/-- The partition owns the loaf (R372): the descriptor's PARTITION, or the tile's owner. -/
def State.ownsLoaf (s : State) (p : Nat) (r : BitVec 16) : Bool :=
  s.refNames r && if refIsTile r then decide (s.tilePart (refTile r) = some p) else decide ((s.loafAt (refIndex r)).part = p)

/-- DEGRADED of a loaf; a tile by itself where it is absent. -/
def State.refDegraded (s : State) (r : BitVec 16) : Bool := if refIsTile r then s.tileAbsent (refTile r) else (s.loafAt (refIndex r)).degraded

/-- A stream begins a program (R37, R118, R120, R152, R159): step number, PC, loaf values, empty fetch buffer, clear TILE_FAULT. -/
def Stream.begin_ (x : Stream) (p : Nat) (loaf : BitVec 16) (entry : BitVec 48) (step : BitVec 32) (member rank size : Nat) : Stream :=
  let put := fun (m : Map Word) (r v : Nat) => Map.put 0 m r (BitVec.ofNat 64 v)
  { x with
    run := true, step := step, waiting := false, cause := .host, loaf := loaf, part := p, pc := entry, fetchBuf := [], fetchBad := [], fault := {}, halt := none
    sreg := put (put (put (put x.sreg 12 member) 13 rank) 14 size) 15 loaf.toNat
    brew := {} }

/-- The step number a START sets opens the partition's steps while a job is loaded (R111, R115). -/
def Part.openAt (q : Part) (step : BitVec 32) : Part :=
  if !q.job then q
  else match q.s0 with
  | none => Part.applyStaged { q with s0 := some step.toNat, oldest := step.toNat } step
  | some k => { q with s0 := some (min k step.toNat), oldest := if q.closedAny then q.oldest else min q.oldest step.toNat }

/-- A program begins on a loaf: combined issues its stream's earlier program left unfinished are dropped, and, where no other program of the loaf runs,
its combined SIGNALs too, with the entries their members hold; the counts of generations begin anew (log 86). -/
def State.clearCombining (s : State) (loaf : BitVec 16) (st : StreamId) : State :=
  let alone := !s.runs.any fun r => r.loaf == loaf
  let goes := fun (l : BitVec 16) (x : Option StreamId) => l == loaf && (x == some st || (alone && x == none))
  let ids := (s.comb.filter fun c => goes c.loaf c.stream).flatMap (·.ids)
  let s1 : State := { s with gens := s.gens.filter fun g => !goes g.loaf g.stream, comb := s.comb.filter fun c => !goes c.loaf c.stream }
  ids.foldl (fun s x => s.modTile x.1 fun t => { t with sb := t.sb.filter fun e => decide (e.op ≠ x.2) }) s1

/-- Whether firmware has released the die of every one of these tiles to stream programs (R41, R144). -/
def State.allReleased (s : State) (tiles : List Nat) : Bool := tiles.all fun n => (s.dieAt (tileDie n)).released

/-- START (R372). No stream runs on a die whose tiles are not released (R144): such a START is BUSY (log 88). -/
def execStart (h : MsgHdr) (loaf : BitVec 16) (st : StreamId) (entry : BitVec 48) (step : BitVec 32) (s : State) : Host.Outcome State Fault Refusal :=
  s.partMsg h 0x0010 fun p s =>
    let tiles := s.loafTiles loaf
    if s.deepAsleep then refuse s stBusy
    else if !s.ownsLoaf p loaf then refuse s stForeign
    else if s.refDegraded loaf then refuse s stDegraded
    else if !s.allReleased tiles then refuse s stBusy
    else if tiles.any fun n => (s.streamAt n st).run then refuse s stBusy
    else if entry.toNat % 16 ≠ 0 ∨ s.ownsRegion p entry.toNat 16 = false then refuse s stRange
    else
      let size := tiles.length
      let s1 := ((List.range size).zip tiles).foldl (fun (s : State) x =>
        (s.modStream x.2 st fun y => y.begin_ p loaf entry step (s.memberIndex loaf x.2) x.1 size).modTile x.2 fun t =>
          { t with deferred := t.deferred.filter fun d => d.stream != st }) s
      let run : LoafRun := { loaf := loaf, stream := st, part := p, members := tiles, left := tiles }
      let s1 := s1.clearCombining loaf st
      let s2 : State := { s1 with runs := s1.runs ++ [run] }
      let keep := fun (x : PartSt) => x = .orphan ∨ x = .parking
      accept ((s2.modPart p fun q => { q.openAt step with state := if keep q.state then q.state else .run }).refreshBusy)

/-- STOP (R373). -/
def execStop (h : MsgHdr) (loaf : BitVec 16) (streams : BitVec 3) (s : State) : Host.Outcome State Fault Refusal :=
  s.partMsg h 0x0011 fun p s =>
    if !s.ownsLoaf p loaf then refuse s stForeign
    else accept ((s.loafTiles loaf).foldl (fun (s : State) n =>
      (allStreams.filter fun st => streams.getLsbD st.code).foldl (fun (s : State) st => s.stopStream n st 1) s) s)

/-- PARK (R373). -/
def execPark (h : MsgHdr) (s : State) : Host.Outcome State Fault Refusal :=
  s.partMsg h 0x0012 fun p s => if (s.partAt p).state = .parked then accept s else accept (s.parkPart p)

/-- IDLE_CLEAR: at the boundary of the named step on each member tile (R142). -/
def execIdleClear (h : MsgHdr) (loaf : BitVec 16) (step : BitVec 32) (s : State) : Host.Outcome State Fault Refusal :=
  s.partMsg h 0x0013 fun p s =>
    if !s.ownsLoaf p loaf then refuse s stForeign
    else accept ((s.loafTiles loaf).foldl (fun (s : State) n => s.modTile n fun t => Tile.applyIdleClear { t with idleClear := t.idleClear ++ [step] }) s)

/-- PIN_CLEAR: PINS of the named shards becomes 0 (R162). -/
def execPinClear (h : MsgHdr) (tensor : BitVec 20) (first : BitVec 32) (count : Nat) (s : State) : Host.Outcome State Fault Refusal :=
  s.partMsg h 0x0014 fun p s =>
    let hit := fun (d : DirEntry) => d.valid && decide (d.part = p) && d.tensor == tensor && decide (first.toNat ≤ d.shard.toNat ∧ d.shard.toNat < first.toNat + count)
    accept { s with upe := Map.mapv {} (fun _ u => { u with dir := Map.mapv {} (fun _ d => if hit d then { d with pins := 0 } else d) u.dir }) s.upe }

/-! ## The partition table -/

/-- Directory entries partition `p` has on engine `e`. -/
def State.entriesUsed (s : State) (p e : Nat) : Nat := ((s.engineAt e).dir.filter fun d => d.2.valid && decide (d.2.part = p)).length

/-- Whether a partition owns any unit (R375). -/
def State.ownsAny (s : State) (p : Nat) : Bool :=
  (s.ptTile.any fun e => e.2.owned && decide (e.2.part = p)) || (s.partAt p).pairs != 0 ||
    s.stack.any fun k => k.2.gran.any fun g => granOwned g.2 && decide (granPart g.2 = p)

/-- LEASE_LEFT takes a full period (R379). -/
def Part.renewLease (q : Part) : Part := { q with leaseLeft := BitVec.ofNat 32 (100 * q.lease.toNat), leaseOn := true }

/-- PART_SET (R375, Table 14-11). -/
def execPartSet (h : MsgHdr) (a : PartSetArgs) (s : State) : Host.Outcome State Fault Refusal :=
  s.stewMsg h 0x0020 fun s =>
    let p := h.part.toNat
    let q := s.partAt p
    if p < nParts ∧ q.valid ∧ q.owner ≠ a.owner ∧ s.ownsAny p then refuse s stBusy
    else if nParts ≤ p ∨ a.orphan = 3 ∨ (a.orphan = 2 ∧ a.orphanN = 0) ∨ a.lease = 0 ∨ 4096 < a.quota.toNat ∨
        (List.range 12).any (fun e => decide (a.quota.toNat < s.entriesUsed p e)) then refuse s stRange
    else
      let q1 : Part := { q with
        valid := true, owner := a.owner, orphan := a.orphan, orphanN := a.orphanN, lease := a.lease, boardMask := a.boardMask, quota := a.quota
        state := if q.state = .free then .idle else q.state }
      accept (s.setPart p (if q.valid ∧ q.owner = a.owner then q1 else q1.renewLease))

/-- The owner of a pair (R375). -/
def State.pairOwner (s : State) (k : Nat) : Option Nat := (List.range nParts).find? fun p => (s.partAt p).pairs.getLsbD k
def maskPairs (m : BitVec 32) : List Nat := (List.range 32).filter fun k => m.getLsbD k

/-- The owner of a unit, and whether its switch is pending. -/
def State.unitOwner (s : State) : PartUnit → Option Nat
  | .tile n => s.tilePart n
  | .granule k g => let w := Map.get 0 (s.stackAt k).gran g; if granOwned w then some (granPart w) else none
  | .pair n => s.pairOwner n
def State.unitPending (s : State) : PartUnit → Bool
  | .tile n => (s.ptTileAt n).pending
  | .granule k g => Map.get false (s.stackAt k).granPend g
  | .pair n => (List.range nParts).any fun p => (s.partAt p).pairPend.getLsbD n

/-- The units a PART_ADD or PART_REMOVE names, and whether all exist and a pitch code is legal. -/
def unitsOf (tiles : List Nat) (grans : List GranSpec) (pairs : BitVec 32) : List PartUnit :=
  tiles.map PartUnit.tile ++ (grans.map fun g => PartUnit.granule g.stack g.g) ++ (maskPairs pairs).map PartUnit.pair
def pitchOk (c : BitVec 4) : Bool := c == 0 || decide (5 ≤ c.toNat)
def State.unitsExist (s : State) (tiles : List Nat) (grans : List GranSpec) : Bool :=
  (tiles.all fun n => decide (n < nTiles)) && grans.all fun g => decide (g.stack < nStacks ∧ g.g < 80) && pitchOk g.pitch && !(s.stackAt g.stack).fenced

/-- A pitch change waits for the memory controller (R191). -/
def State.setPitch (s : State) (k g : Nat) (code : BitVec 4) : State :=
  s.modStack k fun x =>
    let rest := x.pitchPend.filter fun y => decide (y.1 ≠ g)
    { x with pitchPend := if granPitch (Map.get 0 x.gran g) = code then rest else rest ++ [(g, code)] }

/-- EV_PART_DONE, to the partition's owner and to the steward (R376). -/
def State.partDone (s : State) (p : Nat) (e : Ev) : State :=
  let s1 := s.partEvent p e
  match s.stewardPort with
  | some x => if x = (s.partAt p).owner then s1 else s1.event x (some p) e
  | none => s1

/-- A free unit joins a partition at once (R377). -/
def State.addUnit (s : State) (p : Nat) : PartUnit → State
  | .tile n => s.setPtTile n { owned := true, part := p }
  | .granule k g => s.modStack k fun x => { x with gran := Map.upd 0 x.gran g fun w => granWord true p (granPitch w) }
  | .pair k =>
    let s1 := s.modPart p fun q => { q with pairs := q.pairs ||| (1#32 <<< k) }
    (s1.replan (2 * k)).replan (2 * k + 1)

/-- PART_ADD (R375, R377). -/
def execPartAdd (h : MsgHdr) (change : BitVec 32) (tiles : List Nat) (grans : List GranSpec) (pairs : BitVec 32) (s : State) : Host.Outcome State Fault Refusal :=
  s.stewMsg h 0x0021 fun s =>
    let p := h.part.toNat
    let us := unitsOf tiles grans pairs
    if s.deepAsleep then refuse s stBusy
    else if us.any fun u => s.unitPending u || (match s.unitOwner u with | some o => decide (o ≠ p) | none => false) then refuse s stBusy
    else if grans.any fun g => (s.stackAt g.stack).maint then refuse s stBusy
    else if nParts ≤ p ∨ (s.partAt p).valid = false ∨ s.unitsExist tiles grans = false then refuse s stRange
    else
      let s1 := us.foldl (fun (s : State) u => s.addUnit p u) s
      let s2 := grans.foldl (fun (s : State) g => s.setPitch g.stack g.g g.pitch) s1
      accept ((s2.modPart p fun q => { q with changeId := change }).partDone p (.partDone change us.length 0 0))

/-- Whether a granule of `[base, base + size)` is named (R376, JVALID and HVALID). -/
def State.regionIn (s : State) (base size : Nat) (grans : List GranSpec) : Bool :=
  (pieces base size).any fun x => match place s.pkg x.1 with
    | .mem b => grans.any fun g => decide (g.stack = stackOf b ∧ g.g = granOf b)
    | _ => false

/-- What a PART_REMOVE does to a unit at once (Table 14-13). -/
def State.closeUnit (s : State) (p : Nat) : PartUnit → State
  | .tile n => (s.modPtTile n fun e => { e with pending := true }).modTile n fun t => { t with noOpen := true }
  | .granule k g => s.modStack k fun x => { x with granPend := Map.put false x.granPend g true }
  | .pair k => s.modPart p fun q => { q with pairPend := q.pairPend ||| (1#32 <<< k) }

/-- PART_REMOVE (R376, R377). -/
def execPartRemove (h : MsgHdr) (change : BitVec 32) (tiles : List Nat) (grans : List GranSpec) (pairs : BitVec 32) (s : State) :
    Host.Outcome State Fault Refusal :=
  s.stewMsg h 0x0022 fun s =>
    let p := h.part.toNat
    let q := s.partAt p
    let us := unitsOf tiles grans pairs
    if s.deepAsleep || us.any s.unitPending then refuse s stBusy
    else if (q.jvalid && s.regionIn q.jregion journalBytes grans) || (q.hvalid && s.regionIn q.hregion healthBytes grans) then refuse s stBusy
    else if nParts ≤ p ∨ q.valid = false ∨ us.any (fun u => decide (s.unitOwner u ≠ some p)) then refuse s stRange
    else if us.isEmpty then accept ((s.modPart p fun q => { q with changeId := change }).partDone p (.partDone change 0 0 0))
    else
      let s1 := us.foldl (fun (s : State) u => s.closeUnit p u) s
      accept (s1.modPart p fun q => { q with changeId := change, changes := q.changes ++ [{ id := change, units := us }] })

/-- Whether a shard's block has a byte in a granule of its stack. -/
def DirEntry.inGranule (d : DirEntry) (g : Nat) : Bool := decide (d.base.toNat < (g + 1) * 2 ^ 30 ∧ g * 2 ^ 30 < d.base.toNat + d.blockSize)

/-- Whether a unit's switch may take place (Table 14-13). -/
def State.maySwitch (s : State) : PartUnit → Bool
  | .tile n =>
    let t := s.tileAt n
    (allStreams.all fun st => (t.streamAt st).brew.phase == .idle && (t.streamAt st).wb.isNone) && t.deliveries.isEmpty && t.copyQ.isEmpty &&
      !(s.tmapAt n).migrating && !(s.sigs.any fun g => g.tiles.contains n) && !s.tile.any fun e => e.2.copyQ.any fun c => c.members.contains n
  | .granule k g =>
    !s.granBusy k g && !(s.engineAt k).dir.any fun e => e.2.valid && e.2.inGranule g && (e.2.state == .waitpin || e.2.state == .updating)
  | .pair k =>
    [2 * k, 2 * k + 1].all fun n =>
      let q := s.portAt n
      q.held.isEmpty && q.openMsg.isEmpty && q.inbox.isEmpty && (List.range 8).all fun v => match q.ready v with | some f => f.som | none => true

/-- The switch of a unit that leaves a partition (Table 14-13), and the directory entries it invalidates. -/
def State.switchUnit (s : State) (p : Nat) : PartUnit → State × Nat
  | .tile n =>
    let s1 := allStreams.foldl (fun (s : State) st => s.endStream n st 2) s
    let s2 := (s1.setPtTile n { part := (s.ptTileAt n).part }).modTile n fun t => { t with noOpen := false }
    (s2.refreshDegraded, 0)
  | .granule k g =>
    let gone := (s.engineAt k).dir.filter fun e => e.2.valid && e.2.inGranule g
    let s1 := gone.foldl (fun (s : State) e => s.modDir k e.1 fun _ => {}) s
    (s1.modStack k fun x =>
      { x with gran := Map.upd 0 x.gran g fun w => granWord false 0 (granPitch w), granPend := Map.put false x.granPend g false }, gone.length)
  | .pair k =>
    let s1 := s.modPart p fun q => { q with pairs := q.pairs &&& ~~~(1#32 <<< k), pairPend := q.pairPend &&& ~~~(1#32 <<< k) }
    ([2 * k, 2 * k + 1].foldl (fun (s : State) n =>
      let s2 := s.loseMessages n
      if (s2.portAt n).discovered && (s2.portAt n).trained then s2.outcome n else s2) s1, 0)

/-- PART_UNIT_SWITCH: a unit of a PART_REMOVE reaches its safe point; with the last one EV_PART_DONE is due (R376). A switch waits out a journal replay
(R382). -/
def execPartUnitSwitch (p : Nat) (u : PartUnit) (s : State) : Host.Outcome State Fault Refusal :=
  if nParts ≤ p then .fault (.noSuchUnit "partition" p)
  else match (s.partAt p).changes.find? fun c => c.units.contains u && !c.switched.contains u with
  | none => .next s
  | some c =>
    if s.replayDue || !s.maySwitch u then .next s
    else
      let r := s.switchUnit p u
      let c1 : Change := { c with switched := c.switched ++ [u], entries := c.entries + r.2 }
      if c1.switched.length < c1.units.eraseDups.length then
        .next (r.1.modPart p fun q => { q with changes := q.changes.map fun x => if x = c then c1 else x })
      else
        .next ((r.1.modPart p fun q => { q with changes := q.changes.erase c }).partDone p (.partDone c1.id c1.switched.length c1.spilled c1.entries))

/-- PITCH_SET (R191). -/
def execPitchSet (h : MsgHdr) (stack g : Nat) (code : BitVec 4) (s : State) : Host.Outcome State Fault Refusal :=
  s.stewMsg h 0x0023 fun s =>
    if nStacks ≤ stack ∨ 80 ≤ g ∨ pitchOk code = false then refuse s stRange else accept (s.setPitch stack g code)

/-! ## Leases and orphans -/

/-- A partition's owner is lost (R379): cause 0 expiry, 1 link-down, 2 FLR, 3 RELEASE. -/
def State.orphanPart (s : State) (p cause : Nat) : State :=
  let q := s.partAt p
  if !q.valid || q.state == .orphan then s
  else
    let s1 := s.modPart p fun q => { q with state := .orphan, leaseOn := false, leaseLeft := 0, orphanLeft := if q.orphan = 2 then q.orphanN else 0 }
    let s2 := s1.crumbOut 0 0x0701 (uPart p) (s.partKeys p ++ [(10, .u cause)])
    let s3 := match s.stewardPort with
      | some x => if x = q.owner then s2 else s2.event x (some p) (.orphan p q.owner cause)
      | none => s2
    let s4 := (s3.runningOf p).foldl (fun (s : State) x =>
      if q.orphan = 1 then s.parkStream x.1 x.2 3
      else s.modStream x.1 x.2 fun y =>
        if y.halt.isSome then y else { y with halt := some { reason := 3, safe := true, steps := some (if q.orphan = 2 then q.orphanN.toNat else 1) } }) s3
    s4.checkParked p

/-- LEASE RENEW of one partition: the countdown reloads, and an orphan's policy is cancelled for streams that have not stopped (R379, R381). -/
def State.renewPart (s : State) (p : Nat) : State :=
  let q := s.partAt p
  let s1 := s.modPart p Part.renewLease
  if q.state = .orphan then
    ((s1.runningOf p).foldl (fun (s : State) x => s.modStream x.1 x.2 fun y =>
      { y with halt := match y.halt with | some h => if h.reason = 3 then none else some h | none => none }) s1).modPart p fun q => { q with state := .run }
  else s1

/-- A LEASE message: every named partition must be one the sender may act for. -/
def State.leaseMsg (s : State) (h : MsgHdr) (mask : Byte) (body : State → Nat → State) : Host.Outcome State Fault Refusal :=
  s.partMsg h 0x0001 fun _ s =>
    let ps := (List.range nParts).filter fun p => mask.getLsbD p
    if ps.any fun p => !s.permits { h with part := BitVec.ofNat 8 p } .owner then refuse s stDenied
    else if ps.any fun p => !(s.partAt p).valid then refuse s stRange
    else accept (ps.foldl body s)

/-- LEASE RENEW. -/
def execLeaseRenew (h : MsgHdr) (mask : Byte) (s : State) : Host.Outcome State Fault Refusal := s.leaseMsg h mask State.renewPart

/-- LEASE RELEASE. -/
def execLeaseRelease (h : MsgHdr) (mask : Byte) (s : State) : Host.Outcome State Fault Refusal := s.leaseMsg h mask fun s p => s.orphanPart p 3

/-- LEASE_EXPIRY: LEASE_LEFT has reached 0; countdowns pause in a handoff window (R382). -/
def execLeaseExpiry (p : Nat) (s : State) : Host.Outcome State Fault Refusal :=
  if nParts ≤ p then .fault (.noSuchUnit "partition" p)
  else
    let q := s.partAt p
    if q.valid && q.leaseOn && decide (q.leaseLeft = 0) && !s.fw.handoff then .next (s.orphanPart p 0) else .next s

/-- ORPHAN_STALL_TIMEOUT: under RUN_TO_STEP and CONTINUE, no STEP for 60 s stops the stream at its next safe point (R379). -/
def execOrphanStallTimeout (t : Nat) (st : StreamId) (s : State) : Host.Outcome State Fault Refusal :=
  if nTiles ≤ t then .fault (.noSuchUnit "tile" t)
  else
    let x := s.streamAt t st
    let q := s.partAt x.part
    if x.run && decide (q.state = .orphan) && decide (q.orphan ≠ 1) then .next (s.parkStream t st 3) else .next s

/-! ## Proving control and maintenance -/

/-- PROVING_CTRL (R349). -/
def execProvingCtrl (h : MsgHdr) (die : Nat) (rotEn windowEn : Bool) (ovenMax : BitVec 8) (s : State) : Host.Outcome State Fault Refusal :=
  s.stewMsg h 0x0090 fun s =>
    if nDies ≤ die ∨ 15 < ovenMax.toNat then refuse s stRange
    else accept (s.modDie die fun d => { d with rotEn := rotEn, windowEn := windowEn, ovenMax := ovenMax.toNat })

/-- MAINTENANCE enter: a stack none of whose granules is owned (R349). -/
def execMaintenanceEnter (h : MsgHdr) (stack : Nat) (s : State) : Host.Outcome State Fault Refusal :=
  s.stewMsg h 0x0091 fun s =>
    if (s.stackAt stack).gran.any fun g => granOwned g.2 then refuse s stBusy
    else if nStacks ≤ stack ∨ (s.stackAt stack).fenced = true then refuse s stRange
    else accept (s.modStack stack fun x => { x with maint := true })

/-- A stack written with zeros and valid check symbols (R207). -/
def State.zeroStack (s : State) (k : Nat) : State :=
  { s with mem := Map.restrict s.mem fun a => decide (stackOf a ≠ k), poison := Map.restrict s.poison fun a => decide (stackOf a ≠ k) }

/-- MAINTENANCE leave: the stack is zeroed (R349). -/
def execMaintenanceLeave (h : MsgHdr) (stack : Nat) (s : State) : Host.Outcome State Fault Refusal :=
  s.stewMsg h 0x0091 fun s =>
    if nStacks ≤ stack then refuse s stRange
    else if (s.stackAt stack).maint then accept ((s.zeroStack stack).modStack stack fun x => { x with maint := false })
    else accept s

end Sys2Proof.Machine
end

