-- ==== Sys2Proof/Machine/Crumbs.lean ====
section
/-! DEFINITION. Error records (R336–R339), the delivery of crumbs (R352–R354), the I3C target (R461, R462) and the TAP (R465). -/

namespace Sys2Proof.Machine

/-! ## Error records -/

/-- A tile is fenced by firmware as it handles a C2 record of it (R26, R343): a run is abandoned, and a serving tile freezes until its move. -/
def State.fenceTile (s : State) (g : Nat) : State :=
  let s1 := if (s.ptileAt g).state = .proving then s.abandonRun g else s
  let p := s1.ptileAt g
  let serves := p.state == .active
  let s2 := if p.state = .active ∨ p.state = .bench then s1.setPtile g { p with state := .fenced } else s1
  let s3 := if serves then s2.modTile (144 * (g / nPhys) + p.logical) fun t => { t with frozen := true } else s2
  s3.refreshRotation (g / nPhys)

/-- A stack is fenced: its engine is disabled with it and updates of its shards end PARTIAL (Table 01-8, R257). -/
def State.fenceStack (s : State) (k : Nat) : State :=
  if (s.stackAt k).fenced then s
  else
    let s1 := (s.modStack k Stack.fence).crumbOut 2 0x0105 (uStack k) []
    ((s1.stopEngine k 4).modEngine k fun u => { u with disabled := true }).reserve (k / 3)

/-- What a C2 record takes out of service (Table 13-4): what hardware fenced at detection stays as it is. -/
def State.takeOut (s : State) (r : ErrRec) : State :=
  match r.unit.kind, r.unit.idx with
  | 1, [d, row, col] => s.fenceTile (nPhys * d + 13 * row + col)
  | 4, [n] => if r.syn = 0x0404 ∨ r.syn = 0x0405 ∨ (s.portAt n).state = .disabled then s else s.portDown n 9
  | 5, [k] => s.fenceStack k
  | 6, [d, l] => if (s.engineAt (3 * d + l)).fenced then s else s.loseEngine (3 * d + l)
  | 8, [d, _, k] => if r.syn = 0x0905 then s else s.modModule (24 * d + k) fun m => { m with retired := true }
  | _, _ => s

/-- The safe state (R339): every stream halts with its brew spilled (code 5), engines stop, every collective ends with ABORT and PEER_LOST, runs end. -/
def State.enterSafe (s : State) : State :=
  if s.safeState then s
  else
    let s1 := s.running.foldl (fun (s : State) x => ((s.spillBrew x.1 x.2 5 0).endStream x.1 x.2 4)) s
    let s2 := s1.ops.foldl (fun (s : State) o => if o.kind < 16 ∧ o.ended.isNone then (s.endOp o.id 4 o.rank 0).sendAbort o 4 else s) s1
    let s3 := (List.range 12).foldl (fun (s : State) e => s.stopEngine e 4) s2
    let s4 := s3.ptile.foldl (fun (s : State) e => s.abandonRun e.1) s3
    { s4 with safeState := true, pwr := { s4.pwr with state := .safe } }

/-- The record firmware takes: in a handoff window C2 and C3 records stay latched for the new image (R337). -/
def State.nextRecord (s : State) : Option ErrRec :=
  if s.fw.handoff then s.crumb.errQ.find? fun r => decide (r.cls < 2) else s.crumb.errQ.head?

/-- Handles a record: its crumb, and what its class asks (Table 13-4). -/
def State.handleRecord (s : State) (r : ErrRec) : State :=
  let s1 := s.crumbOut r.cls r.syn r.unit r.keys
  if r.cls = 3 then s1.enterSafe else if r.cls = 2 then s1.takeOut r else s1

/-- ERROR_RECORD_HANDLE (R337); `fatal` is one of the failures of R338, which is C3 whatever is being handled. -/
def execErrorRecordHandle (fatal : Bool) (s : State) : Host.Outcome State Fault Refusal :=
  .next <|
    if s.fw.stage ≠ 2 ∧ s.fw.stage ≠ 3 then s
    else if fatal then (s.crumbOut 3 0x0602 uPackage []).enterSafe
    else match s.nextRecord with
    | none => s
    | some r =>
      let q := s.crumb
      let s1 : State := { s with crumb := { q with errQ := q.errQ.erase r, queueFull := false } }
      let s2 := s1.handleRecord r
      (if q.queueFull then s2.crumbOut 0 0x0601 uPackage [] else s2).closeWindows

/-! ## Delivery of crumbs -/

/-- Interrupts are enabled on a target that holds a dynamic address (R461). -/
def I3c.mayInterrupt (x : I3c) : Bool := x.ibiEn && x.dyn.isSome

/-- A crumb enters the I3C FIFO of 32 (R354); the FIFO becoming non-empty raises an in-band interrupt (R461). -/
def State.pushFifo (s : State) (c : Crumb) : State :=
  let q := s.crumb
  let full := decide (32 ≤ q.fifo.length)
  let s1 : State := { s with crumb := { q with
    fifo := if full then q.fifo.tail ++ [c] else q.fifo ++ [c], i3cLost := if full then satAdd 65535 q.i3cLost else q.i3cLost } }
  if q.fifo.isEmpty && s.i3c.mayInterrupt then s1.emit (.ibi 1) else s1

/-- The collectors of the configuration block in force: addresses that are not zero. -/
def State.collectors (s : State) : List (List Byte) := s.fw.config.collectors.filter fun a => a.any fun b => decide (b ≠ 0)

/-- One datagram to each collector; the management Ethernet is down on the RC oscillator alone (R354, R460). -/
def State.sendUdp (s : State) (c : Crumb) : State :=
  if s.fw.rcOnly then s else s.collectors.foldl (fun (s : State) _ => s.emit (.crumbUdp c)) s

/-- Slots of the flash ring (R354). -/
def ringSlots : Nat := 16384

/-- CRUMB_FLASH_WRITE: the next queued crumb is written to the ring, then sent on the other two paths; a held crumb takes the freed entry (R352, R354). -/
def execCrumbFlashWrite (s : State) : Host.Outcome State Fault Refusal :=
  .next <|
    if s.fw.stage < 2 ∨ s.fw.stage = 4 then s
    else match s.crumb.flashQ with
    | [] => s
    | c :: rest =>
      let q := s.crumb
      let ring := (if ringSlots ≤ q.ring.length then q.ring.tail else q.ring) ++ [c]
      let queue := match q.held with | h :: _ => placeCrumb h rest | [] => rest
      let s1 : State := { s with crumb := { q with ring := ring, flashQ := queue, held := q.held.tail } }
      ((s1.sendUdp c).pushFifo c).closeWindows

/-- CRUMB_COALESCE_WINDOW: at the end of the second one further crumb carries REPEAT (R352). -/
def execCrumbCoalesceWindow (syn : Nat) (u : UnitId) (s : State) : Host.Outcome State Fault Refusal :=
  .next <|
    match s.crumb.coalesce.find? fun x => decide (x.1 = syn ∧ x.2.1 = u) with
    | none => s
    | some x =>
      let s1 : State := { s with crumb := { s.crumb with coalesce := s.crumb.coalesce.erase x } }
      let c := x.2.2.2
      if x.2.2.1 = 0 then s1 else s1.sendCrumb { c with keys := c.keys ++ [(18, .u x.2.2.1)] }

/-- CRUMB_FETCH: the crumbs of the range still in the ring, in ascending CTR (R354). -/
def execCrumbFetch (first : Word) (count : Nat) (s : State) : Host.Outcome State Fault Refusal :=
  .next <|
    if count = 0 ∨ 256 < count ∨ s.fw.rcOnly then s
    else ((List.range count).filterMap fun i => s.crumb.ring.find? fun c => decide (c.ctr.toNat = first.toNat + i)).foldl
      (fun (s : State) c => s.emit (.crumbUdp c)) s

/-- CRUMB_READ: length and head crumb; a read to its last byte removes it (R462). -/
def execCrumbRead (bytes : Nat) (s : State) : Host.Outcome State Fault Refusal :=
  .next <|
    match s.crumb.fifo with
    | [] => s.emit (.i3c ((natLe 2 0).take bytes))
    | c :: rest =>
      let d := natLe 2 c.encode.length ++ c.encode
      let s1 := s.emit (.i3c (d.take bytes))
      if d.length ≤ bytes then { s1 with crumb := { s1.crumb with fifo := rest } } else s1

/-- IBI_REPEAT (R461). -/
def execIbiRepeat (s : State) : Host.Outcome State Fault Refusal :=
  .next (if s.i3c.mayInterrupt && !s.crumb.fifo.isEmpty then s.emit (.ibi s.crumb.fifo.length) else s)

/-- FAULT_N and SMBALERT_N as R459 drives them. -/
def State.faultN (s : State) : Bool := decide (s.pwr.state = .safe) || decide (s.fw.stage = 4)
def State.smbAlert (s : State) : Bool := !s.crumb.fifo.isEmpty && s.i3c.dyn.isNone

/-! ## The I3C target -/

/-- The BOARD_SLOT index the target uses: the sampled one, or the filtered levels (R461). -/
def State.i3cSlot (s : State) : BitVec 3 := if s.side.sampled then s.side.slotIdx else s.side.level.extractLsb' 5 3

/-- The static address. -/
def State.staticAddr (s : State) : Nat := 0x58 + s.i3cSlot.toNat

/-- The provisioned identifier: 48 bits (R461). -/
def I3c.pid (slot : BitVec 3) : Nat := 0x05A7 * 2 ^ 33 + 0x4B34 * 2 ^ 16 + slot.toNat * 2 ^ 12
def bcr : Byte := 0x06
def dcr : Byte := 0x00

/-- A target takes a dynamic address; its PID keeps the slot index until RSTDAA. -/
def State.takeAddr (s : State) (a : BitVec 7) : State := { s with i3c := { s.i3c with dyn := some a, pidSlot := s.i3cSlot } }

/-- ENTDAA: the target arbitrates with PID, BCR and DCR and takes the address. -/
def execEntdaa (addr : BitVec 7) (s : State) : Host.Outcome State Fault Refusal :=
  .next (if s.i3c.dyn.isSome then s else (s.takeAddr addr).emit (.i3c (natBe 6 (I3c.pid s.i3cSlot) ++ [bcr, dcr])))

/-- SETDASA: sent to the static address. -/
def execSetdasa (addr : BitVec 7) (s : State) : Host.Outcome State Fault Refusal :=
  .next (if s.i3c.dyn.isSome then s else s.takeAddr addr)

/-- RSTDAA. -/
def execRstdaa (s : State) : Host.Outcome State Fault Refusal := .next { s with i3c := { s.i3c with dyn := none } }

/-- ENEC and DISEC: bit 0 of the event byte is the interrupt enable. -/
def execEnec (events : Byte) (s : State) : Host.Outcome State Fault Refusal :=
  .next (if events.getLsbD 0 then { s with i3c := { s.i3c with ibiEn := true } } else s)
def execDisec (events : Byte) (s : State) : Host.Outcome State Fault Refusal :=
  .next (if events.getLsbD 0 then { s with i3c := { s.i3c with ibiEn := false } } else s)

/-- A direct CCC is answered by a target that holds a dynamic address. -/
def State.ccc (s : State) (data : List Byte) : State := if s.i3c.dyn.isSome then s.emit (.i3c data) else s

def execGetpid (s : State) : Host.Outcome State Fault Refusal := .next (s.ccc (natBe 6 (I3c.pid s.i3c.pidSlot)))
def execGetbcr (s : State) : Host.Outcome State Fault Refusal := .next (s.ccc [bcr])
def execGetdcr (s : State) : Host.Outcome State Fault Refusal := .next (s.ccc [dcr])

/-- GETSTATUS: two bytes whose content the manual leaves open (a free value, log 5). -/
def execGetstatus (s : State) : Host.Outcome State Fault Refusal :=
  .next { s.ccc [Config.freeByte s.freeCtr, Config.freeByte (s.freeCtr + 1)] with freeCtr := s.freeCtr + 2 }

/-- GETMXDS: two bytes, of which the manual states only the 12.5 MHz maximum (a free value, log 5). -/
def execGetmxds (s : State) : Host.Outcome State Fault Refusal :=
  .next { s.ccc [Config.freeByte s.freeCtr, Config.freeByte (s.freeCtr + 1)] with freeCtr := s.freeCtr + 2 }

/-- ALERT_RESPONSE: without a dynamic address the target answers 0x0C with its static address while it asserts SMBALERT_N (R459, R461). -/
def execAlertResponse (s : State) : Host.Outcome State Fault Refusal :=
  .next (if s.smbAlert then s.emit (.i3c [BitVec.ofNat 8 (2 * s.staticAddr)]) else s)

/-! ## The TAP -/

/-- The next state of an IEEE 1149.1 TAP controller. -/
def TapSt.next (x : TapSt) (tms : Bool) : TapSt :=
  match x with
  | .tlr => if tms then .tlr else .rti
  | .rti => if tms then .selDr else .rti
  | .selDr => if tms then .selIr else .capDr
  | .capDr => if tms then .ex1Dr else .shDr
  | .shDr => if tms then .ex1Dr else .shDr
  | .ex1Dr => if tms then .upDr else .paDr
  | .paDr => if tms then .ex2Dr else .paDr
  | .ex2Dr => if tms then .upDr else .shDr
  | .upDr => if tms then .selDr else .rti
  | .selIr => if tms then .tlr else .capIr
  | .capIr => if tms then .ex1Ir else .shIr
  | .shIr => if tms then .ex1Ir else .shIr
  | .ex1Ir => if tms then .upIr else .paIr
  | .paIr => if tms then .ex2Ir else .paIr
  | .ex2Ir => if tms then .upIr else .shIr
  | .upIr => if tms then .selDr else .rti

/-- IDCODE (R465). -/
def tapId : BitVec 32 := BitVec.ofNat 32 ((Config.idRev 4).1.toNat % 16 * 2 ^ 28 + 0x4B34 * 2 ^ 12 + 0x2F1 * 2 + 1)

/-- The selected data register: the identity, the boundary, else the bypass bit. -/
def Tap.boundary (t : Tap) : Bool := !t.idcode && (t.ir == Config.tapSample || t.ir == Config.tapExtest)

/-- What the controller does in its state at an edge of TCK; `pins` is what the boundary cells capture, `low` the six bits an instruction capture leaves
open. -/
def Tap.act (t : Tap) (tdi : Bool) (pins : BitVec 27) (low : Byte) : Tap :=
  match t.st with
  | .tlr => { t with idcode := true }
  | .capIr => { t with irSh := (low &&& 0xFC) ||| 1 }
  | .shIr => { t with irSh := (t.irSh >>> 1) ||| (if tdi then 0x80 else 0), tdo := t.irSh.getLsbD 0 }
  | .upIr => { t with ir := t.irSh, idcode := t.irSh == Config.tapIdcode }
  | .capDr => if t.idcode then { t with drSh := tapId } else if t.boundary then { t with bsrSh := pins } else { t with drSh := 0 }
  | .shDr =>
    if t.idcode then { t with drSh := (t.drSh >>> 1) ||| (if tdi then 0x80000000 else 0), tdo := t.drSh.getLsbD 0 }
    else if t.boundary then { t with bsrSh := (t.bsrSh >>> 1) ||| (if tdi then 0x4000000 else 0), tdo := t.bsrSh.getLsbD 0 }
    else { t with drSh := if tdi then 1 else 0, tdo := t.drSh.getLsbD 0 }
  | .upDr => if t.boundary then { t with bsr := t.bsrSh } else t
  | _ => t

/-- TCK: one edge (R465); the TAP stays in Test-Logic-Reset while TRST_N counts as asserted (R457). -/
def execTck (tms tdi : Bool) (s : State) : Host.Outcome State Fault Refusal :=
  if s.side.chatter.getLsbD 4 then .next s
  else
    let t := s.tap.act tdi ((Config.freeWord s.freeCtr).extractLsb' 0 27) (Config.freeByte s.freeCtr)
    .next { s with tap := { t with st := s.tap.st.next tms }, freeCtr := s.freeCtr + 1 }

/-- TRST_N_ASSERT (R457). -/
def execTrstNAssert (s : State) : Host.Outcome State Fault Refusal := .next { s with tap := { s.tap with st := .tlr, idcode := true } }

end Sys2Proof.Machine
end

