-- ==== Sys2Proof/Machine/Tables.lean ====
section
/-! DEFINITION. The messages that write tables: loaf descriptors (R35), host windows, BAR2 segments, journal bases, the blend tables and digest interval
(R103, R108, R109, R115, R254), shard entries and rollback (R236, R255), jobs, maps and groups (R295–R303, R374). -/

namespace Sys2Proof.Machine

/-! ## Loaf descriptors (R35) -/

/-- The continuations of a LIST. -/
def listConts (s : State) : Nat → Nat → List Nat
  | 0, _ => []
  | fuel + 1, i => let d := s.loafAt i; if d.contV then d.cont :: listConts s fuel d.cont else []

/-- Members of a LIST as a write carries them. -/
def laCount (a : LoafArg) : Nat := fld a.body 0 2
def laRefs (a : LoafArg) : List (BitVec 16) := (List.range (laCount a)).map fun k => BitVec.ofNat 16 (fld a.body (2 + 2 * k) 2)
def laValid (a : LoafArg) : Bool := a.word0.getLsbD 63
def laKind (a : LoafArg) : Nat := bits a.word0.toNat 62 60
def laPart (a : LoafArg) : Nat := bits a.word0.toNat 59 57

/-- DENIED of R35. -/
def State.loafDenied (s : State) (h : MsgHdr) (a : LoafArg) : Bool :=
  let mine := fun (p : Nat) => s.permits { h with part := BitVec.ofNat 8 p } .owner
  !mine (laPart a) || ((s.loafAt a.index).valid && !mine (s.loafAt a.index).part) || decide (1020 ≤ a.index ∧ a.index < 1024) ||
    decide ((laKind a) = 2) || (decide ((laKind a) = 0) && (laRefs a).any fun r => !refIsTile r && decide (1020 ≤ refIndex r))

/-- RANGE of R35; it and DENIED judge the payload whatever its VALID is. -/
def laOutOfRange (a : LoafArg) : Bool :=
  let w := a.word0.toNat
  let b := fun (k : Nat) => (a.body.getD k 0).toNat
  decide (1024 ≤ a.index) || decide (3 ≤ (laKind a)) || decide (bits w 53 48 ≠ 0 ∨ bits w 15 11 ≠ 0 ∨ bits w 54 54 ≠ 0 ∨ bits w 10 0 ≠ 0) ||
    (if (laKind a) = 0 then decide ((laCount a) = 0 ∨ a.body.length < 2 + 2 * (laCount a)) || (laRefs a).any refMalformed
      else decide (b 0 % 16 = 0 ∨ 16 ≤ b 0 ∨ 11 < b 1 ∨ 11 < b 2 ∨ 11 < b 3 ∨ 11 < b 4 ∨ b 2 < b 1 ∨ b 4 < b 3) || (a.body.drop 5).any fun x => x != 0)

/-- The runs of up to 27 members. -/
def chunks27 : Nat → List (BitVec 16) → List (List (BitVec 16))
  | 0, _ => []
  | fuel + 1, ms => if ms.isEmpty then [] else ms.take 27 :: chunks27 fuel (ms.drop 27)

/-- The descriptor a write gives, without members. -/
def laDesc (a : LoafArg) : Loaf :=
  let b := fun (k : Nat) => (a.body.getD k 0).toNat
  if !(laValid a) then {}
  else if (laKind a) = 1 then
    { valid := true, kind := 1, part := (laPart a), nameTag := BitVec.ofNat 16 (bits a.word0.toNat 31 16)
      dieMask := BitVec.ofNat 4 (b 0), rowLo := b 1, rowHi := b 2, colLo := b 3, colHi := b 4 }
  else { valid := true, kind := 0, part := (laPart a), nameTag := BitVec.ofNat 16 (bits a.word0.toNat 31 16) }

/-- Places a LIST's runs: the first in `i`, each further one in the lowest free descriptor; `none` where too few are free (R35). -/
def placeRuns (d : Loaf) : List (List (BitVec 16)) → Nat → Bool → State → Option State
  | [], i, c, s => some (s.setLoaf i { d with isCont := c })
  | ms :: rest, i, c, s =>
    if rest.isEmpty then some (s.setLoaf i { d with members := ms, isCont := c })
    else match (List.range 1020).find? fun k => k != i && !(s.loafAt k).valid with
    | none => none
    | some j => placeRuns d rest j true (s.setLoaf i { d with members := ms, isCont := c, contV := true, cont := j })

/-- The table with the writes placed: old continuations of every named descriptor are freed first, and no named descriptor is taken as a continuation. -/
def State.placeLoaves (s : State) (es : List LoafArg) : Option State :=
  let s1 := es.foldl (fun (s : State) a =>
    (listConts s 1024 a.index).foldl (fun (s : State) k => s.setLoaf k {}) s) s
  let s2 := es.foldl (fun (s : State) a => s.setLoaf a.index { valid := true }) s1
  es.foldl (fun (o : Option State) a =>
    match o with
    | none => none
    | some s => placeRuns (laDesc a) (if (laValid a) && decide ((laKind a) = 0) then chunks27 (laCount a) (laRefs a) else []) a.index false s) (some s2)

/-- The addressable descriptors. -/
def State.tops (s : State) : List Nat := (s.loaf.filter fun d => d.2.valid && !d.2.isCont && decide (d.1 < 1020)).map (·.1)

/-- The descriptors that are written or contain one that is. -/
def State.loafScope (s : State) (es : List LoafArg) : List Nat :=
  s.tops.filter fun i => es.any fun a => contains s 1025 (BitVec.ofNat 16 i) (BitVec.ofNat 16 a.index)

/-- The conditions of R35 on the new table, in their order. DESIGN CHOICE (log 82): a member tile that no partition owns is FOREIGN too; the rule says it
of a member of another partition. -/
def State.loafStatus (s : State) (scope : List Nat) : Nat :=
  let members := fun (i : Nat) => if (s.loafAt i).kind = 0 then listMembers s 1024 i else []
  let absent := fun (r : BitVec 16) => !refIsTile r && (!(s.loafAt (refIndex r)).valid || (s.loafAt (refIndex r)).isCont)
  let foreign := fun (i : Nat) =>
    let p := (s.loafAt i).part
    if (s.loafAt i).kind = 1 then (rectTiles (s.loafAt i)).any fun n => decide (s.tilePart n ≠ some p)
    else (members i).any fun r => if refIsTile r then decide (s.tilePart (refTile r) ≠ some p) else decide ((s.loafAt (refIndex r)).part ≠ p)
  if scope.any fun i => (members i).any absent then stNoLoaf
  else if scope.any fun i => (members i).any fun r => contains s 1025 r (BitVec.ofNat 16 i) then stCycle
  else if scope.any fun i => let ts := s.loafTiles (BitVec.ofNat 16 i); decide (ts.eraseDups.length ≠ ts.length) then stDupTile
  else if scope.any foreign then stForeign
  else stOk

/-- Whether BUSY is set on a descriptor or on a loaf that contains it (R35). -/
def State.loafHeld (s : State) (i : Nat) : Bool :=
  (s.loafAt i).busy || s.tops.any fun j => (s.loafAt j).busy && contains s 1025 (BitVec.ofNat 16 j) (BitVec.ofNat 16 i)

/-- SIZE of the descriptors a write touches, and DEGRADED (Table 02-8). -/
def State.resize (s : State) (scope : List Nat) : State :=
  (scope.foldl (fun (s : State) i => s.modLoaf i fun d => { d with size := (s.loafTiles (BitVec.ofNat 16 i)).length }) s).refreshDegraded

/-- LOAF_WRITE (R35). -/
def execLoafWrite (h : MsgHdr) (entries : List LoafArg) (s : State) : Host.Outcome State Fault Refusal :=
  s.partMsg h 0x0030 fun _ s =>
    if entries.any (s.loafDenied h) then refuse s stDenied
    else if entries.any laOutOfRange then refuse s stRange
    else if entries.any fun a => (s.loafAt a.index).isCont then refuse s stNoLoaf
    else match s.placeLoaves entries with
    | none => refuse s stFull
    | some s1 =>
      let scope := s1.loafScope entries
      let st := s1.loafStatus scope
      if st ≠ stOk then refuse s st
      else if entries.any fun a => s.loafHeld a.index then refuse s stBusy
      else accept (s1.resize scope)

/-- LOAF_DELETE: BUSY if in use, by a program or as a member of another loaf; its continuations are freed with it (R35). -/
def execLoafDelete (h : MsgHdr) (index : Nat) (s : State) : Host.Outcome State Fault Refusal :=
  s.partMsg h 0x0031 fun _ s =>
    let d := s.loafAt index
    let named := s.loaf.any fun e => e.2.valid && e.2.members.any fun r => !refIsTile r && decide (refIndex r = index)
    if decide (1020 ≤ index ∧ index < 1024) || (d.valid && !s.permits { h with part := BitVec.ofNat 8 d.part } .owner) then refuse s stDenied
    else if s.loafHeld index || named then refuse s stBusy
    else if 1024 ≤ index then refuse s stRange
    else if d.isCont then refuse s stNoLoaf
    else accept ((index :: listConts s 1024 index).foldl (fun (s : State) k => s.setLoaf k {}) s)

/-! ## Windows and bases -/

/-- HWIN_WRITE (R194, Table 08-4). -/
def execHwinWrite (h : MsgHdr) (w : Nat) (w0 w1 : Word) (s : State) : Host.Outcome State Fault Refusal :=
  s.partMsg h 0x0040 fun p s =>
    if 16 ≤ w ∨ bits w0.toNat 11 0 ≠ 0 ∨ bits w1.toNat 63 41 ≠ 0 ∨ bits w1.toNat 15 4 ≠ 0 ∨ 16777216 < hwinPages (w0, w1) then refuse s stRange
    else accept (s.modPart p fun q => { q with hwin := Map.put (0, 0) q.hwin w (w0, w1) })

/-- BAR2_MAP: a segment of the port that owns the partition (R363, Table 14-6). -/
def execBar2Map (h : MsgHdr) (k : Nat) (word : Word) (s : State) : Host.Outcome State Fault Refusal :=
  s.partMsg h 0x0041 fun p s =>
    if 8 ≤ k ∨ bits word.toNat 59 48 ≠ 0 ∨ bits word.toNat 29 0 ≠ 0 then refuse s stRange
    else accept (s.modHost (s.partAt p).owner.idx fun x => { x with bar2 := Map.put 0 x.bar2 k word })

/-- JBASE_WRITE (R224, Table 09-3). -/
def execJbaseWrite (h : MsgHdr) (word : Word) (s : State) : Host.Outcome State Fault Refusal :=
  s.partMsg h 0x0042 fun p s =>
    let brewing := s.tile.any fun t => decide (s.tilePart t.1 = some p) &&
      allStreams.any fun st => (t.2.streamAt st).brew.phase != .idle || (t.2.streamAt st).wb.isSome
    let q : Part := { s.partAt p with jbase := word }
    if brewing then refuse s stBusy
    else if bits word.toNat 63 48 ≠ 0 ∨ bits word.toNat 25 1 ≠ 0 ∨ (q.jvalid = true ∧ s.ownsRegion p q.jregion journalBytes = false) then refuse s stRange
    else accept (s.setPart p q)

/-! ## Staged tables -/

/-- Stages changes of partition `p`, or refuses them LATE (R115). -/
def State.stageFor (s : State) (p : Nat) (eff : BitVec 32) (xs : List Staged) : Nat × State × List Byte :=
  match (s.partAt p).stage eff xs with
  | some q => accept (s.setPart p q)
  | none => refuse s stLate

/-- A change with its effective step, put behind those of its step and before those of later ones. -/
def insertStep (x : Nat × Nat × BitVec 32) : List (Nat × Nat × BitVec 32) → List (Nat × Nat × BitVec 32)
  | [] => [x]
  | y :: ys => if x.1 < y.1 then x :: y :: ys else y :: insertStep x ys

/-- The slot writes still to take effect, those staged and these at step `e`, in the order they will: step, entry, word. -/
def Part.slotWrites (q : Part) (e : BitVec 32) (es : List (Nat × BitVec 32)) : List (Nat × Nat × BitVec 32) :=
  let staged := q.staged.filterMap fun x => match x.2 with | .slot i w => some (x.1.toNat, i, w) | _ => none
  (staged ++ es.map fun x => (if q.stepOpen then e.toNat else 0, x.1, x.2)).foldl (fun l x => insertStep x l) []

/-- The slot map as it will stand from step `t` on. -/
def Part.slotsAt (q : Part) (ws : List (Nat × Nat × BitVec 32)) (t : Nat) : Map (BitVec 32) :=
  (ws.filter fun x => decide (x.1 ≤ t)).foldl (fun m x => Map.put 0 m x.2.1 x.2.2) q.slot

/-- Whether two valid entries of a slot map name one tensor id. -/
def slotsClash (m : Map (BitVec 32)) : Bool :=
  let ids := (m.filter fun e => slotValid e.2).map fun e => slotTensor e.2
  decide (ids.eraseDups.length ≠ ids.length)

/-- Whether, with these writes at step `e`, some step would see two valid entries of one tensor id (R103). -/
def Part.dupTensor (q : Part) (e : BitVec 32) (es : List (Nat × BitVec 32)) : Bool :=
  let ws := q.slotWrites e es
  ws.any fun x => slotsClash (q.slotsAt ws x.1)

/-- SLOT_WRITE (R103). -/
def execSlotWrite (h : MsgHdr) (entries : List (Nat × BitVec 32)) (s : State) : Host.Outcome State Fault Refusal :=
  s.partMsg h 0x0050 fun p s =>
    if entries.any fun e => decide (4095 ≤ e.1) || (slotValid e.2 && decide (slotTensor e.2 = 0)) then refuse s stRange
    else if (s.partAt p).dupTensor h.eff entries then refuse s stDupTensor
    else s.stageFor p h.eff (entries.map fun e => .slot e.1 e.2)

/-- RANGE of a row write (R109). -/
def rowBad (w : BitVec 256) : Bool :=
  decide (w &&& ~~~rowThreshMask ≠ 0) ||
    (rowValid w && decide (rowFloor w = 3 ∨ rowCeil w = 3 ∨ rowInit w = 3 ∨ rowHi43 w ≤ rowLo43 w ∨ rowHi52 w ≤ rowLo52 w ∨ rowCeil w < rowFloor w ∨
      rowInit w < rowFloor w ∨ rowCeil w < rowInit w ∨ rowHold w = 0 ∨ rowCarry w = 3))

/-- ROW_WRITE (R109). -/
def execRowWrite (h : MsgHdr) (rows : List (Nat × BitVec 256)) (s : State) : Host.Outcome State Fault Refusal :=
  s.partMsg h 0x0051 fun p s =>
    if rows.any fun e => decide (1024 ≤ e.1) || rowBad e.2 then refuse s stRange
    else s.stageFor p h.eff (rows.map fun e => .row e.1 e.2)

/-- PCTRL_WRITE (R108). -/
def execPctrlWrite (h : MsgHdr) (word : Word) (s : State) : Host.Outcome State Fault Refusal :=
  s.partMsg h 0x0052 fun p s =>
    let w := word.toNat
    let q : Part := { s.partAt p with pctrl := word }
    if bits w 63 41 ≠ 0 ∨ bits w 16 16 ≠ 0 ∨ bits w 7 2 ≠ 0 ∨ q.lag = 0 ∨ q.lag = 3 ∨ (q.hvalid = true ∧ s.ownsRegion p q.hregion healthBytes = false) then
      refuse s stRange
    else s.stageFor p h.eff [.pctrl word]

/-- DIGCTRL_WRITE (R254, Table 10-8). -/
def execDigctrlWrite (h : MsgHdr) (d : BitVec 16) (action : Bool) (s : State) : Host.Outcome State Fault Refusal :=
  s.partMsg h 0x0063 fun p s =>
    if d = 0 ∨ 256 < d.toNat then refuse s stRange else s.stageFor p h.eff [.digctrl (d.setWidth 9) action]

/-- GROUP_WRITE (R301); group 0 is the whole job. -/
def execGroupWrite (h : MsgHdr) (g : Nat) (valid : Bool) (cuts : BitVec 5) (s : State) : Host.Outcome State Fault Refusal :=
  s.partMsg h 0x0073 fun p s => if g = 0 ∨ 1024 ≤ g then refuse s stRange else s.stageFor p h.eff [.group g valid cuts]

/-! ## Shards -/

/-- The entry a SHARD_DEFINE gives (Table 10-3). -/
def dirWords (w0 w1 w2 w3 w4 w7 : Word) : DirEntry :=
  let f := fun (w : Word) (hi lo : Nat) => bits w.toNat hi lo
  { valid := w0.getLsbD 63, part := f w0 62 60, kind := BitVec.ofNat 2 (f w0 59 58), crust := w0.getLsbD 57, vfmt := BitVec.ofNat 2 (f w0 53 52)
    mfmt := w0.getLsbD 51, base := BitVec.ofNat 37 (f w0 36 0), shard := BitVec.ofNat 32 (f w1 63 32), tensor := BitVec.ofNat 20 (f w1 19 0)
    slice0 := BitVec.ofNat 32 (f w2 63 32), nslice := BitVec.ofNat 24 (f w2 23 0), version := BitVec.ofNat 32 (f w3 63 32)
    target := BitVec.ofNat 32 (f w3 31 0), dgrp := BitVec.ofNat 16 (f w4 47 32), pbase := BitVec.ofNat 47 (f w7 46 0) }

/-- Whether a shard block lies wholly within granules of the stack that the partition owns (R234). -/
def State.blockOwned (s : State) (p e : Nat) (d : DirEntry) : Bool :=
  let first := d.base.toNat / 2 ^ 30
  let last := (d.base.toNat + d.blockSize - 1) / 2 ^ 30
  decide (d.base.toNat + d.blockSize ≤ stackBytes) && (List.range (last + 1 - first)).all fun k => s.owns p (e * stackBytes + (first + k) * 2 ^ 30)

/-- RANGE of SHARD_DEFINE (R236, R234); FACT goes with KIND 0 only (R235). -/
def State.shardBad (s : State) (p e : Nat) (w0 w1 w2 w4 w7 : Word) (d : DirEntry) : Bool :=
  let f := fun (w : Word) (hi lo : Nat) => bits w.toNat hi lo
  !d.valid || decide (f w0 49 37 ≠ 0 ∨ f w1 31 20 ≠ 0 ∨ f w2 31 24 ≠ 0 ∨ f w7 63 47 ≠ 0) || d.kind == 3 || d.vfmt == 3 || (d.vfmt == 1 && d.kind != 0) || decide (d.part ≠ p) ||
    decide (f w0 56 54 ≠ 0 ∨ f w0 50 50 ≠ 0 ∨ f w4 63 48 ≠ 0 ∨ f w4 31 0 ≠ 0) || d.target != d.version || d.tensor == 0 ||
    decide (d.nslice.toNat = 0 ∨ 786432 < d.nslice.toNat ∨ 1023 < d.dgrp.toNat) || decide (d.base.toNat % 256 ≠ 0) || !s.blockOwned p e d

/-- SHARD_DEFINE (R236); a new entry beyond the partition's quota on the engine is RANGE (R375). -/
def execShardDefine (h : MsgHdr) (die l entry : Nat) (w0 w1 w2 w3 w4 w7 : Word) (s : State) : Host.Outcome State Fault Refusal :=
  s.partMsg h 0x0060 fun p s =>
    let e := 3 * die + l
    let old := s.dirAt e entry
    let d := dirWords w0 w1 w2 w3 w4 w7
    if old.valid && !s.permits { h with part := BitVec.ofNat 8 old.part } .owner then refuse s stDenied
    else if s.deepAsleep then refuse s stBusy
    else if nDies ≤ die ∨ 3 ≤ l ∨ 4096 ≤ entry then refuse s stRange
    else if old.valid && (old.state != .idle || old.pins != 0) then refuse s stBusy
    else if s.shardBad p e w0 w1 w2 w4 w7 d || (!(old.valid && decide (old.part = p)) && decide ((s.partAt p).quota.toNat ≤ s.entriesUsed p e)) then refuse s stRange
    else match s.findShard p d.tensor.toNat d.shard.toNat with
    | some x => if x = (e, entry) then accept (s.modDir e entry fun _ => d) else refuse s stDupShard
    | none => accept (s.modDir e entry fun _ => d)

/-- SHARD_DELETE (R236). -/
def execShardDelete (h : MsgHdr) (die l entry : Nat) (s : State) : Host.Outcome State Fault Refusal :=
  s.partMsg h 0x0061 fun _ s =>
    let e := 3 * die + l
    let old := s.dirAt e entry
    if nDies ≤ die ∨ 3 ≤ l ∨ 4096 ≤ entry then refuse s stRange
    else if old.valid && !s.permits { h with part := BitVec.ofNat 8 old.part } .owner then refuse s stDenied
    else if old.valid && (old.state != .idle || old.pins != 0) then refuse s stBusy
    else accept (s.modDir e entry fun _ => {})

/-- The lines a slice's rollback reads, and those it writes. -/
def DirEntry.rollReads (d : DirEntry) (e k : Nat) : List Nat :=
  lineAddrs (d.crustAt e k) 32768 ++ lineAddrs (d.mAt e k) 16896 ++ lineAddrs (d.vAt e k) d.vSlice ++ lineAddrs (d.metaAt e k) 64
def DirEntry.rollLines (d : DirEntry) (e k : Nat) : List Nat := lineAddrs (d.wAt e k) 32768 ++ lineAddrs (d.metaAt e k) 64

/-- One slice's rollback, a firmware brew of its own (R227): CRUST into W, META VERSION to CRUST_VER, the digest over the frames as they then stand (R255). A
slice with a line that cannot be read, or whose brew cannot pour, is left as it is. -/
def State.rollSlice (s : State) (d : DirEntry) (e k : Nat) : State × Bool :=
  match (d.rollReads e k).find? s.poisoned with
  | some l => (s.spoil l, false)
  | none =>
    let w := s.memRead (d.crustAt e k) 32768
    let dg := sliceDigest w (s.memRead (d.mAt e k) 16896) (s.memRead (d.vAt e k) d.vSlice)
    let old := s.metaLine d e k
    let data := w ++ metaBytes (fld old 4 4) (fld old 4 4) dg old
    let r := s.firmwareBrew d.part ((List.range 513).map fun j => ((d.rollLines e k).getD j 0, slice data (64 * j) 64))
    (r.1, decide (r.2 = 0))

/-- The rollback of one shard. -/
def State.rollShard (s : State) (x : Nat × Nat) : State :=
  let d := s.dirAt x.1 x.2
  let r := (List.range d.n).foldl (fun (a : State × Bool) k => let y := a.1.rollSlice d x.1 k; (y.1, a.2 && y.2)) (s, true)
  if r.2 then
    (r.1.modDir x.1 x.2 fun d => { d with version := d.crustVer, crustOk := false, digest := r.1.shardDigest d x.1 }).countUpe x.1 11
  else r.1

/-- Whether a rollback of a shard meets a line that a pour has locked or that is held: its brews spill with code 1 (R216), which the model answers with BUSY
(DESIGN CHOICE, log 62). -/
def State.rollWaits (s : State) (x : Nat × Nat) : Bool :=
  let d := s.dirAt x.1 x.2
  (List.range d.n).any fun k => (d.rollReads x.1 k ++ d.rollLines x.1 k).any fun l => s.locked l || s.lineHeld l

/-- ROLLBACK (R255). -/
def execRollback (h : MsgHdr) (tensor : BitVec 20) (shards : List (BitVec 32)) (s : State) : Host.Outcome State Fault Refusal :=
  s.partMsg h 0x0062 fun p s =>
    let found := shards.map fun k => s.findShard p tensor.toNat k.toNat
    let xs := found.filterMap id
    if s.deepAsleep || xs.any (fun x => (s.dirAt x.1 x.2).state != .idle || (s.dirAt x.1 x.2).pins != 0) || xs.any s.rollWaits then refuse s stBusy
    else if found.any Option.isNone then refuse s stRange
    else if xs.any fun x => !(s.dirAt x.1 x.2).crustOk then refuse s stNoCrust

    else accept (xs.foldl State.rollShard s)

/-! ## Jobs -/

/-- A job map as it stands in memory (Table 12-1). -/
def State.readMap (s : State) (a : Nat) : JobMap :=
  let h := s.pkgRead a 64
  let np := fld h 2 2
  let ng := fld h 4 2
  let b := s.pkgRead a (64 + 8 * np + 32 * ng)
  { ext := (List.range 5).map fun c => fld h (8 + 2 * c) 2, axis := (List.range 5).map fun c => fld h (0x12 + c) 1
    serials := (List.range np).map fun j => BitVec.ofNat 64 (fld b (64 + 8 * j) 8)
    digests := (List.range ng).map fun k => BitVec.ofNat 256 (leNat (slice b (64 + 8 * np + 32 * k) 32).reverse), bytes := b }

/-- The bytes of a map, from its header. -/
def State.mapLen (s : State) (a : Nat) : Nat := let h := s.pkgRead a 64; 64 + 8 * fld h 2 2 + 32 * fld h 4 2

/-- MAP_INVALID (R296). -/
def JobMap.invalid (m : JobMap) : Bool :=
  let big := (List.range 5).filter fun c => decide (1 < m.extOf c)
  let axes := big.map fun c => m.axis.getD c 255
  decide (fld m.bytes 0 2 ≠ 1) || (slice m.bytes 6 2 ++ slice m.bytes 0x17 41).any (fun x => x != 0) ||
    decide (m.npkg = 0 ∨ 16384 < m.npkg ∨ 64 < m.digests.length) || m.ext.any (fun e => decide (e = 0 ∨ 16384 < e)) ||
    decide (m.ext.foldl (· * ·) 1 ≠ m.npkg) || decide (axes.eraseDups.length ≠ axes.length) ||
    ((List.range 5).any fun c => if m.extOf c = 1 then decide (m.axis.getD c 255 ≠ 255) else decide (5 < m.axis.getD c 255)) ||
    decide (m.serials.eraseDups.length ≠ m.serials.length)

/-- The job rank at given coordinates (R296). -/
def JobMap.rankAt (m : JobMap) (x : Nat → Nat) : Nat := (List.range 5).foldl (fun n c => n * m.extOf c + x c) 0

/-- The neighbour's serial in a direction, where a cut lies on its axis (R297). -/
def JobMap.neighbour (m : JobMap) (dir : Nat) : Option Word :=
  ((List.range 5).find? fun c => decide (1 < m.extOf c ∧ m.axis.getD c 255 = dir / 2)).map fun c =>
    let x := fun (k : Nat) => m.coord m.rankOf k
    let n := m.extOf c
    m.serials.getD (m.rankAt fun k => if k = c then (if dir % 2 = 0 then (x c + 1) % n else (x c + n - 1) % n) else x k) 0

/-- The ports of a partition's pairs. -/
def State.partPorts (s : State) (p : Nat) : List Nat := (List.range nPorts).filter fun n => (s.partAt p).pairs.getLsbD (n / 2)

/-- Whether a planned peer of port `n` is reached in its direction (R281). -/
def State.reaches (s : State) (n : Nat) : Bool :=
  (List.range nPorts).any fun m => (s.portAt m).state == .active && decide ((s.portAt m).dir = (s.portAt n).dir) && (s.portAt m).peerSerial == (s.portAt n).plan0

/-- The ports with a plan entry, under a loaded plan. -/
def State.plannedPorts (s : State) (p : Nat) : List Nat :=
  if (s.partAt p).planValid then (s.partPorts p).filter fun n => (s.portAt n).plan1.getLsbD 63 else []

/-- The logical ports no ACTIVE port serves (R281). -/
def State.missingPorts (s : State) (p : Nat) : List Nat :=
  (s.plannedPorts p).filter fun n => !(List.range nPorts).any fun m => (s.portAt m).state == .active && decide ((s.portAt m).lport = n)

/-- The port of a direction with a cut whose peer is not the neighbour (R297). -/
def State.mismatch (s : State) (p : Nat) (m : JobMap) : Option Nat :=
  (s.partPorts p).find? fun n => (s.portAt n).state == .active && match m.neighbour (s.portAt n).dir with | some w => (s.portAt n).peerSerial != w | none => false

/-- Whether a program region's digest is in the map (R299). -/
def State.regionKnown (s : State) (p : Nat) (m : JobMap) (r : Region) : Bool :=
  s.ownsRegion p r.addr.toNat (max 1 r.len) && m.digests.contains (sha256 (s.pkgRead r.addr.toNat r.len))

/-- A loaded job (R295, R303, R306, R114). -/
def Part.loadJob (q : Part) (addr : BitVec 48) (m : JobMap) (seed : Word) (fw : BitVec 32) : Part :=
  let q1 : Part := { q with
    job := true, seed := seed, mapAddr := addr, map := m, jrank := m.rankOf, jobFw := fw, state := .run, fence := 0, seqs := [], chain := 0, chainAt := []
    s0 := none, oldest := 0, closedAny := false, deciding := [], stepped := [], incomplete := [] }
  { q1 with tag := q1.computeTag, tagStep := 0, prevTag := 0, prevStep := 0 }

/-- JOB_START (R374): R281, then R295 to R299 in the order of Table 14-9; logical ports missing from the plan are reported. -/
def execJobStart (h : MsgHdr) (map : BitVec 48) (seed : Word) (regions : List Region) (s : State) : Host.Outcome State Fault Refusal :=
  s.partMsg h 0x0070 fun p s =>
    let a := map.toNat
    if s.deepAsleep then refuse s stBusy
    else if s.ownsRegion p a 64 = false ∨ s.ownsRegion p a (s.mapLen a) = false then refuse s stRange
    else if (s.plannedPorts p).any fun n => !s.reaches n && !(s.partAt p).degrade.getLsbD ((s.portAt n).dir / 2) then refuse s stNeighbour
    else
      let m := s.readMap a
      if m.invalid then refuse s stMapInvalid
      else if !m.serials.contains Config.serial then refuse s stNotInMap
      else match s.mismatch p m with
      | some n => (stMapMismatch, s.crumbOut 0 0x0406 (uPort n) (s.partKeys p), [])
      | none =>
        if !regions.all (s.regionKnown p m) then refuse s stProgDigest
        else
          let s1 := s.modPart p fun q => q.loadJob map m seed s.fw.version
          let s2 := { s1 with early := s1.early.filter fun e => decide (e.2.1 ≠ p) }
          let mask := (s.missingPorts p).foldl (fun (w : Word) n => w ||| (1#64 <<< n)) 0
          let s3 := if mask = 0 then s2 else s2.crumbOut 0 0x0406 (uPart p) (s2.partKeys p ++ [(10, .b (natLe 8 mask.toNat))])
          (stOk, s3, natLe 8 mask.toNat)

/-- JOB_END (Table 14-10). -/
def execJobEnd (h : MsgHdr) (s : State) : Host.Outcome State Fault Refusal :=
  s.partMsg h 0x0071 fun p s =>
    if !(s.runningOf p).isEmpty then refuse s stBusy
    else if !(s.partAt p).job then refuse s stNoJob
    else accept (s.modPart p fun q =>
      { q with job := false, tag := 0, tagStep := 0, prevTag := 0, prevStep := 0, jrank := 0, mapAddr := 0, map := {}, s0 := none
               state := if q.state = .run then .idle else q.state })

/-- MAP_STAGE (R300): the map is checked under R296 when it is staged. -/
def execMapStage (h : MsgHdr) (map : BitVec 48) (s : State) : Host.Outcome State Fault Refusal :=
  s.partMsg h 0x0072 fun p s =>
    let a := map.toNat
    if s.ownsRegion p a 64 = false ∨ s.ownsRegion p a (s.mapLen a) = false then refuse s stRange
    else if !(s.partAt p).job then refuse s stNoJob
    else
      let r := s.stageFor p h.eff [.map map (s.readMap a)]
      if r.1 ≠ stOk then r
      else if (s.readMap a).invalid then refuse s stMapInvalid
      else if !(s.readMap a).serials.contains Config.serial then refuse s stNotInMap
      else r

end Sys2Proof.Machine
end

