-- ==== Sys2Proof/Machine/Regs.lean ====
section
/-! DEFINITION. The register maps of the dies as the aperture reads them (R362): the configuration space of a compute die and of the IOD, eight bytes at a
time, from the tables of chapters 02 to 17. An offset that no table names reads 0 (R361). -/

namespace Sys2Proof.Machine

/-- A field of `w` bits placed at bit `lo`. -/
def fieldAt (lo w v : Nat) : Nat := v % 2 ^ w * 2 ^ lo

/-- A signed field. -/
def signedAt (lo w : Nat) (v : Int) : Nat := (BitVec.ofInt w v).toNat * 2 ^ lo

/-- Two neighbouring 32-bit registers of an array. -/
def twoOf (f : Nat → Nat) (i : Nat) : Nat := f i % 2 ^ 32 + f (i + 1) % 2 ^ 32 * 2 ^ 32

/-- Eight bytes of a byte string, from offset `o`. -/
def bytesAt (bs : List Byte) (o : Nat) : Nat := Sys2Proof.Machine.field bs o 8

/-! ## Identity, boot and fuses -/

/-- ID_REV of die `d` (Table 15-13). -/
def idRev (d : Nat) : Nat :=
  0x1F5A4B3400000000 + fieldAt 24 8 (if d = 4 then 1 else 2) + (Config.idRev d).1.toNat * 256 + (Config.idRev d).2.toNat

/-- The grade's power limit in watts (R2). -/
def gradeLimit : Nat := if Config.gradeL then 2400 else 1800

/-- The power limit in force (R437). -/
def State.limitW (s : State) : Nat :=
  let c := s.fw.config.power.toNat
  if c = 0 then gradeLimit else min c gradeLimit

/-- Bench tiles of die `d` at shipment (R25). -/
def shipBench (d : Nat) : Nat := 156 - ((List.range nPhys).filter fun m => Config.factoryRetired d m).length - 144

/-- IOD_PKG_ID (Table 15-14). -/
def pkgId : Nat :=
  fieldAt 32 16 gradeLimit + ((List.range 4).map fun d => fieldAt (16 + 4 * d) 4 (shipBench d)).sum + b2n (!Config.gradeL)

/-- Width code of a host port in IOD_PKG_DEGRADE: 3 while its link is down; 0 before firmware reports it. -/
def State.hostWidth (s : State) (x : Nat) : Nat :=
  let h := s.hostAt x
  if h.linkUp then (if h.width = 16 then 0 else if h.width = 8 then 1 else 2) else if s.fw.ready then 3 else 0

/-- Absent logical tiles of a die: invalid map entries once its tiles are released (R25, R41). -/
def State.absentOn (s : State) (d : Nat) : Nat :=
  if (s.dieAt d).released then ((List.range 144).filter fun n => (s.physOf (144 * d + n)).isNone).length else 0

/-- IOD_PKG_DEGRADE (Table 15-14). -/
def State.pkgDegrade (s : State) : Nat :=
  let narrow := fun (n : Nat) => decide (s.fw.stage = 3) && ((s.portAt n).state == .quarantine || decide ((s.portAt n).width < 4))
  let dies (f : Nat → Bool) (lo : Nat) : Nat := ((List.range 4).map fun d => fieldAt (lo + d) 1 (b2n (f d))).sum
  fieldAt 57 7 ((List.range nPorts).filter narrow).length + fieldAt 50 7 (s.d2d.filter fun e => e.2.retired).length +
    fieldAt 48 2 (s.hostWidth 1) + fieldAt 46 2 (s.hostWidth 0) +
    ((List.range nStacks).map fun k => fieldAt (34 + k) 1 (b2n (s.stackAt k).fenced)).sum +
    dies (fun d => (s.dieAt d).heldReset) 30 + dies (fun d => (s.dieAt d).rotStopped) 26 +
    ((List.range 4).map fun d => fieldAt (10 + 4 * d) 4 (min 15 (s.absentOn d))).sum +
    fieldAt 9 1 (b2n s.fw.rcOnly) + fieldAt 8 1 (b2n (decide (s.fw.cfg = 2)))

/-- IOD_BOOT (Table 15-2). TRIES and PREFERRED show the boot record once the ROM has read it. -/
def State.iodBoot (s : State) : Nat :=
  let f := s.fw
  let read := decide (f.stage ≠ 0)
  fieldAt 32 8 f.lastErr + fieldAt 24 8 (if read then f.boot.tries else 0) + fieldAt 16 4 f.stage + fieldAt 8 1 (b2n f.rcOnly) +
    fieldAt 6 2 f.cfg + fieldAt 5 1 (b2n (read && f.boot.preferred)) + fieldAt 4 1 (b2n f.slot) + b2n f.fallback

/-- IOD_FUSE and IOD_FUSE_RB (Table 15-6). -/
def State.iodFuse (s : State) : Nat := fieldAt 16 16 (2 ^ s.fw.epoch - 1) + fieldAt 8 1 (b2n s.fw.owner.isSome) + s.fw.revoked.toNat
def State.iodFuseRb (s : State) : Nat := (2 ^ s.fw.rb - 1) % 2 ^ 64

/-! ## Compute dies -/

/-- CD_TILE_MAP (Table 02-2). -/
def State.mapReg (s : State) (d n : Nat) : Nat :=
  let e := s.tmapAt (144 * d + n)
  fieldAt 31 1 (b2n e.valid) + fieldAt 30 1 (b2n e.migrating) + fieldAt 16 8 e.moves + fieldAt 8 8 e.row + fieldAt 0 8 e.col

/-- CD_PTILE_STATE (Table 02-4). -/
def State.ptileReg (s : State) (d m : Nat) : Nat :=
  let p := s.ptileAt (nPhys * d + m)
  fieldAt 29 3 p.shown.code + fieldAt 16 8 (if p.shown = .active then p.logical else 0xFF) + fieldAt 0 16 p.runs

/-- CD_TILE_SPARE (Table 02-5). -/
def State.spareReg (s : State) (d : Nat) : Nat :=
  let n := fun (x : PState) => ((List.range nPhys).filter fun m => decide ((s.ptileAt (nPhys * d + m)).shown = x)).length
  fieldAt 25 1 (b2n (decide (0 < s.absentOn d))) + fieldAt 24 1 (b2n (s.dieAt d).rotStopped) + fieldAt 16 8 (n .active) +
    fieldAt 12 4 (s.benchTiles d).length + fieldAt 8 4 (n .retiredFactory) + fieldAt 4 4 (n .retiredField) + fieldAt 0 4 (n .fenced)

/-- CD_FFUSE_STATUS (Table 03-12): 0 from cold reset until firmware has loaded the records (R68); a record whose programming is under way counts neither
as free nor as ignored. -/
def State.ffuseStatus (s : State) (d : Nat) : Nat :=
  let x := s.dieAt d
  let rec_ := fun (i : Nat) => Map.get (0 : BitVec 32) x.ffuse i
  if !x.tested then 0
  else
    fieldAt 8 7 ((List.range 64).filter fun i => decide (rec_ i ≠ 0) && !x.fusing.contains i && !fuseOk (rec_ i)).length +
      fieldAt 0 7 ((List.range 64).filter fun i => decide (rec_ i = 0)).length

/-- CD_ORIENT from the straps of Table 16-4 (Table 16-5). -/
def orientReg (d : Nat) : Nat :=
  fieldAt 4 2 d + fieldAt 3 1 (b2n (decide (d = 1 ∨ d = 2))) + fieldAt 2 1 (b2n (decide (2 ≤ d))) + fieldAt 1 1 (d % 2) + d / 2 % 2

/-- HBM_ERR, HBM_SCRUB (Tables 08-6, 08-7). -/
def Stack.errReg (k : Stack) : Nat := fieldAt 48 16 k.ue + fieldAt 16 32 k.ce + fieldAt 8 8 k.pprDone + fieldAt 0 8 k.pprLeft
def Stack.scrubReg (k : Stack) : Nat := k.passes.toNat * 2 ^ 32 + fieldAt 0 31 k.pos

/-- UPE_STATUS (Table 10-10). -/
def State.upeStatus (s : State) (d l : Nat) : Nat :=
  let u := s.engineAt (3 * d + l)
  let busy := u.dir.any fun e => e.2.valid && (e.2.state == .waitpin || e.2.state == .updating)
  fieldAt 4 2 ((u.server.getD (3 * d + l)) % 3) + fieldAt 2 2 (if u.disabled then 2 else if u.fenced then 1 else 0) + b2n busy

/-- The eight words of UPE_DIR (Table 10-3). -/
def DirEntry.word (e : DirEntry) : Nat → Nat
  | 0 => fieldAt 63 1 (b2n e.valid) + fieldAt 60 3 e.part + fieldAt 58 2 e.kind.toNat + fieldAt 57 1 (b2n e.crust) + fieldAt 54 3 e.state.code +
      fieldAt 52 2 e.vfmt.toNat + fieldAt 51 1 (b2n e.mfmt) + fieldAt 50 1 (b2n e.crustOk) + e.base.toNat
  | 1 => e.shard.toNat * 2 ^ 32 + e.tensor.toNat
  | 2 => e.slice0.toNat * 2 ^ 32 + e.nslice.toNat
  | 3 => e.version.toNat * 2 ^ 32 + e.target.toNat
  | 4 => e.pins.toNat * 2 ^ 48 + e.dgrp.toNat * 2 ^ 32 + e.crustVer.toNat
  | 5 => e.digest.toNat
  | 6 => e.gscale.toNat * 2 ^ 32 + e.rdig.toNat
  | _ => e.pbase.toNat

/-- PRV_DIE, PRV_TILE (Tables 13-8, 13-10). -/
def Die.prvReg (x : Die) : Nat :=
  fieldAt 48 16 x.rotations + fieldAt 40 8 x.provingM + fieldAt 32 8 x.next + fieldAt 24 8 x.dmFloor + fieldAt 16 4 x.ovenMax +
    fieldAt 1 1 (b2n x.windowEn) + b2n x.rotEn
def PTile.prvReg (p : PTile) : Nat :=
  fieldAt 56 8 p.arrayAttr + fieldAt 48 8 p.checkAttr + fieldAt 40 8 p.laneAttr + fieldAt 32 8 p.shadowAttr + fieldAt 24 8 p.unres +
    fieldAt 19 5 p.dmPass + fieldAt 16 3 p.lastRun + fieldAt 8 8 p.ovenDt + b2n p.pending

/-- The four words of D2D_MOD (Table 16-2) and D2D_LINK (Table 16-3). -/
def D2d.word (m : D2d) : Nat → Nat
  | 0 => fieldAt 62 2 (if m.off then 3 else if m.retired then 2 else if m.retraining then 1 else 0) + fieldAt 61 1 (b2n m.x32) +
      fieldAt 60 1 (b2n m.half) + fieldAt 56 4 m.txRepair + fieldAt 52 4 m.rxRepair
  | 1 => m.frames.toNat
  | 2 => fieldAt 0 48 m.crcFail
  | _ => fieldAt 48 16 m.retrains + fieldAt 0 48 m.retry
def State.linkReg (s : State) (d j : Nat) : Nat :=
  let down := if j = 0 then (s.dieAt d).heldReset || !(s.dieAt d).pllLock else (s.dieAt d).heldReset || (s.dieAt (neighbour d)).heldReset
  fieldAt 62 2 (if j = 1 && (s.dieAt d).nbrFenced then 1 else if down then 2 else 0) + fieldAt 48 8 (s.linkDegraded d j) +
    fieldAt 40 8 (s.linkServing d j).length

/-- CD_RAIL (Table 16-12). -/
def State.railReg (s : State) (d c : Nat) : Nat :=
  let hot := (List.range 12).foldl (fun x r => max x (s.ptileAt (nPhys * d + 13 * r + c)).tj) 0
  fieldAt 16 8 (s.railTherm d c) + fieldAt 8 8 hot + fieldAt 0 8 (s.railSet d c)

/-- Reset enables of a gateable unit, bits RUN_EN, SLEEP_EN, DEEP_EN (Table 16-10); die 4 is the IOD. -/
def gateReset (d i : Nat) : BitVec 3 :=
  if d < 4 then (if i < 156 then 3 else if i < 159 then 4 else 7)
  else if i < 16 then 6 else if i < 19 then 7 else if i < 21 then 0 else if i = 21 then 1 else 7

/-- Gateable units of a die (Table 16-10). -/
def nGates (d : Nat) : Nat := if d < 4 then 186 else 86

def State.gateEn (s : State) (d i : Nat) : BitVec 3 := (s.gateAt (200 * d + i)).en.getD (gateReset d i)

/-- Whether a gateable unit has work (R431). A memory controller always has some: the patrol scrub. -/
def State.unitBusy (s : State) (d i : Nat) : Bool :=
  let module_ := fun (k : Nat) => (s.moduleAt k).retraining || !(s.moduleAt k).replay.isEmpty
  if d < 4 then
    if i < 156 then
      let p := s.ptileAt (nPhys * d + i)
      let t := s.tileAt (144 * d + p.logical)
      p.run.isSome || (p.state == .active && (allStreams.any (fun st => (t.streamAt st).run) || !t.array.isEmpty || !t.copyQ.isEmpty))
    else if i < 159 then true
    else if i < 162 then (s.engineAt (3 * d + (i - 159))).cur.isSome || !(s.engineAt (3 * d + (i - 159))).wbs.isEmpty
    else module_ (24 * d + (i - 162))
  else if i < 16 then [0, 1, 2, 3].any fun q => (s.portAt (4 * i + q)).trained
  else if i = 16 then !s.ops.isEmpty
  else if i = 17 then s.part.any fun p => !p.2.deciding.isEmpty
  else if i = 18 then !s.board.isEmpty
  else if i < 21 then true
  else if i = 21 then s.fw.packXfer.isSome || s.fw.imgXfer.isSome
  else module_ (24 * ((i - 22) / 16) + (i - 22) % 16)

/-- NOW of PWR_GATE (R431): in sleep and deep sleep as the unit's enables say; in run a clock-gated unit runs again as soon as it has work. -/
def State.gateNow (s : State) (d i : Nat) : Nat :=
  let en := s.gateEn d i
  if d = 4 ∧ (i = 19 ∨ i = 20) then 0
  else match s.pwr.state with
  | .sleep => if en.getLsbD 1 then 2 else 1
  | .deep => if en.getLsbD 2 then 3 else 2
  | .run => if (s.gateAt (200 * d + i)).now = 1 ∧ s.unitBusy d i = false then 1 else 0
  | _ => 0

/-- PWR_GATE (Table 16-9). -/
def State.gateReg (s : State) (d i : Nat) : Nat :=
  let en := (s.gateEn d i).toNat
  if nGates d ≤ i then 0 else fieldAt 8 3 (s.gateNow d i) + en

/-- A physical tile's register block (R44, Tables 03-1 to 03-10, 02-6, R186). -/
def State.physReg (s : State) (g o : Nat) : Nat :=
  let p := s.ptileAt g
  let t := s.tileAt (144 * (g / nPhys) + p.logical)
  let serves := p.shown == .active
  if o = 0x100 then fieldAt 32 4 p.origin.toNat + p.rowSkip0.toNat * 2 ^ 24 + p.rowSkip1.toNat * 2 ^ 16 + p.colSkip0.toNat * 2 ^ 8 + p.colSkip1.toNat
  else if o = 0x108 then fieldAt 9 1 (b2n (serves && t.held.isSome)) + fieldAt 8 1 (b2n ((serves && !t.array.isEmpty) || p.proving)) + fieldAt 0 5 p.dmargin
  else if o = 0x110 then p.tokens.toNat
  else if o = 0x118 then fieldAt 0 48 p.chkMismatch
  else if o = 0x120 then fieldAt 0 48 p.chkSkip
  else if o = 0x128 then fieldAt 0 48 p.tallyFault
  else if o = 0x130 then fieldAt 0 48 p.lsCorr
  else if o = 0x138 then fieldAt 8 1 (b2n p.clamped) + signedAt 0 8 p.vtrim
  else 0

/-- A logical tile's register block (Tables 06-3 to 06-9, 07-6, 09-7 to 09-9). -/
def State.logReg (s : State) (n o : Nat) : Nat :=
  let t := s.tileAt n
  let str := fun (k : Nat) => t.streamAt (StreamId.ofCode k)
  let own := fun (b : Nat) => match (Map.get {} t.bank b).owner with | some x => x.code | none => 3
  if o < 0x18 then (s.streamWord n (StreamId.ofCode (o / 8))).toNat
  else if o = 0x20 then fieldAt 44 4 t.ptr + fieldAt 36 4 t.last + t.slots.toNat
  else if o = 0x28 then own 1 * 4 + own 0
  else if o = 0x30 then fieldAt 8 8 t.sbHwm + fieldAt 0 8 t.sb.length
  else if 0x40 ≤ o ∧ o < 0xC0 then twoOf (fun k => let c := Map.get {} t.sc k; fieldAt 16 1 (b2n c.ovf) + c.value.toNat) ((o - 0x40) / 4)
  else if 0x100 ≤ o ∧ o < 0x140 then fieldAt 0 48 (Map.get 0 t.idle ((o - 0x100) / 8))
  else if 0x200 ≤ o ∧ o < 0x2C0 then fieldAt 0 48 (Map.get 0 t.wait ((o - 0x200) / 8))
  else if 0x300 ≤ o ∧ o < 0x318 then fieldAt 0 48 (Map.get 0 t.miss ((o - 0x300) / 8))
  else if o = 0x318 then fieldAt 0 48 t.xhaz
  else if 0x340 ≤ o ∧ o < 0x370 then
    let f := (str ((o - 0x340) / 16)).fault
    if o % 16 = 0 then f.pc.toNat * 2 ^ 16 + f.code.toNat * 2 ^ 8 + b2n f.valid else f.detail.toNat
  else if 0x400 ≤ o ∧ o < 0x430 then
    let x := str ((o - 0x400) / 16)
    let open_ := x.brew.phase != .idle
    if o % 16 = 0 then x.tstat.openPc.toNat * 2 ^ 16 + x.tstat.user.toNat * 2 ^ 8 + x.tstat.code.toNat
    else x.tstat.serial.toNat * 2 ^ 32 + (if open_ then fieldAt 16 13 x.brew.extLines.length + fieldAt 11 3 x.brew.depth + fieldAt 0 11 x.brew.lsGran.length else 0)
  else if o = 0x430 then fieldAt 32 13 t.linesHwm + fieldAt 16 11 t.granHwm + fieldAt 0 14 t.rlinesHwm
  else if 0x480 ≤ o ∧ o < 0x540 then fieldAt 0 48 (Map.get 0 t.brwCnt ((o - 0x480) / 8))
  else 0

/-- Eight bytes of a compute die's configuration space at the 8-byte-aligned offset `o`. -/
def State.cdQuad (s : State) (d o : Nat) : Nat :=
  if o = 0 then idRev d
  else if o = 8 then orientReg d
  else if o = 0x100 then s.spareReg d + s.ffuseStatus d * 2 ^ 32
  else if 0x1000 ≤ o ∧ o < 0x1240 then twoOf (s.mapReg d) ((o - 0x1000) / 4)
  else if 0x1400 ≤ o ∧ o < 0x1670 then twoOf (s.ptileReg d) ((o - 0x1400) / 4)
  else if 0x1800 ≤ o ∧ o < 0x1900 then twoOf (fun i => (Map.get (0 : BitVec 32) (s.dieAt d).ffuse i).toNat) ((o - 0x1800) / 4)
  else if 0x3000 ≤ o ∧ o < 0x3C00 then
    let k := s.stackAt (3 * d + (o - 0x3000) / 0x400)
    let r := o % 0x400
    if r = 0 then k.errReg else if r = 8 then k.scrubReg
    else if 0x100 ≤ r ∧ r < 0x240 then twoOf (fun g => (Map.get (0 : BitVec 32) k.gran g).toNat) ((r - 0x100) / 4) else 0
  else if 0x5000 ≤ o ∧ o < 0x5300 then
    let l := (o - 0x5000) / 0x100
    let r := o % 0x100
    if r = 0 then s.upeStatus d l
    else if 0x10 ≤ r ∧ r < 0x70 then fieldAt 0 48 (Map.get 0 (s.engineAt (3 * d + l)).cnt ((r - 0x10) / 8)) else 0
  else if o = 0x6000 then (s.dieAt d).prvReg
  else if 0x6010 ≤ o ∧ o < 0x6070 then fieldAt 0 48 (Map.get 0 (s.dieAt d).prvCnt ((o - 0x6010) / 8))
  else if 0x6400 ≤ o ∧ o < 0x68E0 then (s.ptileAt (nPhys * d + (o - 0x6400) / 8)).prvReg
  else if 0x7000 ≤ o ∧ o < 0x7300 then (s.moduleAt (24 * d + (o - 0x7000) / 0x20)).word (o % 0x20 / 8)
  else if o = 0x7300 ∨ o = 0x7308 then s.linkReg d ((o - 0x7300) / 8)
  else if 0x7500 ≤ o ∧ o < 0x7538 then twoOf (fun c => if c < 13 then s.railReg d c else 0) ((o - 0x7500) / 4)
  else if 0x7800 ≤ o ∧ o < 0x7AE8 then twoOf (s.gateReg d) ((o - 0x7800) / 4)
  else if 0x100000 ≤ o ∧ o < 0x19C000 then s.physReg (nPhys * d + (o - 0x100000) / 0x1000) (o % 0x1000)
  else if 0x200000 ≤ o ∧ o < 0x290000 then s.logReg (144 * d + (o - 0x200000) / 0x1000) (o % 0x1000)
  else if 0x400000 ≤ o ∧ o < 0x4C0000 then
    (Map.get {} (s.engineAt (3 * d + (o - 0x400000) / 0x40000)).dir (o % 0x40000 / 0x40)).word (o % 0x40 / 8)
  else 0

/-! ## The IOD -/

/-- A loaf descriptor's 64 bytes (Table 02-8, R34). -/
def Loaf.encode (l : Loaf) : List Byte :=
  let w := fieldAt 63 1 (b2n l.valid) + fieldAt 60 3 l.kind + fieldAt 57 3 l.part + fieldAt 56 1 (b2n l.busy) + fieldAt 55 1 (b2n l.degraded) +
    fieldAt 54 1 (b2n l.isCont) + fieldAt 32 16 l.size + fieldAt 16 16 l.nameTag.toNat + fieldAt 10 1 (b2n l.contV) + fieldAt 0 10 l.cont
  let body :=
    if l.kind = 0 then natLe 2 l.members.length ++ l.members.flatMap fun m => natLe 2 m.toNat
    else if l.kind = 1 then natLe 1 l.dieMask.toNat ++ natLe 1 l.rowLo ++ natLe 1 l.rowHi ++ natLe 1 l.colLo ++ natLe 1 l.colHi
    else natLe 1 l.die
  natLe 8 w ++ if l.valid then body else []

/-- CLX_GROUP (Table 12-2). -/
def Part.groupReg (q : Part) (g : Nat) : Nat :=
  match q.cuts g with
  | some c => fieldAt 63 1 1 + fieldAt 58 5 c.toNat + fieldAt 43 15 (q.groupSize c) + fieldAt 29 14 (q.groupRank c)
  | none => fieldAt 58 5 (Map.get (0 : BitVec 6) q.group g).toNat

/-- The words of CLX_JOB (Table 12-12). -/
def Part.jobWord (q : Part) : Nat → Nat
  | 0 => q.tag.toNat
  | 1 => q.tagStep.toNat * 2 ^ 32 + fieldAt 31 1 (b2n q.job) + fieldAt 0 14 q.jrank
  | 2 => q.prevTag.toNat
  | 3 => q.prevStep.toNat * 2 ^ 32
  | 4 => q.mapAddr.toNat
  | _ => 0

/-- The words of PART_TABLE (Table 14-11). -/
def Part.tableWord (q : Part) : Nat → Nat
  | 0 => fieldAt 63 1 (b2n q.valid) + fieldAt 62 1 q.owner.idx + fieldAt 61 1 (b2n (!q.changes.isEmpty)) + fieldAt 58 3 q.state.code +
      fieldAt 56 2 q.orphan.toNat + fieldAt 40 16 q.orphanN.toNat + fieldAt 32 8 q.boardMask.toNat + fieldAt 16 16 q.lease.toNat + q.quota.toNat
  | 1 => q.seed.toNat
  | 2 => q.changeId.toNat * 2 ^ 32 + q.pairs.toNat
  | _ => fieldAt 32 16 q.orphanLeft.toNat + q.leaseLeft.toNat

/-- AQP_STATUS, AQP_PEER_INFO (Tables 11-8, 11-9). -/
def State.aqpStatus (s : State) (n : Nat) : Nat :=
  let q := s.portAt n
  let owner := s.pairPart n
  fieldAt 60 4 q.state.code + fieldAt 56 4 q.reason + fieldAt 53 3 q.width + fieldAt 49 4 q.lanesOk.toNat + fieldAt 42 6 q.lport +
    fieldAt 38 4 q.dir + fieldAt 37 1 (b2n owner.isSome) + fieldAt 34 3 (owner.getD 0) + fieldAt 33 1 (b2n q.anchor) +
    fieldAt 32 1 (b2n (decide (q.state ≠ .disabled ∧ q.lport ≠ n))) + fieldAt 28 4 q.aqpMaj + fieldAt 24 4 q.aqpMin + fieldAt 0 12 q.held.length
def Port.peerInfo (q : Port) : Nat :=
  fieldAt 56 8 q.peerPort + fieldAt 52 4 q.peerDir + fieldAt 48 4 q.peerSlot + fieldAt 40 8 q.peerAqpMaj + fieldAt 32 8 q.peerAqpMin +
    fieldAt 16 16 q.peerFwMaj + fieldAt 0 16 q.peerFwMin

/-- A port's register block (Table 11-7). -/
def State.portReg (s : State) (n o : Nat) : Nat :=
  let q := s.portAt n
  if o = 0 then s.aqpStatus n
  else if o = 8 then q.peerSerial.toNat
  else if o = 0x10 then q.peerInfo
  else if o = 0x18 then q.peerTag.toNat
  else if o = 0x20 then q.plan0.toNat
  else if o = 0x28 then q.plan1.toNat
  else if 0x100 ≤ o ∧ o < 0x120 then Map.get 0 q.laneSym ((o - 0x100) / 8)
  else if 0x120 ≤ o ∧ o < 0x140 then Map.get 0 q.laneErr ((o - 0x120) / 8)
  else if 0x140 ≤ o ∧ o < 0x1C8 then Map.get 0 q.cwHist ((o - 0x140) / 8)
  else if o = 0x1C8 then q.crcFail
  else if o = 0x1D0 then q.nakSent
  else if o = 0x1D8 then q.retry
  else if o = 0x1E0 then q.replayHwm
  else if o = 0x1E8 then q.linkDown
  else if o = 0x1F0 then q.degrade
  else if o = 0x1F8 then q.quar
  else if 0x200 ≤ o ∧ o < 0x240 then Map.get 0 q.stall ((o - 0x200) / 8)
  else if o = 0x240 then q.txFlits
  else if o = 0x248 then q.rxFlits
  else if o = 0x250 then q.msgLost
  else 0

/-- CRB_STATUS, CRB_QUEUE (Tables 13-14, 13-15). -/
def CrumbSt.statusReg (q : CrumbSt) : Nat := fieldAt 32 16 q.lost + fieldAt 16 16 q.i3cLost + fieldAt 0 6 q.fifo.length
def CrumbSt.queueReg (q : CrumbSt) : Nat := fieldAt 32 24 q.escalated + fieldAt 16 16 q.dropped + fieldAt 8 8 q.hwm + fieldAt 0 8 (min 64 q.errQ.length)

/-- CLK_STATUS (Table 16-7). -/
def State.clkStatus (s : State) : Nat :=
  fieldAt 40 8 s.clk.restarts + ((List.range 4).map fun d => fieldAt (36 + d) 1 (b2n (s.dieAt d).pllLock)).sum + fieldAt 35 1 (b2n s.clk.iodLock) +
    fieldAt 34 1 (b2n s.clk.xtalOk) + fieldAt 33 1 (b2n s.fw.rcOnly) + fieldAt 11 1 (b2n s.clk.hold) + fieldAt 9 2 s.clk.fabref +
    fieldAt 8 1 (b2n (s.clk.ssc.getLsbD 0)) + fieldAt 6 2 (s.hostAt 1).clocking + fieldAt 4 2 (s.hostAt 0).clocking

/-- CLK_DOM (Table 16-8): the measured frequency of a locked domain is the set one (log 27). -/
def State.clkDom (s : State) (i : Nat) : Nat :=
  let f := Map.get 0 s.clk.domSet i
  let locked := if 3 ≤ i then (s.dieAt (i - 3)).pllLock else s.clk.iodLock
  fieldAt 16 16 f + if locked then fieldAt 0 16 f else 0

/-- Whether thermal pacing holds an ACTIVE tile or a column (R441). -/
def State.thermalCause (s : State) : Bool :=
  s.die.any (fun e => !e.2.railTherm.isEmpty) || s.ptile.any fun e => e.2.trimBase.isSome

/-- PWR_STATUS (Table 16-12). -/
def State.pwrStatus (s : State) : Nat :=
  let hot := (s.ptile.filter fun e => e.2.state == .active).foldl (fun x e => max x e.2.tj) 0
  fieldAt 60 4 s.pwr.state.code + fieldAt 56 1 (b2n s.pwr.limitCause) + fieldAt 57 1 (b2n s.thermalCause) + fieldAt 58 1 (b2n s.pwr.throttleCause) +
    fieldAt 59 1 (b2n s.pwr.vinCause) + fieldAt 44 12 s.limitW + fieldAt 32 12 s.pwr.pinW + fieldAt 24 8 s.pwr.offset + fieldAt 16 8 hot

/-- IOD_SIDEBAND, PWR_TELEM (Tables 17-8, 17-3). -/
def Side.word (x : Side) : Nat :=
  x.chatter.toNat * 2 ^ 56 + x.level.toNat * 2 ^ 48 + x.slotIdx.toNat * 2 ^ 45 + x.slew.toNat * 2 ^ 40 + fieldAt 36 4 x.rstCause + fieldAt 0 16 x.events
def Side.telem (x : Side) : Nat := fieldAt 48 16 x.vinMv + fieldAt 32 16 x.vinDa + fieldAt 16 16 x.vauxMv + fieldAt 0 16 x.vauxMa

/-- AQP_LASER (Table 17-10). -/
def Laser.word (x : Laser) : Nat := signedAt 32 16 x.pwr1 + signedAt 16 16 x.pwr0 + fieldAt 8 8 x.temp + fieldAt 1 1 (b2n x.lit1) + b2n x.lit0

/-- The tables of the blend engine, host windows and brews in the IOD. -/
def State.blendQuad (s : State) (o : Nat) : Nat :=
  if o < 0x120000 then twoOf (fun i => (Map.get (0 : BitVec 32) (s.partAt ((o - 0x100000) / 0x4000)).slot (i % 0x1000)).toNat) ((o - 0x100000) / 4)
  else if 0x160000 ≤ o ∧ o < 0x160080 then
    let q := s.partAt ((o - 0x160000) / 16)
    if o % 16 = 0 then q.pctrl.toNat else fieldAt 48 16 q.late + fieldAt 24 24 q.unmapped + fieldAt 0 24 q.logLost
  else if 0x180000 ≤ o ∧ o < 0x1C0000 then
    (Map.get {} (s.partAt ((o - 0x180000) / 0x8000)).row (o % 0x8000 / 32)).word.toNat / 2 ^ (8 * (o % 32)) % 2 ^ 64
  else if 0x200000 ≤ o ∧ o < 0x200800 then
    let w := s.hwinAt ((o - 0x200000) / 0x100) (o % 0x100 / 16)
    if o % 16 = 0 then w.1.toNat else w.2.toNat
  else 0

/-- The tables of partitions, jobs and collectives in the IOD. -/
def State.tableQuad (s : State) (o : Nat) : Nat :=
  if 0x300000 ≤ o ∧ o < 0x300080 then (if o % 16 = 0 then (s.partAt ((o - 0x300000) / 16)).jbase.toNat else 0)
  else if o = 0x300080 then fieldAt 48 16 s.rpPoisoned + fieldAt 32 16 s.rpSkipped + fieldAt 0 32 s.rpReplayed
  else if 0x310000 ≤ o ∧ o < 0x310080 then
    let q := s.partAt ((o - 0x310000) / 16)
    if o % 16 = 0 then fieldAt 24 24 q.diverged + fieldAt 9 1 (b2n q.action) + q.dint.toNat else 0
  else if 0x320000 ≤ o ∧ o < 0x320200 then (s.partAt ((o - 0x320000) / 0x40)).jobWord (o % 0x40 / 8)
  else if 0x320200 ≤ o ∧ o < 0x320240 then (s.partAt ((o - 0x320200) / 8)).fence.toNat
  else if o = 0x320300 then s.clx.pairsOk.toNat * 2 ^ 32 + fieldAt 12 10 s.clx.earlyHwm + fieldAt 0 9 s.clx.opsHwm
  else if 0x320400 ≤ o ∧ o < 0x320800 then fieldAt 0 48 (Map.get 0 (s.partAt ((o - 0x320400) / 0x80)).clxCnt (o % 0x80 / 8))
  else if 0x340000 ≤ o ∧ o < 0x350000 then (s.partAt ((o - 0x340000) / 0x2000)).groupReg (o % 0x2000 / 8)
  else if o = 0x360000 then s.crumb.statusReg
  else if o = 0x360008 then s.crumb.ctr.toNat
  else if o = 0x360010 then s.crumb.queueReg
  else if 0x380000 ≤ o ∧ o < 0x380100 then (s.partAt ((o - 0x380000) / 0x20)).tableWord (o % 0x20 / 8)
  else if 0x381000 ≤ o ∧ o < 0x381900 then
    twoOf (fun n => let t := s.ptTileAt n; fieldAt 4 1 (b2n t.pending) + fieldAt 3 1 (b2n t.owned) + fieldAt 0 3 t.part) ((o - 0x381000) / 4)
  else if 0x390000 ≤ o ∧ o < 0x390200 then (if o % 0x100 < 0x40 then (Map.get (0 : Word) (s.hostAt ((o - 0x390000) / 0x100)).bar2 (o % 0x100 / 8)).toNat else 0)
  else if o = 0x3A0000 then s.clkStatus
  else if o = 0x3A0008 then s.clk.ssc.toNat
  else if 0x3A0010 ≤ o ∧ o < 0x3A0048 then s.clkDom ((o - 0x3A0010) / 8)
  else if o = 0x3A0100 then s.pwrStatus
  else if 0x3A0110 ≤ o ∧ o < 0x3A0140 then fieldAt 0 48 (Map.get 0 s.pwr.pace ((o - 0x3A0110) / 8))
  else if o = 0x3A0200 then s.side.word
  else if o = 0x3A0208 then s.side.telem
  else if 0x3A1000 ≤ o ∧ o < 0x3A1158 then twoOf (s.gateReg 4) ((o - 0x3A1000) / 4)
  else 0

/-- Eight bytes of the IOD's configuration space at the 8-byte-aligned offset `o`. -/
def State.iodQuad (s : State) (o : Nat) : Nat :=
  if o = 0 then idRev 4
  else if o = 8 then Config.serial.toNat
  else if o = 0x10 then pkgId
  else if o = 0x18 then s.pkgDegrade
  else if o = 0x20 then s.iodBoot
  else if o = 0x28 then s.iodFuse
  else if o = 0x30 then s.iodFuseRb
  else if 0x100 ≤ o ∧ o < 0x200 then bytesAt (hashBytes (Map.get 0 s.fw.mr ((o - 0x100) / 0x20))) (o % 0x20)
  else if 0x40000 ≤ o ∧ o < 0x50000 then bytesAt (s.loafAt ((o - 0x40000) / 64)).encode (o % 64)
  else if 0x100000 ≤ o ∧ o < 0x300000 then s.blendQuad o
  else if 0x300000 ≤ o ∧ o < 0x400000 then s.tableQuad o
  else if 0x1000000 ≤ o ∧ o < 0x1040000 then s.portReg ((o - 0x1000000) / 0x1000) (o % 0x1000)
  else if 0x1040000 ≤ o ∧ o < 0x1040080 then
    let q := s.partAt ((o - 0x1040000) / 16)
    if o % 16 = 0 then fieldAt 31 1 (b2n q.planValid) + q.darkMax.toNat * 2 ^ 20 + q.degrade.toNat * 2 ^ 12 + q.relabel.toNat else 0
  else if 0x1040100 ≤ o ∧ o < 0x1040300 then (Map.get (0 : Word) (s.partAt ((o - 0x1040100) / 0x40)).broute (o % 0x40 / 8)).toNat
  else if 0x1040400 ≤ o ∧ o < 0x1040480 then (s.laserAt ((o - 0x1040400) / 8)).word
  else 0

/-- Eight bytes of a die's configuration space: 0 to 3 the compute dies, 4 the IOD, every other number reads zero (Table 14-4). -/
def State.regQuad (s : State) (die o : Nat) : Nat := if die < 4 then s.cdQuad die o else if die = 4 then s.iodQuad o else 0

/-- One byte of a die's configuration space. -/
def State.regByte (s : State) (die o : Nat) : Byte := BitVec.ofNat 8 (s.regQuad die (o / 8 * 8) / 2 ^ (8 * (o % 8)))

/-- `n` bytes from configuration offset `o` on. -/
def State.regRead (s : State) (die o n : Nat) : List Byte := (List.range n).map fun i => s.regByte die (o + i)

end Sys2Proof.Machine
end

