-- ==== Sys2Proof/Machine/Pack.lean ====
section
/-! DEFINITION. Starter packs and their transfer (R355–R358), measurements (R396, R397) and the images' header checks (R389). -/

namespace Sys2Proof.Machine

/-! ## Keys, measurements, images -/

/-- The vendor public key of slot `k` and its fused hash (R393). -/
def vendorPub (k : Nat) : List Byte := natBe 60 (Config.vendorKey k).toNat
def vendorHash (k : Nat) : BitVec 256 := sha256 (vendorPub k)

/-- Extends a measurement register and logs it (R396, R397). -/
def State.extendMr (s : State) (r kind : Nat) (digest : BitVec 256) : State :=
  let f := s.fw
  let v := sha256 (hashBytes (Map.get 0 f.mr r) ++ hashBytes digest)
  let full := decide (1024 ≤ f.mlog.length)
  let e : Nat × Nat × BitVec 256 × Nat := (r, kind, digest, f.mlog.length + f.mlogLost)
  { s with fw := { f with
      mr := Map.put 0 f.mr r v
      mlog := if full then f.mlog else f.mlog ++ [e]
      mlogLost := if full then f.mlogLost + 1 else f.mlogLost } }

/-- The image the bytes of a slot hold (R389, Table 15-4): its header, then the first stage at 0x2000, the firmware and the data section, each aligned to
4 KiB. A KEY_SLOT that no slot has counts with MAGIC and FMT (log 42). -/
def imageOf (b : List Byte) : ImageInfo :=
  let v := fun (o n : Nat) => fld b o n
  let hash := fun (o : Nat) => BitVec.ofNat 256 (leNat (slice b o 32).reverse)
  let mf := roundUp (0x2000 + v 0x14 4) 4096
  { magicOk := decide (slice b 0 4 = [0x4B, 0x58, 0x46, 0x57] ∧ v 4 2 = 1 ∧ v 6 1 < 4), keySlot := BitVec.ofNat 2 (v 6 1), svn := v 7 1, fwMajor := BitVec.ofNat 16 (v 8 2)
    fwMinor := BitVec.ofNat 16 (v 0xA 2), hver := BitVec.ofNat 16 (v 0xC 2), iodLo := b.getD 0x10 0, iodHi := b.getD 0x11 0, cdLo := b.getD 0x12 0
    cdHi := b.getD 0x13 0, pubKey := slice b 0x80 60, header := slice b 0 256, sig := slice b 0x100 (v 0xBC 2), fsHash := hash 0x20, mfHash := hash 0x40
    dataHash := hash 0x60, firstStage := slice b 0x2000 (v 0x14 4), firmware := slice b mf (v 0x18 4), data := slice b (roundUp (mf + v 0x18 4) 4096) (v 0x1C 4) }

/-- The first check of R389 that an image fails, as LAST_ERR codes it (Table 15-2); 0 none. `full` takes the firmware's and the data section's hashes in. -/
def State.imageError (s : State) (i : ImageInfo) (full : Bool) : Nat :=
  let major := (Config.idRev 4).1
  if !i.magicOk then 1
  else if s.fw.revoked.getLsbD i.keySlot.toNat then 3
  else if sha256 i.pubKey ≠ vendorHash i.keySlot.toNat ∨ hssVerify i.pubKey i.header i.sig = false then 2
  else if i.svn < s.fw.rb then 4
  else if major < i.iodLo ∨ i.iodHi < major then 6
  else if sha256 i.firstStage ≠ i.fsHash then 5
  else if full ∧ (sha256 i.firmware ≠ i.mfHash ∨ sha256 i.data ≠ i.dataHash) then 5
  else 0

/-- The image of a slot (false A, true B). -/
def Fw.image (f : Fw) (b : Bool) : Option ImageInfo := if b then f.imgB.image else f.imgA.image

/-- FW of a slot as one number, major in [31:16]. -/
def Fw.versionOf (f : Fw) (b : Bool) : BitVec 32 := match f.image b with | some i => i.fwMajor ++ i.fwMinor | none => 0

/-- Whether a compute die's MAJOR lies in an image's range (R406, R409). -/
def ImageInfo_serves (i : ImageInfo) (d : Nat) : Bool := decide (i.cdLo ≤ (Config.idRev d).1 ∧ (Config.idRev d).1 ≤ i.cdHi)

/-- The package MAJOR (R409): held by the most compute dies of the image's range; on a tie, by the lowest-numbered of the tied dies. -/
def State.packageMajor (s : State) : Option Byte :=
  match s.fw.image s.fw.slot with
  | none => none
  | some i =>
    let ok := (List.range 4).filter (ImageInfo_serves i)
    let votes := fun (d : Nat) => (ok.filter fun e => decide ((Config.idRev e).1 = (Config.idRev d).1)).length
    (ok.find? fun d => ok.all fun e => decide (votes e ≤ votes d)).map fun d => (Config.idRev d).1

/-! ## The contents of a pack -/

/-- An entry of Table 13-17: TYPE, INDEX, OFFSET, BLEN, HASH. -/
structure PackEntry where
  type  : Nat
  index : Nat
  off   : Nat
  blen  : Nat
  hash  : Nat
  clean : Bool
  deriving DecidableEq, Repr

/-- The entry table (Tables 13-16, 13-17). -/
def packEntries (b : List Byte) : List PackEntry :=
  (List.range (fld b 6 2)).map fun i =>
    let o := 64 + 48 * i
    { type := fld b o 1, index := fld b (o + 1) 1, off := fld b (o + 4) 4, blen := fld b (o + 8) 4
      hash := leNat (slice b (o + 16) 32).reverse, clean := fld b (o + 2) 2 == 0 && fld b (o + 12) 4 == 0 }

/-- A segment record (Table 13-18). -/
def segmentAt (b : List Byte) (o : Nat) : Segment :=
  { pattern := fld b o 1, kind := fld b (o + 1) 1, trim := sext 8 (fld b (o + 2) 1), dmargin := fld b (o + 3) 1, oven := fld b (o + 4) 1
    dur := fld b (o + 6) 2, outOff := fld b (o + 8) 4, outLen := fld b (o + 12) 4 }

/-- The records of a schedule body. -/
def segmentsOf (b : List Byte) (e : PackEntry) : List Segment := (List.range (e.blen / 16)).map fun i => segmentAt b (e.off + 16 * i)

/-- The pattern and CRC-64 records of the expected-signature bodies. -/
def packSigs (b : List Byte) : List (Nat × Word) :=
  ((packEntries b).filter fun e => decide (e.type = 2)).flatMap fun e =>
    (List.range (e.blen / 16)).map fun i => (fld b (e.off + 16 * i) 1, BitVec.ofNat 64 (fld b (e.off + 16 * i + 8) 8))

/-- The schedule of a type: rotation 3, window 4. -/
def packSchedule (b : List Byte) (type : Nat) : List Segment :=
  match (packEntries b).find? fun e => decide (e.type = type) with | some e => segmentsOf b e | none => []

/-- What a pack brings (R355). -/
def decodePack (b : List Byte) : Pack :=
  { id := BitVec.ofNat 32 (fld b 8 4), ver := BitVec.ofNat 32 (fld b 12 4), rotation := packSchedule b 3, window := packSchedule b 4, sigs := packSigs b }

/-- Reserved bytes of an entry's body, its record size and its largest size (R355). -/
def bodyOk (b : List Byte) (e : PackEntry) : Bool :=
  let recs := List.range (e.blen / 16)
  if e.type = 1 then decide (e.blen ≤ 8192)
  else if e.type = 2 then decide (e.blen % 16 = 0) && recs.all fun i => decide (fld b (e.off + 16 * i + 1) 7 = 0)
  else decide (e.blen % 16 = 0) && recs.all fun i => decide (fld b (e.off + 16 * i + 5) 1 = 0)

/-- Code 2 of Table 13-19. -/
def packFormatBad (b : List Byte) : Bool :=
  let len := fld b 16 4
  let es := packEntries b
  decide (slice b 0 4 ≠ [0x4B, 0x58, 0x53, 0x50] ∨ fld b 4 2 ≠ 1 ∨ fld b 6 2 = 0 ∨ 64 < fld b 6 2 ∨ leNat (slice b 0x1C 36) ≠ 0 ∨
    len < 64 + 48 * fld b 6 2 ∨ b.length < len) ||
    es.any fun e => !e.clean || decide (e.type = 0 ∨ 4 < e.type ∨ len < e.off + e.blen) || !bodyOk b e

/-- A segment breaks code 5 of Table 13-19. -/
def segmentBad (g : Segment) : Bool :=
  decide (2 < g.kind ∨ g.trim < -16 ∨ 8 < g.trim ∨ (16 < g.dmargin ∧ g.dmargin ≠ 0xFF) ∨ 15 < g.oven ∨ g.dur = 0 ∨ g.outOff % 64 ≠ 0 ∨
    g.outLen < 64 ∨ 65536 < g.outLen ∨ lsSize < g.outOff + g.outLen) ||
  decide (g.kind = 0 ∧ (g.trim ≠ 0 ∨ g.dmargin ≠ 0 ∨ g.oven ≠ 0)) ||
  decide (g.kind = 2 ∧ (g.dmargin ≠ 0 ∨ g.oven ≠ 0 ∨ g.outOff < 0x170000 ∨ 0x180000 < g.outOff + g.outLen))

/-- Code 5 of Table 13-19: durations are in 100 µs. -/
def packScheduleBad (b : List Byte) : Bool :=
  let es := packEntries b
  let rot := packSchedule b 3
  let win := packSchedule b 4
  let total := fun (xs : List Segment) => (xs.map fun g => g.dur).sum
  let lacks := fun (g : Segment) => !(es.any fun e => decide (e.type = 1 ∧ e.index = g.pattern)) || !((packSigs b).any fun x => decide (x.1 = g.pattern))
  rot.isEmpty || win.isEmpty || decide (16 < rot.length ∨ 4 < win.length ∨ total rot < 5000 ∨ 100000 < total rot ∨ 8 < total win) ||
    (rot ++ win).any fun g => segmentBad g || lacks g

/-- Whether a pack's signature verifies (R355): the enrolled owner key, or an unrevoked vendor key while none is enrolled. -/
def State.packSigned (s : State) (b : List Byte) : Bool :=
  let len := fld b 16 4
  let msg := b.take len
  let sig := slice b len (fld b 0x1A 2)
  match s.fw.owner with
  | some _ => (match s.ownerKey with | some k => hssVerify k msg sig | none => false)
  | none => (List.range 4).any fun k => !s.fw.revoked.getLsbD k && hssVerify (vendorPub k) msg sig

/-- The code of the first check of Table 13-19 that a received pack fails; 0 accepted. The transfer's own hash is checked with the entries'. -/
def State.packError (s : State) (x : Xfer) : Nat :=
  let b := x.bytes
  if 4194304 < x.len ∨ 4194304 < b.length then 1
  else if packFormatBad b then 2
  else if !s.packSigned b then 3
  else if sha256 b ≠ x.hash ∨ (packEntries b).any (fun e => decide ((sha256 (slice b e.off e.blen)).toNat ≠ e.hash)) then 4
  else if packScheduleBad b then 5
  else if fld b 12 4 ≤ s.fw.pack.ver.toNat then 6
  else if s.fw.version.toNat < fld b 0x14 4 then 7
  else if s.packageMajor.map (·.toNat) ≠ some (fld b 0x18 2) then 8
  else 0

/-! ## The transfer -/

/-- The 16-byte header of a transfer message (R358). -/
def xferHdr (ty : Nat) (xfer : BitVec 32) (off : Nat) : List Byte := natLe 4 ty ++ natLe 4 xfer.toNat ++ natLe 4 off ++ [0, 0, 0, 0]

/-- A message of the package's own to a transfer's sender: a datagram on the management port, the response register of the I3C target; a host port has
no place for one outside a response (log 25). -/
def State.tell (s : State) (src : Sender) (type : BitVec 16) (data : List Byte) : State :=
  let r : Resp := { type := type, status := 0, seq := 0, cookie := 0, part := 0xFF, data := data }
  match src with
  | .mgmt => s.emit (.resp src r)
  | .i3c => { s with i3c := { s.i3c with msgResp := some r } }
  | .port _ => s

/-- A transfer message: on the management port the protocol of R358 without the header of Table 14-7, elsewhere a message. -/
def State.xferMsg (s : State) (h : MsgHdr) (ty : BitVec 16) (r : Right) (body : State → Nat × State × List Byte) : Host.Outcome State Fault Refusal :=
  .next <|
    if decide (h.src = .mgmt) && decide (r = .pack) then
      if s.requestsWait || !s.fw.ready then s
      else
        let (_, s', d) := body s
        if d.isEmpty then s' else s'.tell .mgmt ty d
    else s.message h ty r body

/-- Whether a transfer is in progress (R358). -/
def Fw.transferring (f : Fw) : Bool := f.packXfer.isSome || f.imgXfer.isSome

/-- A chunk at the next byte expected is taken; any other is dropped. Every eighth chunk is acknowledged. -/
def Xfer.take (x : Xfer) (off : BitVec 32) (bytes : List Byte) : Xfer :=
  { x with bytes := if off.toNat = x.bytes.length ∧ bytes.length ≤ 1024 then x.bytes ++ bytes else x.bytes, chunks := x.chunks + 1 }
def Xfer.ack (x : Xfer) : List Byte := if x.chunks % 8 = 0 then xferHdr 3 x.xfer x.bytes.length else []

/-- PACK_REFUSED with its code (R356). -/
def State.packRefused (s : State) (code : Nat) : State := s.crumbOut 0 0x0604 uPackage [(10, .u code)]

/-- PACK_OFFER (R358): during a transfer the answer is RESULT BUSY. -/
def execPackOffer (h : MsgHdr) (xfer : BitVec 32) (len : BitVec 32) (hash : BitVec 256) (s : State) : Host.Outcome State Fault Refusal :=
  s.xferMsg h 0x00B1 .pack fun s =>
    if s.fw.transferring then (stOk, s.packRefused 9, xferHdr 5 xfer 9)
    else accept { s with fw := { s.fw with packXfer := some { xfer := xfer, len := len.toNat, hash := hash, src := h.src } } }

/-- PACK_CHUNK (R358). -/
def execPackChunk (h : MsgHdr) (xfer off : BitVec 32) (bytes : List Byte) (s : State) : Host.Outcome State Fault Refusal :=
  s.xferMsg h 0x00B2 .pack fun s =>
    match s.fw.packXfer with
    | none => refuse s stRange
    | some x =>
      if x.xfer ≠ xfer then refuse s stRange
      else (stOk, { s with fw := { s.fw with packXfer := some (x.take off bytes) } }, (x.take off bytes).ack)

/-- An accepted pack is active (R357): written to the slot that ACTIVE_PACK does not name, measured into MR4, and its patterns all run again. -/
def State.activatePack (s : State) (b : List Byte) : State :=
  let f := s.fw
  let s1 : State := { s with fw := { f with
    pack := decodePack b, skipPat := [], boot := { f.boot with activePack := !f.boot.activePack, seq := f.boot.seq + 1 } } }
  (s1.extendMr 4 4 (sha256 b)).crumbOut 0 0x0603 uPackage []

/-- PACK_DONE (R356, R357). -/
def execPackDone (h : MsgHdr) (xfer : BitVec 32) (s : State) : Host.Outcome State Fault Refusal :=
  s.xferMsg h 0x00B4 .pack fun s =>
    match s.fw.packXfer with
    | none => refuse s stRange
    | some x =>
      if x.xfer ≠ xfer then refuse s stRange
      else
        let code := s.packError x
        let s1 : State := { s with fw := { s.fw with packXfer := none } }
        (stOk, if code = 0 then s1.activatePack x.bytes else s1.packRefused code, xferHdr 5 xfer code)

/-- PACK_ACK_TIMER: an ACK goes to the sender of the transfer in progress (R358). -/
def execPackAckTimer (s : State) : Host.Outcome State Fault Refusal :=
  .next <|
    match s.fw.packXfer, s.fw.imgXfer with
    | some x, _ => s.tell x.src 0x00B3 (xferHdr 3 x.xfer x.bytes.length)
    | none, some x => s.tell x.src 0x0A12 (xferHdr 3 x.xfer x.bytes.length)
    | none, none => s

/-- PACK_TRANSFER_TIMEOUT: no chunk for 10 s (R356). -/
def execPackTransferTimeout (s : State) : Host.Outcome State Fault Refusal :=
  .next <|
    match s.fw.packXfer, s.fw.imgXfer with
    | some x, _ => (State.packRefused { s with fw := { s.fw with packXfer := none } } 10).tell x.src 0x00B5 (xferHdr 5 x.xfer 10)
    | none, some x => State.tell { s with fw := { s.fw with imgXfer := none } } x.src 0x0A14 (xferHdr 5 x.xfer 10)
    | none, none => s

end Sys2Proof.Machine
end

