-- ==== Sys2Proof/Machine/Trust.lean ====
section
/-! DEFINITION. Trust messages (R391–R402): nonces, identity, measurements, attestation, the configuration block, key enrolment and revocation, firmware
images, and the live update (R403–R406). Layouts of payloads that Table 15-9 does not give are log 25. -/

namespace Sys2Proof.Machine

/-! ## Nonces, identity, measurements -/

/-- CHALLENGE: a nonce, at most 4 outstanding; a fifth invalidates the oldest (R401). -/
def execChallenge (h : MsgHdr) (s : State) : Host.Outcome State Fault Refusal :=
  .next <| s.message h 0x0A00 .mgmtOnly fun s =>
    let n := Config.nonce s.freeCtr
    let old := if 4 ≤ s.fw.nonces.length then s.fw.nonces.tail else s.fw.nonces
    (stOk, { s with freeCtr := s.freeCtr + 1, fw := { s.fw with nonces := old ++ [n] } }, natLe 16 n.toNat)

/-- NONCE_EXPIRY: the `k`-th oldest nonce becomes invalid (R401). -/
def execNonceExpiry (k : Nat) (s : State) : Host.Outcome State Fault Refusal :=
  .next { s with fw := { s.fw with nonces := s.fw.nonces.eraseIdx k } }

/-- FW and SVN of a slot. -/
def Fw.slotInfo (f : Fw) (b : Bool) : List Byte :=
  match f.image b with | some i => natLe 2 i.fwMajor.toNat ++ natLe 2 i.fwMinor.toNat ++ natLe 1 i.svn | none => [0, 0, 0, 0, 0]

/-- IDENTITY (Table 15-9). -/
def execIdentity (h : MsgHdr) (s : State) : Host.Outcome State Fault Refusal :=
  .next <| s.message h 0x0A01 .any fun s =>
    (stOk, s, natLe 8 (idRev 4) ++ ((List.range 4).flatMap fun d => natLe 8 (idRev d)) ++ natLe 8 Config.serial.toNat ++ natLe 8 pkgId ++
      natLe 8 s.pkgDegrade ++ natLe 8 s.iodBoot ++ natLe 8 s.iodFuse ++ s.fw.slotInfo false ++ s.fw.slotInfo true)

/-- A log entry of 48 bytes (R397). -/
def logEntry (e : Nat × Nat × BitVec 256 × Nat) : List Byte :=
  natLe 1 e.1 ++ natLe 1 e.2.1 ++ [0, 0] ++ natLe 4 e.2.2.2 ++ hashBytes e.2.2.1 ++ natLe 8 0

/-- MR_READ: the registers, and with the flag OVERFLOW, the entries missing, and the log entries from a counter on, as many as the payload holds
(R396, R397). -/
def execMrRead (h : MsgHdr) (log : Bool) (fromCtr : BitVec 32) (s : State) : Host.Outcome State Fault Refusal :=
  .next <| s.message h 0x0A02 .any fun s =>
    let regs := (List.range 8).flatMap fun r => hashBytes (Map.get 0 s.fw.mr r)
    let room := (s.payloadLimit h.src - 264) / 48
    let es := (s.fw.mlog.filter fun e => decide (fromCtr.toNat ≤ e.2.2.2)).take room
    (stOk, s, regs ++ if log then natLe 4 (b2n (decide (0 < s.fw.mlogLost))) ++ natLe 4 s.fw.mlogLost ++ es.flatMap logEntry else [])

/-- MR_EXTEND: registers 6 and 7 only (Table 15-9). -/
def execMrExtend (h : MsgHdr) (reg : Nat) (digest : BitVec 256) (s : State) : Host.Outcome State Fault Refusal :=
  s.stewMsg h 0x0A03 fun s => if reg = 6 ∨ reg = 7 then accept (s.extendMr reg 5 digest) else refuse s stRange

/-! ## Attestation -/

/-- Whether the message came in on a port in emulated mode, whose payload cannot hold the answer (R400). -/
def State.tooNarrow (s : State) (h : MsgHdr) : Bool := match h.src with | .port p => !s.mailbox p | _ => false

/-- Blows the next EPOCH fuse: a new epoch starts at leaf 0 (R399). -/
def State.nextEpoch (s : State) (syn : Nat) : State :=
  let f := s.fw
  let s1 : State := { s with fw := { f with epoch := f.epoch + 1, leafQ := 0, sig0 := some (f.epoch + 1, 0), sig1 := some (f.epoch + 1, 0) } }
  s1.crumbOut 0 syn uPackage []

/-- The quote of Table 15-8 without its signature. -/
def State.quote (s : State) (nonce : BitVec 256) (mask : Byte) : List Byte :=
  let mrs := (List.range 8).flatMap fun r => if mask.getLsbD r then hashBytes (Map.get 0 s.fw.mr r) else List.replicate 32 0
  let ver := fun (b : Bool) => (s.fw.slotInfo b).take 4
  [0x4B, 0x58, 0x41, 0x51] ++ natLe 2 1 ++ natLe 2 mask.toNat ++ natLe 8 Config.serial.toNat ++ natBe 32 nonce.toNat ++ mrs ++ ver s.fw.slot ++
    ver s.fw.boot.preferred ++ natLe 8 (idRev 4) ++ ((List.range 4).flatMap fun d => natLe 8 (idRev d)) ++ natLe 8 s.iodFuse ++ natLe 8 s.iodFuseRb ++
    natLe 4 (fieldAt 28 4 s.fw.epoch + fieldAt 0 20 s.fw.leafQ) ++ List.replicate 20 0

/-- Leaves of one epoch. -/
def epochLeaves : Nat := 2 ^ 20

/-- ATTEST (R399, R400): a block of 1,024 leaves is reserved in both copies before its first leaf is used. -/
def execAttest (h : MsgHdr) (nonce : BitVec 256) (mask : Byte) (s : State) : Host.Outcome State Fault Refusal :=
  .next <| s.message h 0x0A04 .any fun s =>
    if s.tooNarrow h then refuse s 4
    else if (match s.fw.lastSign with | some t => decide ((s.refTick - t).toNat < secondTicks) | none => false) then refuse s stBusy
    else
      let s1 := if s.fw.leafQ = epochLeaves ∧ s.fw.epoch < 16 then s.nextEpoch 0x0806 else s
      if 16 ≤ s1.fw.epoch then refuse (s1.crumbOut 0 0x0808 uPackage []) 37
      else
        let q := s1.fw.leafQ
        let body := s1.quote nonce mask
        let held := some (s1.fw.epoch, (q / 1024 + 1) * 1024)
        let f : Fw := { s1.fw with leafQ := q + 1, lastSign := some s1.refTick, sig0 := held, sig1 := held }
        (stOk, { s1 with fw := f }, body ++ Config.hssSign s1.fw.epoch q body)

/-- CERT_READ (R398). -/
def execCertRead (h : MsgHdr) (epoch : Nat) (s : State) : Host.Outcome State Fault Refusal :=
  .next <| s.message h 0x0A05 .any fun s =>
    if s.tooNarrow h then refuse s 4 else if 16 ≤ epoch then refuse s stRange else (stOk, s, Config.certificate epoch)

/-! ## The configuration block -/

/-- The fields of a configuration block (Table 15-5). -/
def confOf (b : List Byte) : ConfBlock :=
  let v := fun (o n : Nat) => fld b o n
  { seq := BitVec.ofNat 32 (v 8 4), portMap := slice b 0x10 32, anchor := BitVec.ofNat 8 (v 0x30 1), hostMode := BitVec.ofNat 8 (v 0x31 1)
    steward := BitVec.ofNat 8 (v 0x32 1), lease := BitVec.ofNat 16 (v 0x34 2), digestD := BitVec.ofNat 16 (v 0x36 2), power := BitVec.ofNat 16 (v 0x38 2)
    ownerOff := BitVec.ofNat 16 (v 0x3A 2), collectors := [slice b 0x6A 16, slice b 0x7A 16], bytes := b.take (v 0xC 4) }

/-- Whether a block is signed as R394 asks: before enrolment by an unrevoked vendor key or the owner key it carries, afterwards by the enrolled key. -/
def State.confSigned (s : State) (b : List Byte) : Bool :=
  let len := fld b 0xC 4
  let msg := b.take len
  let sig := b.drop len
  let key := fld b 0xC0 1
  let off := fld b 0x3A 2
  let own := if off = 0 then [] else [slice b off 60]
  match s.fw.owner with
  | some e => decide (key = 4) && (own ++ s.ownerKey.toList).any fun k => decide (sha256 k = e) && hssVerify k msg sig
  | none =>
    if key < 4 then !s.fw.revoked.getLsbD key && hssVerify (vendorPub key) msg sig
    else decide (key = 4) && own.any fun k => hssVerify k msg sig

/-- Whether every field lies in its range of Table 15-5 and every reserved byte is 0; port-map codes 12 to 14 refuse nothing (R390). -/
def confFieldsOk (b : List Byte) : Bool :=
  let v := fun (o n : Nat) => fld b o n
  let len := v 0xC 4
  let off := v 0x3A 2
  let zero := fun (lo hi : Nat) => (List.range (hi - lo)).all fun i => decide (b.getD (lo + i) 0 = 0 ∨ (0 < off ∧ off ≤ lo + i ∧ lo + i < off + 60))
  decide (slice b 0 4 = [0x4B, 0x58, 0x43, 0x42] ∧ v 4 2 = 1 ∧ 256 ≤ len ∧ len ≤ 131072 ∧ len ≤ b.length) &&
    ((slice b 0x10 32).all fun x => decide (x ≤ 15)) &&
    decide (v 0x30 1 < 4 ∧ v 0x31 1 < 4 ∧ v 0x32 1 ≤ 2 ∧ 1 ≤ v 0x34 2 ∧ 1 ≤ v 0x36 2 ∧ v 0x36 2 ≤ 256 ∧ (off = 0 ∨ off + 60 ≤ len) ∧
      v 0x50 1 ≤ 128 ∧ v 0x51 1 ≤ 32 ∧ v 0xC0 1 ≤ 4) &&
    zero 6 8 && zero 0x33 0x34 && zero 0x3C 0x40 && zero 0x90 0xC0 && zero 0xC1 len

/-- The status with which a block is refused under R390; 0 accepted. -/
def State.confError (s : State) (b : List Byte) : Nat :=
  if !s.confSigned b then 32 else if !confFieldsOk b then 8 else if gradeLimit < fld b 0x38 2 then 8 else 0

/-- CONFIG_WRITE: the block replaces the copy of the lower SEQ and takes effect at the next cold reset (R391). -/
def execConfigWrite (h : MsgHdr) (block : List Byte) (s : State) : Host.Outcome State Fault Refusal :=
  s.stewMsg h 0x0A06 fun s =>
    let f := s.fw
    let c := confOf block
    let seq := fun (x : Option ConfBlock) => match x with | some y => y.seq.toNat + 1 | none => 0
    if s.confError block ≠ 0 then refuse s (s.confError block)
    else if c.seq.toNat < max (seq f.copy0) (seq f.copy1) then refuse s stRange
    else if seq f.copy1 < seq f.copy0 then accept { s with fw := { f with copy1 := some { c with bytes := block } } }
    else accept { s with fw := { f with copy0 := some { c with bytes := block } } }

/-- ENROLL_OWNER (R394). -/
def execEnrollOwner (h : MsgHdr) (s : State) : Host.Outcome State Fault Refusal :=
  s.stewMsg h 0x0A07 fun s =>
    let o := s.fw.config.ownerOff.toNat
    if o = 0 then refuse s 35
    else if s.fw.owner.isSome then refuse s 36
    else accept (State.crumbOut { s with fw := { s.fw with owner := some (sha256 (slice s.fw.config.bytes o 60)) } } 0 0x080D uPackage [])

/-- KEY_REVOKE: the statement is signed by the key of another unrevoked slot (R393). -/
def execKeyRevoke (h : MsgHdr) (k signer : Nat) (pub stmt sig : List Byte) (s : State) : Host.Outcome State Fault Refusal :=
  s.stewMsg h 0x0A08 fun s =>
    let r := s.fw.revoked
    let after := r ||| (1#4 <<< k)
    if 4 ≤ k ∨ 4 ≤ signer then refuse s stRange
    else if r.getLsbD k = true ∨ after = 15 ∨ r.getLsbD signer = true then refuse s 34
    else if signer = k ∨ sha256 pub ≠ vendorHash signer ∨ hssVerify pub stmt sig = false then refuse s 32
    else accept (State.crumbOut { s with fw := { s.fw with revoked := after } } 0 0x080E uPackage [(10, .u k)])

/-! ## Images and the live update -/

/-- IMAGE_OFFER: at most 20 MiB (Table 15-9); during a transfer RESULT BUSY. -/
def execImageOffer (h : MsgHdr) (xfer : BitVec 32) (len : BitVec 32) (hash : BitVec 256) (s : State) : Host.Outcome State Fault Refusal :=
  s.xferMsg h 0x0A10 .image fun s =>
    if s.fw.transferring then (stBusy, s, xferHdr 5 xfer 9)
    else if 20971520 < len.toNat then refuse s stRange
    else accept { s with fw := { s.fw with imgXfer := some { xfer := xfer, len := len.toNat, hash := hash, src := h.src } } }

/-- IMAGE_CHUNK. -/
def execImageChunk (h : MsgHdr) (xfer off : BitVec 32) (bytes : List Byte) (s : State) : Host.Outcome State Fault Refusal :=
  s.xferMsg h 0x0A11 .image fun s =>
    match s.fw.imgXfer with
    | none => refuse s stRange
    | some x =>
      if x.xfer ≠ xfer then refuse s stRange
      else (stOk, { s with fw := { s.fw with imgXfer := some (x.take off bytes) } }, (x.take off bytes).ack)

/-- The status that goes with a LAST_ERR code (Table 15-10). -/
def imageStatus (code : Nat) : Nat := if code = 2 then 32 else if code = 3 then 34 else if code = 4 then 33 else stRange

/-- Writes a slot. -/
def Fw.putImage (f : Fw) (b : Bool) (i : ImageInfo) : Fw :=
  if b then { f with imgB := { image := some i, verified := true } } else { f with imgA := { image := some i, verified := true } }

/-- IMAGE_DONE: the image passes R389 in full and is written to the inactive slot (R403). In recovery it goes to the slot that failed last, the one
PREFERRED does not name, and the package boots as at cold reset (R386). RESULT carries the LAST_ERR code of the check that failed. -/
def execImageDone (h : MsgHdr) (xfer : BitVec 32) (s : State) : Host.Outcome State Fault Refusal :=
  s.xferMsg h 0x0A13 .image fun s =>
    match s.fw.imgXfer with
    | none => refuse s stRange
    | some x =>
      if x.xfer ≠ xfer then refuse s stRange
      else
        let s1 : State := { s with fw := { s.fw with imgXfer := none } }
        let image := imageOf x.bytes
        let code := if x.bytes.length ≠ x.len ∨ sha256 x.bytes ≠ x.hash then 5 else s.imageError image true
        if code ≠ 0 then (imageStatus code, s1, xferHdr 5 xfer code)
        else if s.fw.stage = 4 then
          (stOk, { s1 with fw := { s1.fw.putImage (!s.fw.boot.preferred) image with stage := 0 } }, xferHdr 5 xfer 0)
        else (stOk, { s1 with fw := s1.fw.putImage (!s.fw.slot) image }, xferHdr 5 xfer 0)

/-- HANDOFF (R404, R405): the window opens, transfers are abandoned and outstanding nonces become invalid. -/
def execHandoff (h : MsgHdr) (s : State) : Host.Outcome State Fault Refusal :=
  s.stewMsg h 0x0A20 fun s =>
    let f := s.fw
    let staged := if f.slot then f.imgA else f.imgB
    match staged.image, f.image f.slot with
    | some n, some o =>
      if !staged.verified then refuse s 38
      else if n.fwMajor ≠ o.fwMajor then refuse s 39
      else if f.imgXfer.isSome ∨ s.safeState then refuse s stBusy
      else accept { s with fw := { f with handoff := true, handoffAt := s.refTick, packXfer := none, nonces := [] } }
    | _, _ => refuse s 38

/-- An image started by the ROM warm entry: MR5 takes its MF_HASH and WARM_ENTRY is emitted (R396, Table 15-15). -/
def State.warmEntry (s : State) (i : ImageInfo) (kind : Nat) : State := (s.extendMr 5 kind i.mfHash).crumbOut 0 0x080F uPackage []

/-- The window closes with its outcome: the steward's port hears EV_HANDOFF (R405). -/
def State.endHandoff (s : State) (outcome : Nat) (old new : BitVec 32) : State :=
  let us := (s.refTick - s.fw.handoffAt).toNat / 100
  let held := (List.range nPorts).filter fun n => (s.portAt n).state == .retrain && (s.portAt n).holding
  let s1 := State.refreshRotations { s with fw := { s.fw with handoff := false, trainFirst := held } }
  let s2 := s1.crumbOut 0 (if outcome = 0 then 0x0809 else 0x080A) uPackage []
  match s2.stewardPort with | some p => s2.event p none (.handoff outcome old new us) | none => s2

/-- The old image runs again and accepts its own record; the boot record is unchanged (R405). `started`: the new image had been started. -/
def State.handoffRefused (s : State) (started : Bool) (n o : ImageInfo) : State :=
  let f := s.fw
  let s1 := if started then s.warmEntry n 2 else s
  (s1.warmEntry o 3).endHandoff 1 (f.versionOf f.slot) (f.versionOf (!f.slot))

/-- Whether the new image accepts the handoff record of R406: header and CRC, the handoff version, every mandatory section, every die in service. -/
def State.recordAccepted (s : State) (n o : ImageInfo) (known : List Nat) (crcOk : Bool) : Bool :=
  crcOk && decide (o.hver = n.hver ∨ o.hver.toNat + 1 = n.hver.toNat) && (List.range 8).all (fun k => known.contains (k + 1)) &&
    (List.range 4).all fun d => (s.dieAt d).heldReset || ImageInfo_serves n d

/-- HANDOFF_ACCEPT: the warm entry checks the new image's header and MF_HASH, starts it, and it accepts or refuses the record (R405, R406). -/
def execHandoffAccept (knownSections : List Nat) (crcOk : Bool) (s : State) : Host.Outcome State Fault Refusal :=
  .next <|
    let f := s.fw
    match f.handoff, f.image (!f.slot), f.image f.slot with
    | true, some n, some o =>
      if s.imageError n false ≠ 0 ∨ sha256 n.firmware ≠ n.mfHash then s.handoffRefused false n o
      else if s.recordAccepted n o knownSections crcOk then
        let s1 := s.warmEntry n 2
        let s2 : State := { s1 with fw := { s1.fw with
          slot := !f.slot, fallback := false, boot := { s1.fw.boot with preferred := !f.slot, tries := 3, seq := s1.fw.boot.seq + 1 } } }
        s2.endHandoff 0 (f.versionOf f.slot) (f.versionOf (!f.slot))
      else s.handoffRefused true n o
    | _, _, _ => s

/-- HANDOFF_TIMEOUT: no acceptance by 150 ms (R405). -/
def execHandoffTimeout (s : State) : Host.Outcome State Fault Refusal :=
  .next <|
    let f := s.fw
    match f.handoff, f.image (!f.slot), f.image f.slot with
    | true, some n, some o => s.handoffRefused (decide (s.imageError n false = 0 ∧ sha256 n.firmware = n.mfHash)) n o
    | _, _, _ => s

end Sys2Proof.Machine
end

