-- ==== Sys2Proof/Machine/HostPort.lean ====
section
/-! DEFINITION. Host ports (chapter 14): slots and events (R367–R370), the register aperture (R362), BAR2 (R363), configuration space (R359, R360), resets of
one port (R379, R380, R384), its link, register writes (R5), and requests of unknown type (R368). -/

namespace Sys2Proof.Machine

/-! ## Slots and events -/

/-- DEVICE_SLOT_RETURN: the host returns a device-to-host slot and a queued event may fill it (R367, R369). -/
def execDeviceSlotReturn (p : HostPort) (slot : Nat) (s : State) : Host.Outcome State Fault Refusal :=
  if 8 ≤ slot then .fault (.noSuchUnit "slot" slot)
  else if !s.mailbox p || (Map.get none (s.hostAt p.idx).d2h slot).isNone then .next s
  else .next ((s.modHost p.idx fun h => { h with d2h := Map.put none h.d2h slot none }).fillSlot p)

/-- EVT_NEXT: the oldest queued event moves into the emulated event area (R370); not in a handoff window. -/
def execEvtNext (p : HostPort) (s : State) : Host.Outcome State Fault Refusal :=
  if s.mailbox p || s.fw.handoff then .next s
  else match (s.hostAt p.idx).evtQ with
  | [] => .next s
  | (v, e) :: q => .next ((s.modHost p.idx fun h => { h with evtQ := q, emuEvt := some e, evtValid := true }).emit (.event p v e))

/-! ## The aperture -/

/-- Whether an access to the aperture waits: a register of a logical tile that is migrating (R143). -/
def State.apertureWaits (s : State) (die o : Nat) : Bool :=
  decide (die < 4 ∧ 0x200000 ≤ o ∧ o < 0x290000) && (s.tmapAt (144 * die + (o - 0x200000) / 0x1000)).migrating

/-- APERTURE_READ (R362): the bytes at configuration offset BASE × 8 MiB + `off` of the die that IOD_APSEL names. -/
def execApertureRead (p : HostPort) (off : BitVec 23) (bytes : Nat) (s : State) : Host.Outcome State Fault Refusal :=
  let h := s.hostAt p.idx
  let o := h.apBase.toNat * 2 ^ 23 + off.toNat
  if !h.linkUp || s.apertureWaits h.apDie.toNat o then .next s
  else if h.d3hot then .next (s.emit (.cpl p false false []))
  else .next (s.emit (.cpl p true false (s.regRead h.apDie.toNat o bytes)))

/-- APERTURE_WRITE: ignored and counted in AP_WR (R362). -/
def execApertureWrite (p : HostPort) (off : BitVec 23) (s : State) : Host.Outcome State Fault Refusal :=
  let _ := off
  if !(s.hostAt p.idx).linkUp || (s.hostAt p.idx).d3hot then .next s
  else .next (s.modHost p.idx fun h => { h with apWr := satAdd 65535 h.apWr })

/-! ## What the rest of BAR0 shows

No row of the opcode table reads BAR0 below the aperture; these views say what the state shows there (R361). -/

/-- IOD_APSEL (Table 14-4), at 0x00_1000. -/
def HPort.apselWord (h : HPort) : Nat := fieldAt 12 4 h.apDie.toNat + h.apBase.toNat

/-- MBX_STATUS (Table 14-5), at 0x00_1008. -/
def State.mbxStatus (s : State) (p : HostPort) : Nat :=
  let h := s.hostAt p.idx
  fieldAt 48 16 h.bar2Rej + fieldAt 32 16 h.evtLost + fieldAt 16 16 h.apWr + fieldAt 8 8 h.evtQ.length +
    fieldAt 3 1 (b2n (s.stewardPort == some p)) + fieldAt 2 1 (b2n (s.mailbox p)) + fieldAt 1 1 (b2n s.fw.handoff) + b2n s.fw.ready

/-- EMU_STAT (Table 14-8), at 0x00_0FC8 in emulated mode; a request is answered within the command that carries it, so BUSY reads 0 (R370). -/
def State.emuStat (s : State) (p : HostPort) : Nat :=
  if s.mailbox p then 0 else fieldAt 8 8 (s.hostAt p.idx).evtQ.length + fieldAt 1 1 (b2n (s.hostAt p.idx).evtValid)

/-- A device-to-host slot's OWN byte: 1 while the slot belongs to the device (Table 14-7, R367). -/
def HPort.d2hOwn (h : HPort) (slot : Nat) : Nat := b2n (Map.get none h.d2h slot).isNone

/-- Eight bytes of the MSI-X table: message address, then data with vector control above it; the pending-bit array (Table 14-3). -/
def HPort.msixQuad (h : HPort) (entry half : Nat) : Word :=
  let e := Map.get ((0, 0x100000000) : Word × Word) h.msix entry
  if half = 0 then e.1 else e.2
def HPort.msixPba (h : HPort) : Word := h.msixPend

/-! ## BAR2 -/

/-- Bytes of BAR2 and of one segment. -/
def HPort.bar2Bytes (h : HPort) : Nat := h.bar2Size * 2 ^ 30

/-- The package address an offset in BAR2 reaches (R363, Table 14-6). -/
def HPort.bar2Addr (h : HPort) (off : Nat) : Nat :=
  let seg := h.bar2Bytes / 8
  bits (Map.get (0 : Word) h.bar2 (off / seg)).toNat 47 30 * 2 ^ 30 + off % seg

/-- Whether BAR2 lets an access through: mapped, the partition owned by this port, every unit owned by the partition (R363). -/
def State.bar2Ok (s : State) (p : HostPort) (off len : Nat) : Bool :=
  let h := s.hostAt p.idx
  let w := Map.get (0 : Word) h.bar2 (off / (h.bar2Bytes / 8))
  let q := bits w.toNat 62 60
  w.getLsbD 63 && (s.partAt q).valid && decide ((s.partAt q).owner = p) && s.ownsRegion q (h.bar2Addr off) len

/-- A refused access: counted, logged through AER with vector 2, and BAR2_REFUSED emitted (R363, R365, R474). -/
def State.bar2Refuse (s : State) (p : HostPort) (addr : Nat) : State :=
  ((s.modHost p.idx fun h => { h with bar2Rej := satAdd 65535 h.bar2Rej, aer := h.aer + 1 }).raiseVector p 2).crumbOut 0 0x0702 (uHost p) [(10, .u addr)]

/-- Whether an access to the lines waits: locked by a pour or held by a pitch change (R191, R216). -/
def State.bar2Waits (s : State) (addr len : Nat) : Bool := (s.linesOf [(addr, len)]).any fun l => (s.lockOf l).isSome || s.lineHeld l

/-- BAR2_READ (R363): a poisoned line completes poisoned; in D3hot and in deep sleep Unsupported Request. -/
def execBar2Read (p : HostPort) (off : BitVec 39) (len : Nat) (s : State) : Host.Outcome State Fault Refusal :=
  let h := s.hostAt p.idx
  let ur := fun (s : State) => s.emit (.cpl p false false [])
  if !h.linkUp then .next s
  else if h.d3hot ∨ h.bar2Bytes ≤ off.toNat then .next (ur s)
  else if s.inDeep then .next (ur (s.modHost p.idx fun h => { h with bar2Rej := satAdd 65535 h.bar2Rej }))
  else if !s.bar2Ok p off.toNat len then .next (ur (s.bar2Refuse p (h.bar2Addr off.toNat)))
  else
    let a := h.bar2Addr off.toNat
    if s.bar2Waits a len then .next s
    else
      let (s1, bad) := s.eccRead {} (s.linesOf [(a, len)])
      .next (s1.emit (.cpl p true bad.isSome (s.pkgRead a len)))

/-- BAR2_WRITE (R363): a refused write is discarded; an accepted one takes part in brew conflicts (R213). -/
def execBar2Write (p : HostPort) (off : BitVec 39) (bytes : List Byte) (s : State) : Host.Outcome State Fault Refusal :=
  let h := s.hostAt p.idx
  if !h.linkUp ∨ h.d3hot ∨ h.bar2Bytes ≤ off.toNat then .next s
  else if s.inDeep then .next (s.modHost p.idx fun h => { h with bar2Rej := satAdd 65535 h.bar2Rej })
  else if !s.bar2Ok p off.toNat bytes.length then .next (s.bar2Refuse p (h.bar2Addr off.toNat))
  else
    let a := h.bar2Addr off.toNat
    if s.bar2Waits a bytes.length then .next s else .next (s.pkgWrite none a bytes)

/-! ## Configuration space -/

/-- A register of configuration space: the identity of Table 14-2, the two BARs, the rest as configured (log 28). -/
def HPort.configRead (h : HPort) (reg : Nat) : BitVec 32 :=
  let w := Map.get (0 : BitVec 32) h.cfg reg
  let size := BitVec.ofNat 64 h.bar2Bytes
  let bar2 := ((Map.get (0 : BitVec 32) h.cfg 0x1C) ++ (Map.get (0 : BitVec 32) h.cfg 0x18)) &&& ~~~(size - 1)
  if reg = 0 then 0x4B341F5A
  else if reg = 8 then BitVec.ofNat 32 (0x120000 * 256 + (Config.idRev 4).2.toNat)
  else if reg = 0x10 then (w &&& 0xFF000000) ||| 4
  else if reg = 0x14 then w
  else if reg = 0x18 then bar2.extractLsb' 0 32 ||| 0xC
  else if reg = 0x1C then bar2.extractLsb' 32 32
  else if reg = 0x20 ∨ reg = 0x24 then 0
  else if reg = 0x2C then (if Config.gradeL then 0x00011F5A else 0x00021F5A)
  else Config.cfgWord reg w

/-- A write to configuration space: the power state and the size of BAR2 have effects of their own (R359). -/
def HPort.configWrite (h : HPort) (reg : BitVec 12) (v : BitVec 32) : HPort :=
  let h1 := { h with cfg := Map.put 0 h.cfg reg.toNat v }
  let code := bits v.toNat 12 8
  if reg = Config.pmcsrOffset then { h1 with d3hot := decide (bits v.toNat 1 0 = 3) }
  else if reg = Config.rebarOffset ∧ 10 ≤ code ∧ code ≤ 19 then { h1 with bar2Size := 2 ^ (code - 10) }
  else h1

/-- PCIE_CONFIG_REQUEST: Configuration Request Retry Status before firmware is ready, outside recovery (R359, R384, R386). -/
def execPcieConfigRequest (p : HostPort) (write : Option (BitVec 32)) (reg : BitVec 12) (s : State) : Host.Outcome State Fault Refusal :=
  let h := s.hostAt p.idx
  if !h.linkUp then .next s
  else if !s.fw.ready ∧ s.fw.stage ≠ 4 then .next (s.emit (.retryStatus p))
  else match write with
  | none => .next (s.emit (.cpl p true false (natLe 4 (h.configRead (reg.toNat / 4 * 4)).toNat)))
  | some v => .next ((s.setHost p.idx (h.configWrite (reg &&& ~~~3) v)).emit (.cpl p true false []))

/-! ## Resets and the link -/

/-- Events fill the slots that belong to the device. -/
def State.fillSlots (s : State) (p : HostPort) : State :=
  if s.mailbox p then (List.range 8).foldl (fun (s : State) _ => s.fillSlot p) s else s

/-- Configuration space, the MSI-X table, IOD_APSEL, the size of BAR2 and the ownership of slots return to their reset values (R380). -/
def State.resetFunction (s : State) (p : HostPort) : State :=
  (s.modHost p.idx fun h =>
    { h with cfg := [], msix := [], msixPend := 0, apDie := 4, apBase := 0, bar2Size := 64, d2h := [], h2dResp := [], d3hot := false }).fillSlots p

/-- The owner of the port's partitions is lost: HOST_LINK_DOWN with its cause, and each partition becomes ORPHAN (R379, R474). -/
def State.loseOwner (s : State) (p : HostPort) (detail cause : Nat) : State :=
  let s1 := s.crumbOut 0 0x0704 (uHost p) [(10, .u detail)]
  (List.range nParts).foldl (fun (s : State) q => if (s.partAt q).owner = p then s.orphanPart q cause else s) s1

/-- The link of a port is down: copies through it end (R195). -/
def State.dropHostLink (s : State) (p : HostPort) : State :=
  (s.failHostCopies p).modHost p.idx fun h => { h with linkUp := false, width := 0, clocking := 0, reads := [] }

/-- FLR (R379, R380). -/
def execFlr (p : HostPort) (s : State) : Host.Outcome State Fault Refusal :=
  if !(s.hostAt p.idx).linkUp then .next s else .next ((s.loseOwner p 3 2).resetFunction p)

/-- HOT_RESET (R379, R442). -/
def execHotReset (p : HostPort) (s : State) : Host.Outcome State Fault Refusal :=
  if !(s.hostAt p.idx).linkUp then .next s else .next (((s.loseOwner p 2 1).dropHostLink p).resetFunction p)

/-- HOST_LINK_DOWN: DL_Down (R379). -/
def execHostLinkDown (p : HostPort) (s : State) : Host.Outcome State Fault Refusal :=
  if !(s.hostAt p.idx).linkUp then .next s else .next (((s.loseOwner p 0 1).dropHostLink p).resetFunction p)

/-- HOST_LINK_UP: the link has trained at x16, x8 or x4; a narrower width emits HOST_WIDTH (R359, R426, R474); on the RC oscillator
alone only a common clock trains (R424). -/
def execHostLinkUp (p : HostPort) (width : Nat) (s : State) : Host.Outcome State Fault Refusal :=
  let h := s.hostAt p.idx
  if h.inReset ∨ h.linkUp ∨ (s.fw.rcOnly = true ∧ h.sris = true) ∨ (width ≠ 16 ∧ width ≠ 8 ∧ width ≠ 4) then .next s
  else
    let s1 := s.setHost p.idx { h with linkUp := true, width := width, clocking := if h.sris then 2 else 1 }
    .next (if width = 16 then s1 else s1.errorEvent 1 0x0703 (uHost p) [(10, .u width)])

/-- The filtered level of a hardened input (Table 17-8). -/
def State.setLevel (s : State) (i : HardIn) (on : Bool) : State :=
  let m : Byte := 1#8 <<< i.bit
  { s with side := { s.side with level := if on then s.side.level ||| m else s.side.level &&& ~~~m } }

/-- The PERST# input of a port. -/
def perstIn (p : HostPort) : HardIn := match p with | .A => .perstA | .B => .perstB

/-- A port enters conventional reset (R379, R384). -/
def State.holdPort (s : State) (p : HostPort) : State :=
  let h := s.hostAt p.idx
  if h.inReset then s
  else
    let s1 := if s.fw.stage = 3 then s.loseOwner p 1 1 else s
    ((s1.dropHostLink p).resetFunction p).modHost p.idx fun h => { h with inReset := true }

/-- PERST_ASSERT. -/
def execPerstAssert (p : HostPort) (s : State) : Host.Outcome State Fault Refusal := .next ((s.setLevel (perstIn p) true).holdPort p)

/-- A port leaves reset and chooses its clocking: common clock for a REFCLK of 99.35 to 100.05 MHz, else SRIS (R426). -/
def State.releasePort (s : State) (p : HostPort) (refKHz : Option Nat) : State :=
  let common := match refKHz with | some f => decide (99350 ≤ f ∧ f ≤ 100050) | none => false
  s.modHost p.idx fun h => if h.inReset then { h with inReset := false, sris := !common } else h

/-- PERST_DEASSERT: an input whose chatter flag is set stays treated as asserted (Table 17-7). -/
def execPerstDeassert (p : HostPort) (refKHz : Option Nat) (s : State) : Host.Outcome State Fault Refusal :=
  let s1 := s.setLevel (perstIn p) false
  if s.side.chatter.getLsbD (perstIn p).bit then .next s1 else .next (s1.releasePort p refKHz)

/-! ## Register writes and unknown requests -/

/-- An MSI-X table word: address, or data with the mask bit; an entry that is unmasked with its pending bit set is sent (PCI Express). -/
def State.writeMsix (s : State) (p : HostPort) (entry word : Nat) (v : Word) : State :=
  let s1 := s.modHost p.idx fun h =>
    let e := Map.get ((0, 0x100000000) : Word × Word) h.msix entry
    { h with msix := Map.put (0, 0x100000000) h.msix entry (if word = 0 then (v, e.2) else (e.1, v)) }
  let h := s1.hostAt p.idx
  if (Map.get ((0, 0x100000000) : Word × Word) h.msix entry).2.getLsbD 32 || !h.msixPend.getLsbD entry then s1
  else (s1.modHost p.idx fun h => { h with msixPend := h.msixPend &&& ~~~(1#64 <<< entry) }).emit (.msix p entry)

/-- TILE_VTRIM: a trim outside −16 to +8 is clamped and sets CLAMPED, which a 1 in bit 8 clears (Table 02-6, R32). -/
def PTile.writeTrim (q : PTile) (v : Word) : PTile :=
  let t := sext 8 (v.toNat % 256)
  { q with vtrim := clampInt (-16) 8 t, clamped := decide (t < -16 ∨ 8 < t) || (q.clamped && !v.getLsbD 8) }

/-- TILE_ARR_REPAIR, loaded by firmware while the tile is BENCH, PROVING or FENCED (R65). -/
def PTile.writeRepair (q : PTile) (v : Word) : PTile :=
  if q.state = .bench ∨ q.state = .proving ∨ q.state = .fenced then
    { q with rowSkip0 := v.extractLsb' 24 8, rowSkip1 := v.extractLsb' 16 8, colSkip0 := v.extractLsb' 8 8, colSkip1 := v.extractLsb' 0 8
             origin := v.extractLsb' 32 4 }
  else q

/-- A register write by the agent the register's map names; what a register keeps no field for is ignored (R5). -/
def State.writeReg (s : State) (r : RegTarget) (v : Word) : State :=
  let tile := fun (die m : Nat) (f : PTile → PTile) => if die < 4 ∧ m < nPhys then s.modPtile (nPhys * die + m) f else s
  match r with
  | .apsel p => s.modHost p.idx fun h => { h with apDie := v.extractLsb' 12 4, apBase := v.extractLsb' 0 9 }
  | .emuReq p o => if s.mailbox p ∨ 1344 ≤ o then s else s.modHost p.idx fun h => { h with emuReq := Map.put 0 h.emuReq o (v.extractLsb' 0 8) }
  | .emuCtrl _ => s
  | .slotByte p k o =>
    if s.mailbox p ∧ k < 8 ∧ o < 4096 then s.modHost p.idx fun h => { h with h2dBytes := Map.put 0 h.h2dBytes (4096 * k + o) (v.extractLsb' 0 8) } else s
  | .msix p e w => if e < 64 then s.writeMsix p e w v else s
  | .bar0Rsv _ _ => s
  | .vtrim d m => tile d m fun q => q.writeTrim v
  | .arrCtrl d m => tile d m fun q => if q.state = .proving then { q with dmargin := min 16 (v.toNat % 32) } else q
  | .arrRepair d m => tile d m fun q => q.writeRepair v
  | .gate d i =>
    if 4 < d ∨ nGates d ≤ i ∨ (d = 4 ∧ (i = 19 ∨ i = 20)) then s
    else s.modGate (200 * d + i) fun g => { g with en := if v.extractLsb' 0 3 = gateReset d i then none else some (v.extractLsb' 0 3) }
  | .slew => { s with side := { s.side with slew := v.extractLsb' 0 2 } }
  | .clkSsc => { s with clk := { s.clk with ssc := BitVec.ofNat 32 (v.toNat % 65536) &&& 0xFFF1 } }
  | .clkDom i => if 7 ≤ i then s else { s with clk := { s.clk with domSet := Map.put 0 s.clk.domSet i (bits v.toNat 31 16) } }

/-- REGISTER_WRITE (R5). -/
def execRegisterWrite (r : RegTarget) (val : Word) (s : State) : Host.Outcome State Fault Refusal := .next (s.writeReg r val)

/-- The request types of Tables 14-10 and 15-9. -/
def requestTypes : List Nat :=
  [0x0001, 0x0010, 0x0011, 0x0012, 0x0013, 0x0014, 0x0020, 0x0021, 0x0022, 0x0023, 0x0030, 0x0031, 0x0040, 0x0041, 0x0042, 0x0050, 0x0051, 0x0052,
    0x0060, 0x0061, 0x0062, 0x0063, 0x0070, 0x0071, 0x0072, 0x0073, 0x0080, 0x0081, 0x0082, 0x0083, 0x0084, 0x0085, 0x0086, 0x0087, 0x0090, 0x0091,
    0x00B1, 0x00B2, 0x00B4] ++
  [0x0A00, 0x0A01, 0x0A02, 0x0A03, 0x0A04, 0x0A05, 0x0A06, 0x0A07, 0x0A08, 0x0A10, 0x0A11, 0x0A13, 0x0A20]

/-- BAD_TYPE (R368). -/
def execBadType (h : MsgHdr) (type : BitVec 16) (s : State) : Host.Outcome State Fault Refusal :=
  if requestTypes.contains type.toNat ∨ s.requestsWait then .next s
  else if h.major ≠ 1 then .next (s.respond h type 1 [])
  else if h.crc ≠ crc32c (crcBytes h type) then .next (s.respond h type 2 [])
  else .next (s.respond h type 3 [])

end Sys2Proof.Machine
end

