-- ==== Sys2Proof/Machine/Power.lean ====
section
/-! DEFINITION. Power (chapter 16): sleep and deep sleep (R432–R435), clock gating (R431), the power controller, THROTTLE_N and VIN_LOW (R437, R439, R450),
thermal pacing (R438), telemetry and the optical engines' laser inputs (chapter 17). -/

namespace Sys2Proof.Machine

/-- Whether management firmware runs; before that, and in recovery, its crumbs wait until it does (R473). -/
def State.firmwareRuns (s : State) : Bool := decide (s.fw.stage = 2 ∨ s.fw.stage = 3)
def State.crumbDue (s : State) (cls syn : Nat) (u : UnitId) (keys : List (Nat × Cb)) : State :=
  if s.firmwareRuns then s.crumbOut cls syn u keys
  else { s with fw := { s.fw with due := s.fw.due ++ [{ cls := cls, syn := syn, unit := u, keys := keys }] } }

/-! ## Gating -/

/-- CLOCK_GATE: a unit with RUN_EN set and no work is clock-gated in run (R431). -/
def execClockGate (die unit : Nat) (s : State) : Host.Outcome State Fault Refusal :=
  if 4 < die then .fault (.noSuchUnit "die" die)
  else if nGates die ≤ unit then .fault (.noSuchUnit "gate" unit)
  else if s.pwr.state = .run ∧ (s.gateEn die unit).getLsbD 0 = true ∧ s.unitBusy die unit = false then
    .next (s.modGate (200 * die + unit) fun g => { g with now := 1 })
  else .next s

/-! ## Power states -/

/-- A power state reached; each completed transition emits PWR_STATE (R435). -/
def State.setPower (s : State) (x : PwrSt) : State := { s with pwr := { s.pwr with state := x } }
def State.reachPower (s : State) (x : PwrSt) : State := (s.setPower x).crumbOut 0 0x090F uPackage []

/-- Whether a SLEEP or DEEP command is refused (R435). -/
def State.powerRefused (s : State) : Bool := s.fw.handoff || s.safeState || s.stack.any fun k => k.2.maint

/-- The conditions of R433, step 2: no write-back, no shard WAITPIN or UPDATING, an empty operation table, idle arrays, and every issued instruction of a
tile complete but the WAITs in progress and the SIGNALs an open brew holds back, which stay. -/
def Tile.quiet (t : Tile) : Bool :=
  (allStreams.all fun st => (t.streamAt st).wb.isNone && (t.streamAt st).brew.phase != .poured) && t.array.isEmpty && t.held.isNone && t.mmaQ.isEmpty &&
    t.vxHeld.isEmpty && t.copyQ.isEmpty &&
    t.sb.all fun e => (t.waits.any fun w => decide (w.id = e.op)) || allStreams.any fun st => (t.streamAt st).brew.held.any fun g => decide (g.id = e.op)
def State.quiet (s : State) : Bool :=
  (s.tile.all fun t => t.2.quiet) && (s.ptile.all fun p => !p.2.proving) && s.ops.isEmpty && s.upe.all fun u => u.2.wbs.isEmpty && u.2.dir.all fun d => !(d.2.valid && (d.2.state == .waitpin || d.2.state == .updating))

/-- SLEEP (R433). -/
def execSleep (s : State) : Host.Outcome State Fault Refusal :=
  .next (if s.pwr.state = .run ∧ s.powerRefused = false then s.setPower .sleepEntry else s)

/-- Running streams freeze at an instruction boundary. -/
def State.freezeRunning (s : State) : State :=
  { s with tile := Map.mapv {} (fun _ t => { t with frozen := t.frozen || allStreams.any fun st => (t.streamAt st).run }) s.tile }

/-- SLEEP_ENTRY: the running streams freeze (R433). -/
def execSleepEntry (s : State) : Host.Outcome State Fault Refusal :=
  .next (if s.pwr.state = .sleepEntry ∧ s.quiet = true then s.freezeRunning.reachPower .sleep else s)

/-- SLEEP_ABANDON: the conditions have not held within 100 ms (R433). -/
def execSleepAbandon (s : State) : Host.Outcome State Fault Refusal :=
  .next (if s.pwr.state = .sleepEntry ∧ s.quiet = false then (s.setPower .run).resumeRuns.crumbOut 0 0x0910 uPackage [] else s)

/-- DEEP parks every partition as PARK does (R434). A package in sleep wakes for it (log 30). -/
def execDeep (s : State) : Host.Outcome State Fault Refusal :=
  let may := s.pwr.state = .run ∨ s.pwr.state = .sleepEntry ∨ s.pwr.state = .sleep
  .next <|
    if may ∧ s.powerRefused = false then
      let s1 := if s.pwr.state = .sleep then s.wakeSleep else s
      ((List.range nParts).foldl (fun (s : State) p => if (s.partAt p).valid ∧ (s.partAt p).state ≠ .parked then s.parkPart p else s) s1).setPower .deepEntry
    else s

/-- Every health table of a tile reaches the IOD (R434, R105). -/
def State.flushTile (s : State) (n : Nat) : State :=
  let t := s.tileAt n
  let s1 := s.modTile n fun t => { t with health := [], flushQ := [] }
  match s.tilePart n with
  | some p => (t.flushQ ++ t.health).foldl (fun (s : State) e => s.addRecord p e.tensor e.step.toNat e.cnt) s1
  | none => s1

/-- Open brews spill with code 4 and the streams still parking stop (R228, R434). -/
def State.stopParking (s : State) : State :=
  s.running.foldl (fun (s : State) x => (if (s.streamAt x.1 x.2).brew.phase == .open_ then s.spillBrew x.1 x.2 4 0 else s).endStream x.1 x.2 3) s

/-- The ACTIVE ports, which go through the dark procedure before the lanes are powered off (R293). -/
def State.activePorts (s : State) : List Nat := (List.range nPorts).filter fun n => (s.portAt n).state == .active

/-- The state of deep sleep: runs abandoned, compute PLLs stopped, stacks in self-refresh, modules off (R350, R434). -/
def State.enterDeep (s : State) : State :=
  let s1 := s.ptile.foldl (fun (s : State) e => s.abandonRun e.1) s
  let s2 : State := { s1 with
    die := Map.mapv {} (fun _ d => { d with pllLock := false }) s1.die
    stack := (List.range nStacks).foldl (fun (m : Map Stack) k => Map.upd {} m k fun x => { x with selfRefresh := true }) s1.stack
    d2d := (List.range 96).foldl (fun (m : Map D2d) k => Map.upd {} m k fun x => { x with off := !x.retired }) s1.d2d }
  s2.reachPower .deep

/-- DEEP_ENTRY: with the conditions met, brews spill, health tables flush and the ACTIVE ports go dark; once none is ACTIVE the package enters deep sleep
(R293, R434). -/
def execDeepEntry (s : State) : Host.Outcome State Fault Refusal :=
  .next <|
    if s.pwr.state = .deepEntry ∧ s.quiet = true then
      let s1 := s.stopParking
      let s2 := s1.tile.foldl (fun (s : State) e => s.flushTile e.1) s1
      if s2.activePorts.isEmpty then s2.enterDeep
      else s2.activePorts.foldl (fun (s : State) n => (s.goDark n).modPort n fun q => { q with deepDark := true }) s2
    else s

/-- The ports that deep sleep darkened are lit again; one still on its way to DARK goes on. -/
def State.relightDeep (s : State) : State :=
  (List.range nPorts).foldl (fun (s : State) n =>
    let q := s.portAt n
    if !q.deepDark then s
    else (if q.state == .dark then s.relight n else s.modPort n fun q => { q with darkReq := q.darkReq && q.darkSent }).modPort n fun q => { q with deepDark := false }) s

/-- DEEP_ABANDON: the conditions have not held within 1 s; the partitions stay PARKED (R434). -/
def execDeepAbandon (s : State) : Host.Outcome State Fault Refusal :=
  .next (if s.pwr.state = .deepEntry ∧ s.quiet = false then (s.relightDeep.setPower .run).crumbOut 0 0x0910 uPackage [] else s)

/-- WAKE: abandons an entry, ends sleep, begins the exit from deep sleep (R433–R435). -/
def execWake (s : State) : Host.Outcome State Fault Refusal :=
  .next <|
    match s.pwr.state with
    | .sleepEntry => (s.setPower .run).resumeRuns
    | .deepEntry => s.relightDeep.setPower .run
    | .sleep => s.wakeSleep
    | .deep => s.setPower .deepExit
    | _ => s

/-- A tile that fails the self-test of R68 at the exit from deep sleep is FENCED (R434). -/
def State.failSelfTest (s : State) (g : Nat) : State :=
  let p := s.ptileAt g
  if p.state ≠ .active ∧ p.state ≠ .bench then s
  else
    let s1 := s.setPtile g { p with state := .fenced }
    let s2 := if p.state = .active then s1.modTile (144 * (g / nPhys) + p.logical) fun t => { t with frozen := true } else s1
    s2.errorEvent 2 0x000C (uPhys g) []

/-- Every failing tile is FENCED before a die looks at its bench again. -/
def State.failSelfTests (s : State) (failing : List (Nat × Nat)) : State :=
  let bad := failing.filter fun x => decide (x.1 < nDies ∧ x.2 < nPhys)
  let s1 := bad.foldl (fun (s : State) x => s.failSelfTest (nPhys * x.1 + x.2)) s
  (List.range nDies).foldl (fun (s : State) d => if bad.any fun x => decide (x.1 = d) then s.refreshRotation d else s) s1

/-- The exit from deep sleep (R434): PLLs relock, modules retrain from their settings, stacks leave self-refresh, banks are zeroed, ports relight. -/
def State.leaveDeep (s : State) (failing : List (Nat × Nat)) : State :=
  let s1 : State := { s with
    die := (List.range nDies).foldl (fun (m : Map Die) d => Map.upd {} m d fun x => { x with pllLock := !x.heldReset }) s.die
    stack := Map.mapv {} (fun _ x => { x with selfRefresh := false }) s.stack
    d2d := Map.mapv {} (fun _ x => { x with off := false }) s.d2d
    tile := Map.mapv {} (fun _ t => { t with bank := [] }) s.tile }
  ((s1.failSelfTests failing).relightDeep.reachPower .run).refreshRotations

/-! ## The power controller -/

/-- Whether an input or a hold keeps every rail at 0.60 V: THROTTLE_N (a latched chatter flag counts as asserted), VIN_LOW, the overcurrent hold. -/
def State.throttled (s : State) : Bool := s.side.level.getLsbD 1 || s.side.chatter.getLsbD 1
def State.floored (s : State) : Bool := s.throttled || s.side.vinLow || s.pwr.overHold

/-- Every column rail goes to 0.60 V: the offset takes the whole span of the rails (R437, R439, R450). -/
def Pwr.floor (p : Pwr) : Pwr := { p with offset := ratedSet, lowTicks := 0 }

/-- The causes that end when every rail is back at the rated voltage (R441). -/
def State.railsBack (s : State) : State :=
  if s.pwr.offset ≠ 0 then s
  else { s with pwr := { s.pwr with pacedAt := if s.pwr.limitCause then some s.refTick else s.pwr.pacedAt, limitCause := false, throttleCause := s.throttled, vinCause := s.side.vinLow } }

/-- POWER_LOOP_STEP: the 20 µs step of the loop (R437). Rails fall by 10 mV, four steps, or rise by 5 mV after ten steps below 0.94 × limit. -/
def execPowerLoopStep (mean1ms mean100us : Nat) (s : State) : Host.Outcome State Fault Refusal :=
  .next <|
    let s := { s with pwr := { s.pwr with pinW := mean1ms } }
    let p := s.pwr
    let lim := s.limitW
    if s.floored then s
    else if 97 * lim < 100 * mean1ms ∨ 105 * lim < 100 * mean100us then
      { s with pwr := { p with offset := min ratedSet (p.offset + 4), limitCause := p.limitCause || decide (p.offset < ratedSet), lowTicks := 0 } }
    else if 100 * mean1ms < 94 * lim then
      if p.lowTicks + 1 < 10 then { s with pwr := { p with lowTicks := p.lowTicks + 1 } }
      else State.railsBack { s with pwr := { p with offset := p.offset - 2, lowTicks := 0 } }
    else { s with pwr := { p with lowTicks := 0 } }

/-- OVERCURRENT_CLAMP: VIN current over 440 A (R437). -/
def execOvercurrentClamp (s : State) : Host.Outcome State Fault Refusal :=
  .next { s with pwr := { s.pwr.floor with overHold := true, limitCause := true } }

/-- OVERCURRENT_HOLD_END: the loop resumes. -/
def execOvercurrentHoldEnd (s : State) : Host.Outcome State Fault Refusal := .next { s with pwr := { s.pwr with overHold := false } }

/-- THROTTLE takes effect (R439). -/
def State.throttle (s : State) : State := { s with pwr := { s.pwr.floor with throttleCause := true } }

/-- THROTTLE_ASSERT. -/
def execThrottleAssert (s : State) : Host.Outcome State Fault Refusal := .next (s.setLevel .throttle true).throttle

/-- THROTTLE_RELEASE: after a second or more a second PWR_THROTTLE_HELD gives the time held (R439). -/
def execThrottleRelease (heldMs : Nat) (s : State) : Host.Outcome State Fault Refusal :=
  .next <|
    if !s.side.level.getLsbD 1 then s
    else
      let s1 := s.setLevel .throttle false
      if 1000 ≤ heldMs then s1.crumbDue 0 0x090E uPackage [(10, .u heldMs)] else s1

/-- THROTTLE_HELD_TIMER. -/
def execThrottleHeldTimer (s : State) : Host.Outcome State Fault Refusal :=
  .next (if s.side.level.getLsbD 1 then s.crumbDue 0 0x090E uPackage [(10, .u 0)] else s)

/-- VIN_LOW (R449, R450). -/
def execVinLow (s : State) : Host.Outcome State Fault Refusal :=
  .next <|
    if s.side.vinLow then s
    else State.crumbDue { s with side := { s.side with vinLow := true }, pwr := { s.pwr.floor with vinCause := true } } 0 0x0A01 uPackage [(10, .u 0)]

/-- VIN_LOW_END: an episode longer than a second emits its length (R450). -/
def execVinLowEnd (heldMs : Nat) (s : State) : Host.Outcome State Fault Refusal :=
  .next <|
    if !s.side.vinLow then s
    else
      let s1 : State := { s with side := { s.side with vinLow := false } }
      if 1000 < heldMs then s1.crumbDue 0 0x0A01 uPackage [(10, .u heldMs)] else s1

/-- Ticks of half of a 10 s window. -/
def halfWindow : Nat := 500000000

/-- PACE_WINDOW (R441). -/
def execPaceWindow (s : State) : Host.Outcome State Fault Refusal :=
  .next <|
    let s1 : State := { s with pwr := { s.pwr with paceTicks := 0 } }
    if halfWindow < s.pwr.paceTicks then s1.crumbDue 0 0x090B uPackage [] else s1

/-! ## Thermal pacing (R438) -/

/-- The column of a physical tile, and whether its voltage stands at the 0.60 V of R436; a step of TRIM is two steps of a rail. -/
def State.atFloor (s : State) (g : Nat) : Bool := decide ((s.railSet (g / nPhys) (g % 13) : Int) + 2 * (s.ptileAt g).vtrim ≤ 0)

/-- THERMAL_PACE_STEP: every 100 µs from a reading of 90 °C until one of 88 °C or less, the trim falls by 5 mV, or at its end the column rail. -/
def execThermalPaceStep (die m tj : Nat) (s : State) : Host.Outcome State Fault Refusal :=
  if nDies ≤ die then .fault (.noSuchUnit "die" die)
  else if nPhys ≤ m then .fault (.noSuchUnit "physical tile" m)
  else
    let g := nPhys * die + m
    let c := m % 13
    let p := s.ptileAt g
    let lower := p.state == .active && (decide (90 ≤ tj) || (p.lowering && decide (88 < tj)))
    let s1 := s.setPtile g { p with tj := tj, lowering := lower }
    if !lower then .next s1
    else if -16 < p.vtrim ∧ s.atFloor g = false then
      .next (s1.modPtile g fun q => { q with vtrim := q.vtrim - 1, trimBase := some (q.trimBase.getD q.vtrim) })
    else if s.railSet die c = 0 then .next s1
    else
      let s2 := s1.modDie die fun d => { d with railTherm := Map.upd 0 d.railTherm c (· + 2) }
      .next (if s.railTherm die c = 0 then s2.crumbDue 0 0x090C (uRail die c) [] else s2)

/-- An ACTIVE tile (R32) that reads 88 °C or less regains 5 mV of the trim it had when its pacing began. -/
def PTile.regain (p : PTile) : PTile :=
  match p.trimBase with
  | some b => if p.state ≠ .active ∨ 88 < p.tj then p else if p.vtrim + 1 < b then { p with vtrim := p.vtrim + 1 } else { p with vtrim := b, trimBase := none }
  | none => p

/-- THERMAL_WITHDRAW_STEP: every 1 ms once the column's hottest tile reads 88 °C or less its offset falls by 5 mV; with no offset left, each tile that
reads 88 °C or less regains its trim by 5 mV. `tjs` are the readings of the column's tiles. -/
def execThermalWithdrawStep (die col : Nat) (tjs : List (Nat × Nat)) (s : State) : Host.Outcome State Fault Refusal :=
  if nDies ≤ die then .fault (.noSuchUnit "die" die)
  else if 13 ≤ col then .fault (.noSuchUnit "column" col)
  else
    let mine := (List.range 12).map fun r => nPhys * die + 13 * r + col
    let s1 := (tjs.filter fun x => decide (x.1 < nPhys ∧ x.1 % 13 = col)).foldl (fun (s : State) x =>
      s.modPtile (nPhys * die + x.1) fun p => { p with tj := x.2, lowering := p.lowering && decide (88 < x.2) }) s
    if 0 < s1.railTherm die col then
      if mine.all fun g => decide ((s1.ptileAt g).tj ≤ 88) then .next (s1.modDie die fun d => { d with railTherm := Map.upd 0 d.railTherm col (· - 2) })
      else .next s1
    else .next (mine.foldl (fun (s : State) g => s.modPtile g PTile.regain) s1)

/-- PWR_THERMTRIP: 98 °C or more on any tile is C3, and THERMTRIP_N is asserted (R438, R459). -/
def execPwrThermtrip (die m tj : Nat) (s : State) : Host.Outcome State Fault Refusal :=
  if nDies ≤ die then .fault (.noSuchUnit "die" die)
  else if nPhys ≤ m then .fault (.noSuchUnit "physical tile" m)
  else if tj < 98 then .next s
  else
    let s1 := s.modPtile (nPhys * die + m) fun p => { p with tj := tj }
    if s.side.thermtrip then .next s1
    else .next (State.errorEvent { s1 with side := { s1.side with thermtrip := true } } 3 0x090D uPackage [])

/-- OE_HOT (R469). -/
def execOeHot (k temp : Nat) (s : State) : Host.Outcome State Fault Refusal :=
  if 16 ≤ k then .fault (.noSuchUnit "optical engine" k)
  else
    let s1 := s.modLaser k fun x => { x with temp := temp }
    .next (if 85 ≤ temp then s1.crumbDue 0 0x0A07 (uOe k) [(10, .u temp)] else s1)

/-- TELEM_UPDATE (R451). -/
def execTelemUpdate (vinMv vinDa vauxMv vauxMa pinW : Nat) (s : State) : Host.Outcome State Fault Refusal :=
  .next { s with side := { s.side with vinMv := vinMv, vinDa := vinDa, vauxMv := vauxMv, vauxMa := vauxMa }, pwr := { s.pwr with pinW := pinW } }

/-! ## Laser inputs (R261, R467) -/

/-- The two ports an input feeds. -/
def inputPorts (k input : Nat) : List Nat := [4 * k + 2 * input, 4 * k + 2 * input + 1]

/-- An input's power and its declared state. -/
def State.setLaserIn (s : State) (k input : Nat) (power : Int) (lit : Bool) : State :=
  s.modLaser k fun x => if input = 0 then { x with pwr0 := power, lit0 := lit } else { x with pwr1 := power, lit1 := lit }

/-- LASER_LIT: at or above +16.0 dBm for 10 ms; its ports that are DOWN for want of light train. Power is in 0.1 dBm. -/
def execLaserLit (k input : Nat) (power : Int) (s : State) : Host.Outcome State Fault Refusal :=
  if 16 ≤ k then .fault (.noSuchUnit "optical engine" k)
  else if 2 ≤ input then .fault (.noSuchUnit "laser input" input)
  else if power < 160 then .next s
  else
    let s1 := s.setLaserIn k input power true
    .next ((inputPorts k input).foldl (fun (s : State) n =>
      if (s.portAt n).state = .down ∧ (s.portAt n).reason = 1 ∧ s.firmwareRuns = true then s.train n true else s) s1)

/-- LASER_DARK: below +15.0 dBm for 10 µs; both ports go DOWN with NO_LIGHT, outside a dark period (R261, Table 11-16); a port that waits
for a port-reset message keeps its reason (R276). -/
def execLaserDark (k input : Nat) (power : Int) (s : State) : Host.Outcome State Fault Refusal :=
  if 16 ≤ k then .fault (.noSuchUnit "optical engine" k)
  else if 2 ≤ input then .fault (.noSuchUnit "laser input" input)
  else if 150 ≤ power then .next s
  else
    let s1 := s.setLaserIn k input power false
    .next ((inputPorts k input).foldl (fun (s : State) n =>
      match (s.portAt n).state with
      | .disabled => s
      | .dark => s
      | .down => s.modPort n fun q => if q.reason = 8 ∨ q.reason = 9 then q else { q with reason := 1 }
      | _ => s.portDown n 1) s1)

/-! ## What the I3C target's registers show

No row of the opcode table reads them but CRUMB_READ; this view says what the state shows there (Table 17-9). -/

/-- STATUS. -/
def State.i3cStatus (s : State) : Nat :=
  fieldAt 60 4 s.pwr.state.code + fieldAt 56 4 s.fw.stage + fieldAt 55 1 (b2n s.fw.ready) + fieldAt 54 1 (b2n s.faultN) +
    fieldAt 53 1 (b2n s.side.thermtrip) + fieldAt 47 6 s.crumb.fifo.length

/-- The bytes a read of an index gives; CRUMB is CRUMB_READ's, CMD is written only. -/
def State.i3cRead (s : State) (index : Nat) : List Byte :=
  match index with
  | 0 => natLe 8 s.i3cStatus
  | 3 => match s.i3c.msgResp with | some r => natLe 2 (32 + r.data.length) ++ r.encode | none => natLe 2 0
  | 4 => natLe 8 s.side.telem
  | 5 => natLe 8 s.side.word
  | 6 => [s.side.slew.setWidth 8]
  | 7 => natLe 8 Config.serial.toNat ++ natLe 8 pkgId
  | _ => []

/-- The two bytes written to CMD: a code and its bitwise complement, else nothing (R462, R463). -/
def i3cCommand (code complement : Byte) : Option Nat := if complement = ~~~code ∧ 1 ≤ code.toNat ∧ code.toNat ≤ 5 then some code.toNat else none

/-- AUTO_NEGOTIATION: the management Ethernet port is up, as 1000BASE-X or SGMII; it stays down on the RC oscillator alone (R424, R460). -/
def execAutoNegotiation (sgmii : Bool) (s : State) : Host.Outcome State Fault Refusal :=
  .next (if s.fw.rcOnly then s else { s with i3c := { s.i3c with ethUp := true, ethSgmii := sgmii } })

end Sys2Proof.Machine
end

