-- ==== Sys2Proof/Machine/Reset.lean ====
section
/-! DEFINITION. The warm reset (R69, R117, R145, R208, R258, R329, R382, R442, R444), the replay of the brew journals after it (R229, R230), and the end of
deep sleep (R434). -/

namespace Sys2Proof.Machine

/-! ## What a warm reset does to a tile -/

/-- A stream loses its program and its open brew (code 5, in BRW_TSTAT only); step number and fault record stand (R145, R177, R232). -/
def Stream.warm (x : Stream) : Stream :=
  { step := x.step, fault := x.fault
    tstat := if x.brew.phase == .idle then x.tstat else { x.tstat with openPc := x.brew.openPc, user := 0, code := 5 } }

/-- A spill with code 5 of every open brew is counted. -/
def Tile.countWarm (t : Tile) : Tile :=
  allStreams.foldl (fun (t : Tile) st => if (t.streamAt st).brew.phase == .idle then t else t.countBrew st 5) t

/-- A tile after a warm reset: local store, braid table, counters and deliveries to its place in the map stand; everything in flight is gone (R69, R117,
R145, R208). -/
def Tile.warm (t : Tile) : Tile :=
  let c := t.countWarm
  { c with
    str := Map.mapv {} (fun _ x => x.warm) c.str
    vreg := [], bank := [], sc := [], waits := [], acqs := [], braidPend := [], choiceOpen := true, sb := [], mmaQ := [], array := [], held := none
    vxHeld := [], copyQ := [], deferred := [], health := [], flushQ := [], deliveries := [] }

/-! ## What it does to the package -/

/-- The open steps of a partition: the oldest and the one after it (R105, R117). -/
def State.openSteps (s : State) (p : Nat) : List Nat :=
  let q := s.partAt p
  if q.stepOpen then [q.oldest, q.oldest + 1] else []

/-- Every accumulation record of a partition's open steps is discarded; the steps contribute with INCOMPLETE (R117). -/
def State.dropRecords (s : State) (p : Nat) : State :=
  let q := s.partAt p
  let open_ := s.openSteps p
  if open_.isEmpty ∨ q.hvalid = false then s
  else
    { s with mem := s.mem.filter fun e => !inRegion q.hregion 0x200000 e.1 }.modPart p fun q =>
      { q with incomplete := q.incomplete ++ open_.filter fun x => !q.incomplete.contains x }

/-- A partition after a warm reset (R379, R382): its lease restarts, and RUN, PARKING and ORPHAN become PARKED. The counts of
SEQ go on, so that a message of an abandoned operation is behind them and is discarded (R329, log 105). -/
def Part.warm (q : Part) : Part :=
  let parks := decide (q.state = .run ∨ q.state = .parking ∨ q.state = .orphan)
  let r := if q.valid then q.renewLease else q
  { r with state := if parks then .parked else q.state, parkDue := q.parkDue || parks, orphanLeft := 0 }

/-- A module after a warm reset: settings and counters stand, frames in flight are discarded and sequence numbers restart (R420). -/
def D2d.warm (m : D2d) : D2d := { m with replay := [], rxNext := 0, txAck := 0, crcAt := [], retryAt := [] }

/-- The engines stop without completing; PINS become 0 (R258). -/
def Upe.warm (u : Upe) : Upe :=
  { u with cur := none, wbs := [], pinWaited := [], due := [], dir := Map.mapv {} (fun _ d => { d with pins := 0 }) u.dir }

/-- What the reset of the engines and links leaves: every operation is abandoned with ABORT and PEER_RESET to its peers (R329). -/
def State.abandonOps (s : State) : State :=
  let s1 := s.ops.foldl (fun (s : State) o => if o.kind < 16 ∧ o.ended.isNone then s.sendAbort o 7 else s) s
  { s1 with
    ops := [], comb := [], gens := [], early := [], board := [], lost := [], sigs := [], locks := [], runs := []
    upe := Map.mapv {} (fun _ u => u.warm) s1.upe
    d2d := Map.mapv {} (fun _ m => m.warm) s1.d2d
    dlink := []
    host := Map.mapv {} (fun _ h => { h with reads := [], apDie := 4, apBase := 0 }) s1.host }

/-- Whether the ROM warm entry starts an image: header and MF_HASH (R389, R407). -/
def State.warmStarts (s : State) (i : ImageInfo) : Bool := decide (s.imageError i false = 0) && decide (sha256 i.firmware = i.mfHash)

/-- The ROM warm entry starts the image named PREFERRED, else the other one; with neither it enters recovery (R386, R407, R444). -/
def State.warmImage (s : State) : State :=
  let f := s.fw
  let good := fun (b : Bool) => match f.image b with | some i => s.warmStarts i | none => false
  let start := fun (b : Bool) =>
    let s1 : State := { s with fw := { f with slot := b, fallback := decide (b ≠ f.boot.preferred) } }
    match f.image b with | some i => s1.warmEntry i 1 | none => s1
  if good f.boot.preferred then start f.boot.preferred
  else if good (!f.boot.preferred) then start (!f.boot.preferred)
  else { s with fw := { f with stage := 4, due := f.due ++ [{ cls := 3, syn := 0x0802, unit := uPackage }] } }

/-- The sequence of Table 14 of chapter 16 up to the replay, which JOURNAL_REPLAY ends (R444). A migration in progress completes, before any stream can
restart (R42, log 81). IOD_APSEL, PWR_PACE and REPLAYED and SKIPPED of BRW_REPLAY, whose maps carry no mark, take their reset values (R5). -/
def State.warmSequence (s : State) (watchdog : Bool) : State :=
  let s1 := (List.range nParts).foldl State.dropRecords s
  let s2 := s1.abandonOps
  let s3 := s2.endMoves.ptile.foldl (fun (s : State) e => s.abandonRun e.1) s2.endMoves
  let s4 : State := { s3 with
    tile := Map.mapv {} (fun _ t => t.warm) s3.tile
    part := Map.mapv {} (fun _ q => q.warm) s3.part
    crumb := { s3.crumb with errQ := [], windows := [], queueFull := false, lost := satAdd 65535 s3.crumb.lost s3.crumb.errQ.length }
    fw := { s3.fw with ready := false, handoff := false, trainFirst := [], imgXfer := none, packXfer := none, nonces := [] }
    rpSkipped := 0, rpReplayed := 0
    pwr := { s3.pwr with state := .run, pace := [], warmPend := none, warmSrc := watchdog } }
  let s5 := s4.unfreeze.refreshBusy.refreshRotations.warmImage
  { s5 with replayDue := decide (s5.fw.stage ≠ 4) }

/-- A warm reset (R435, R442): in sleep and deep sleep it first completes the exit; the safe state is left by a cold reset only (R339). -/
def State.warmReset (s : State) (watchdog : Bool) : State :=
  if s.safeState ∨ s.firmwareRuns = false then s
  else match s.pwr.state with
  | .sleep => s.wakeSleep.warmSequence watchdog
  | .deep => { s with pwr := { s.pwr with state := .deepExit, warmPend := some watchdog } }
  | .deepExit => { s with pwr := { s.pwr with warmPend := some watchdog } }
  | .deepEntry => s.relightDeep.warmSequence watchdog
  | _ => s.warmSequence watchdog

/-- WARM_RESET over I3C (R463). -/
def execWarmReset (s : State) : Host.Outcome State Fault Refusal := .next (s.warmReset false)

/-- MANAGEMENT_WATCHDOG: not in a handoff window (Table 16-13). -/
def execManagementWatchdog (s : State) : Host.Outcome State Fault Refusal := .next (if s.fw.handoff then s else s.warmReset true)

/-- DEEP_EXIT_COMPLETE: `failing` are the physical tiles that fail the self-test (die, m); a warm reset that waited for the exit then runs (R434, R435). -/
def execDeepExitComplete (failing : List (Nat × Nat)) (s : State) : Host.Outcome State Fault Refusal :=
  .next <|
    if s.pwr.state ≠ .deepExit then s
    else
      let s1 := s.leaveDeep failing
      match s.pwr.warmPend with
      | some w => s1.warmSequence w
      | none => s1

/-! ## Journal replay -/

/-- The slots of a partition's journal (Table 09-4). -/
def Part.journalSlots (q : Part) : List Nat :=
  (List.range nTiles).map q.tileSlot ++ ((List.range 12).flatMap fun e => (List.range 4).map (q.engineSlot e)) ++
    (List.range 4).map q.firmwareSlot

/-- A commit record as read back (Table 09-5). -/
structure JRecord where
  valid  : Bool
  done   : Bool
  kind   : Nat
  owner  : Nat
  lines  : Nat
  grans  : Nat
  crc    : Nat

/-- The header of the record in a slot. -/
def State.journalHead (s : State) (slot : Nat) : JRecord :=
  let h := s.pkgRead slot 20
  let w0 := fld h 0 8
  let w1 := fld h 8 8
  { valid := decide (w0 % 2 = 1), done := decide (bits w0 3 3 = 1), kind := bits w0 2 1, owner := bits w1 53 44, lines := bits w1 41 29
    grans := bits w1 28 18, crc := fld h 16 4 }

/-- Bytes of a record's address list with its padded granule list, and of the whole record. -/
def JRecord.dataAt (r : JRecord) : Nat := 64 + 8 * r.lines + roundUp (2 * r.grans) 64
def JRecord.size (r : JRecord) : Nat := r.dataAt + 64 * r.lines

/-- Whether a listed number names a line of package memory. -/
def isLine (l : Nat) : Bool := decide (l % 64 = 0 ∧ l < 12 * stackBytes)

/-- The line addresses and granule indices a record lists. -/
def State.journalLines (s : State) (slot : Nat) (r : JRecord) : List Nat :=
  let b := s.pkgRead (slot + 64) (8 * r.lines)
  (List.range r.lines).map fun i => fld b (8 * i) 8
def State.journalGrans (s : State) (slot : Nat) (r : JRecord) : List Nat :=
  let b := s.pkgRead (slot + 64 + 8 * r.lines) (2 * r.grans)
  (List.range r.grans).map fun i => fld b (2 * i) 2

/-- Whether a range of the journal reads: no line of it is poisoned or fails now. -/
def State.journalReads (s : State) (bad : List Nat) (a len : Nat) : Bool :=
  (s.linesOf [(a, len)]).all fun l => !s.poisoned l && !bad.contains l

/-- The CRC-32C of a record matches (R225). -/
def State.journalCrcOk (s : State) (slot : Nat) (r : JRecord) : Bool :=
  (crc32c (s.pkgRead (slot + 8) 8 ++ s.pkgRead (slot + 64) (r.size - 64))).toNat == r.crc

/-- DONE is written in the COMMIT word. -/
def State.journalDone (s : State) (slot : Nat) : State :=
  let w := fld (s.pkgRead slot 8) 0 8
  s.pkgWrite none slot (natLe 8 (if bits w 3 3 = 1 then w else w + 8))

/-- A record that fails: its lines are poisoned, a tile record's granules are filled with poisoned words (R230). -/
def State.poisonRecord (s : State) (p slot : Nat) (r : JRecord) : State :=
  let s1 := ((s.journalLines slot r).filter isLine).foldl (fun (s : State) l => s.setPoison l true) s
  let s2 := if r.kind = 0 ∧ r.owner < nTiles then
      ((s.journalGrans slot r).filter fun g => decide (g < 6144)).foldl (fun (s : State) g =>
        s.modTile r.owner fun t => { t with lsBad := (List.range 32).foldl (fun (m : Map Bool) k => Map.put false m (32 * g + k) true) t.lsBad }) s1
    else s1
  let s3 := (s2.journalDone slot).errorEvent 2 0x0106 (uPart p) (s.partKeys p)
  { s3 with rpPoisoned := satAdd 65535 s3.rpPoisoned }

/-- A record that is whole: every line goes home. The granules of a tile record were flipped as its COMMIT word was acknowledged (R217, R229). -/
def State.replayRecord (s : State) (slot : Nat) (r : JRecord) : State :=
  let ls := s.journalLines slot r
  let data := s.pkgRead (slot + r.dataAt) (64 * r.lines)
  let s1 := (((List.range r.lines).zip ls).filter fun x => isLine x.2).foldl (fun (s : State) x => s.writeLine none x.2 (slice data (64 * x.1) 64)) s
  let s2 := s1.journalDone slot
  { s2 with rpReplayed := satAdd (2 ^ 32 - 1) s2.rpReplayed }

/-- Whether a slot's header line is all zero: the slot never held a record (DEDUCED, log 31). -/
def State.journalBlank (s : State) (slot : Nat) : Bool := (s.pkgRead slot 64).all fun b => decide (b = 0)

/-- One slot of a partition's journal (R229, R230). SKIPPED counts records found with VALID = 0 (Table 09-9, DEDUCED, log 31: a slot that never held a
record has none). -/
def State.replaySlot (s : State) (p : Nat) (bad : List Nat) (slot : Nat) : State :=
  let r := s.journalHead slot
  if !s.journalReads bad slot 64 then s.errorEvent 3 0x0106 (uPart p) (s.partKeys p)
  else if !r.valid && s.journalBlank slot then s
  else if !r.valid then { s with rpSkipped := satAdd 65535 s.rpSkipped }
  else if r.done then s
  else if !s.journalReads bad (slot + 64) (8 * r.lines) then s.errorEvent 3 0x0106 (uPart p) (s.partKeys p)
  else if s.journalReads bad (slot + 64) (r.size - 64) && s.journalCrcOk slot r then s.replayRecord slot r
  else s.poisonRecord p slot r

/-- Shards after the replay (R258). -/
def Upe.settle (u : Upe) : Upe :=
  { u with dir := Map.mapv {} (fun _ d => { d with state := match d.state with | .updating => .partial_ | .waitpin => .idle | x => x }) u.dir }

/-- EV_PARKED of the partitions that the warm reset parked (R382). -/
def State.reportParked (s : State) (p : Nat) : State :=
  if (s.partAt p).parkDue then (s.modPart p fun q => { q with parkDue := false }).partEvent p (.parked p (s.partSteps p)) else s

/-- JOURNAL_REPLAY: every journal with JVALID = 1 is replayed, the shards settle, and the warm reset ends with READY, EV_PARKED and RST_WARM (R229, R258,
R382, R444). `unreadable` are the lines that fail as they are read. -/
def execJournalReplay (unreadable : List Nat) (s : State) : Host.Outcome State Fault Refusal :=
  .next <|
    if !s.replayDue then s
    else
      let s1 := (List.range nParts).foldl (fun (s : State) p =>
        let q := s.partAt p
        if q.valid && q.jvalid then q.journalSlots.foldl (fun (s : State) a => s.replaySlot p unreadable a) s else s) s
      let s2 : State := { s1 with
        upe := Map.mapv {} (fun _ u => u.settle) s1.upe
        replayDue := false
        fw := { s1.fw with ready := decide (s1.fw.stage = 3) } }
      ((List.range nParts).foldl State.reportParked s2).crumbOut 0 0x0911 uPackage [(10, .u (Config.warmSource s2.pwr.warmSrc))]

end Sys2Proof.Machine
end

