-- ==== Sys2Proof/Machine/Boot.lean ====
section
/-! DEFINITION. Cold resets and cold boot (R383–R391, R395–R399, R409, R442, R443, R448, R449, R459), and the hardened inputs (R456–R458). -/

namespace Sys2Proof.Machine

/-! ## Cold reset -/

/-- What the flash, the fuses and the firmware's notes for its next start keep through a cold reset (R387, R393–R395, R399, R473). -/
def Fw.cold (f : Fw) : Fw :=
  { boot := f.boot, imgA := f.imgA, imgB := f.imgB, copy0 := f.copy0, copy1 := f.copy1, revoked := f.revoked, owner := f.owner, epoch := f.epoch, rb := f.rb
    sig0 := f.sig0, sig1 := f.sig1, pack := f.pack, skipPat := f.skipPat, due := f.due }

/-- The VAUX domain through a cold reset with its cause (R449, R457, R459); every other field takes its reset value, SLOT until the reset releases (R458). -/
def Side.cold (x : Side) (cause : Nat) : Side :=
  { chatter := x.chatter, level := x.level, slew := x.slew, events := x.events, rstCause := cause
    railsGood := x.railsGood && !decide (2 ≤ cause ∧ cause ≤ 5)
    thermtrip := decide (cause ≠ 1) && x.thermtrip, vinOff := decide (cause = 7) || (decide (cause ≠ 1) && x.vinOff) }

/-- Whether a host port is held in reset by its PERST# input. -/
def Side.perstHeld (x : Side) (p : HostPort) : Bool := (x.level ||| x.chatter).getLsbD (perstIn p).bit

/-- Reset values everywhere but in the flash, the fuses, the VAUX domain, what firmware rebuilds from the crumb ring (R65) and the model's own fields (R5,
R442). -/
def State.coldState (s : State) (cause : Nat) : State :=
  let side := s.side.cold cause
  let port := fun (p : HostPort) => ({ inReset := side.perstHeld p, sris := (s.hostAt p.idx).sris } : HPort)
  let t : State := { State.reset with
    die := Map.mapv {} (fun _ d => ({ ffuse := d.ffuse } : Die)) s.die
    ptile := Map.mapv {} (fun _ p => ({ lineCount := p.lineCount, mustProve := p.mustProve } : PTile)) s.ptile
    stack := Map.mapv {} (fun _ k => ({ softRows := k.softRows, hardDone := k.hardDone } : Stack)) s.stack
    fw := s.fw.cold
    crumb := { ring := s.crumb.ring }
    side := side
    i3c := { dyn := s.i3c.dyn, ibiEn := s.i3c.ibiEn, pidSlot := s.i3c.pidSlot }
    tap := s.tap
    outbox := s.outbox, pending := s.pending, freeCtr := s.freeCtr, nextId := s.nextId }
  let u := (t.setHost 0 (port .A)).setHost 1 (port .B)
  if u.throttled then u.throttle else u

/-- Notes a crumb that firmware emits after the next boot, with DETAIL equal to RST_CAUSE (R473). -/
def State.dueCause (s : State) (cls syn : Nat) : State :=
  { s with fw := { s.fw with due := s.fw.due ++ [{ cls := cls, syn := syn, unit := uPackage, keys := [(10, .u s.side.rstCause)] }] } }

/-- SLOT_UNSTABLE, once for each sample (R458). -/
def State.markUnstable (s : State) : State :=
  if s.side.slotUnstable then s else { s with side := { s.side with slotUnstable := true } }.crumbDue 0 0x0A05 uPackage [(10, .u s.side.rstCause)]

/-- BOARD_SLOT is sampled from the filtered levels (R192, R421, R458); a slot input whose chatter flag is set makes the sample unstable. -/
def State.sampleSlot (s : State) (unstable : Bool) : State :=
  let s1 : State := { s with side := { s.side with slotIdx := s.side.level.extractLsb' 5 3, sampled := true, slotUnstable := false } }
  if unstable || decide (s.side.chatter.extractLsb' 5 3 ≠ 0) then s1.markUnstable else s1

/-- Whether boot may begin: PKG_RST_N not asserted, both rails good, the regulators on (R383, R448, R459). -/
def State.mayBoot (s : State) : Bool := !(s.side.level ||| s.side.chatter).getLsbD 0 && s.side.railsGood && !s.side.vinOff

/-- The internal reset releases; BOARD_SLOT is sampled if this reset has not sampled it (R421). -/
def State.release_ (s : State) : State := if s.mayBoot && !s.side.sampled then s.sampleSlot false else s

/-- COLD_RESET over I3C (R463): BOARD_SLOT is sampled again as the reset releases (R421). -/
def execColdReset (s : State) : Host.Outcome State Fault Refusal := .next (s.coldState 6).release_

/-- VAUX_POWER_ON: every field of the VAUX domain takes its reset value; the rails are good once RAILS_GOOD says so (R448, R449). -/
def execVauxPowerOn (s : State) : Host.Outcome State Fault Refusal :=
  let side : Side := { level := s.side.level, railsGood := false }
  .next (State.coldState { s with side := side, i3c := {}, tap := {}, fw := { s.fw with due := [] } } 0)

/-- RAIL_RESET (R449). -/
def RailCause.code : RailCause → Nat | .vinLow => 2 | .vinHigh => 3 | .vauxRange => 4 | .vinOver => 5
def execRailReset (cause : RailCause) (s : State) : Host.Outcome State Fault Refusal :=
  .next ((s.coldState (RailCause.code cause)).dueCause 3 0x0A02)

/-- RAILS_GOOD: VIN and VAUX have stayed inside their ranges for 10 ms; a boot that waited starts (R448). -/
def execRailsGood (s : State) : Host.Outcome State Fault Refusal :=
  .next (if s.side.railsGood then s else State.release_ { s with side := { s.side with railsGood := true } })

/-- THERMAL_SHUTDOWN: VIN is still on after THERMTRIP_N and a tile reads 105 °C or more: every VIN-fed regulator goes off (R459). -/
def execThermalShutdown (die m tj : Nat) (s : State) : Host.Outcome State Fault Refusal :=
  if nDies ≤ die then .fault (.noSuchUnit "die" die)
  else if nPhys ≤ m then .fault (.noSuchUnit "physical tile" m)
  else .next (if s.side.thermtrip ∧ s.side.vinOff = false ∧ 105 ≤ tj then (s.coldState 7).dueCause 3 0x0A06 else s)

/-! ## Hardened inputs -/

/-- PKG_RST_N_ASSERT: cold reset, held while the input is asserted (R442). -/
def execPkgRstNAssert (s : State) : Host.Outcome State Fault Refusal := .next ((s.setLevel .pkgRst true).coldState 1)

/-- The filtered levels of the three BOARD_SLOT inputs. -/
def State.setSlots (s : State) (slot : BitVec 3) : State :=
  { s with side := { s.side with level := (s.side.level &&& 0x1F) ||| (slot.setWidth 8 <<< 5) } }

/-- PKG_RST_N_DEASSERT: BOARD_SLOT is sampled and boot begins once the rails are good; a latched chatter flag keeps the reset held (R192, R383, R457). -/
def execPkgRstNDeassert (slot : BitVec 3) (unstable : Bool) (s : State) : Host.Outcome State Fault Refusal :=
  .next <|
    if !s.side.level.getLsbD 0 && s.side.sampled then s
    else
      let s1 := (s.setLevel .pkgRst false).setSlots slot
      if s1.side.chatter.getLsbD 0 then s1 else s1.sampleSlot unstable

/-- BOARD_SLOT_CHANGE: within 10 ms of the sampling the sample is unstable; the I3C address follows the levels until an index is sampled (R458, R461). -/
def execBoardSlotChange (level : BitVec 3) (near : Bool) (s : State) : Host.Outcome State Fault Refusal :=
  let s1 := s.setSlots level
  .next (if s.side.sampled && near then s1.markUnstable else s1)

/-- What an asserted input does (Table 17-7). -/
def State.assertInput (s : State) (i : HardIn) : State :=
  match i with
  | .pkgRst => s.coldState 1
  | .throttle => s.throttle
  | .perstA => s.holdPort .A
  | .perstB => s.holdPort .B
  | .trst => { s with tap := { s.tap with st := .tlr, idcode := true } }
  | _ => s

/-- INPUT_CHATTER: the flag latches and the input is treated as asserted (R457); the crumb of PKG_RST_N, whose latch is a cold reset, is emitted after the next
boot (R473). -/
def execInputChatter (i : HardIn) (s : State) : Host.Outcome State Fault Refusal :=
  .next <|
    if s.side.chatter.getLsbD i.bit then s
    else
      let s1 : State := { s with side := { s.side with chatter := s.side.chatter ||| (1#8 <<< i.bit), events := satAdd 65535 s.side.events } }
      if i = .pkgRst then State.assertInput { s1 with fw := { s1.fw with due := s1.fw.due ++ [{ cls := 0, syn := 0x0A03, unit := uPackage, keys := [(10, .u i.bit)] }] } } i
      else (s1.crumbDue 0 0x0A03 uPackage [(10, .u i.bit)]).assertInput i

/-- Whether the agent of Table 17-7 can release a flag now, the input's filtered level being deasserted. -/
def State.mayRelease (s : State) (i : HardIn) : Bool :=
  s.side.chatter.getLsbD i.bit && (decide (5 ≤ i.bit) || !s.side.level.getLsbD i.bit) && (decide (i ≠ .throttle) || s.firmwareRuns)

/-- What follows the release: PKG_RST_N counts as deasserted now and BOARD_SLOT is sampled, a host port leaves its reset and measures REFCLK (a free outcome, log 5). -/
def State.releaseInput (s : State) (i : HardIn) : State :=
  let ref : Option Nat := if (Config.freeByte s.freeCtr).getLsbD 0 then some 100000 else none
  match i with
  | .pkgRst => s.sampleSlot false
  | .perstA => { (s.releasePort .A ref) with freeCtr := s.freeCtr + 1 }
  | .perstB => { (s.releasePort .B ref) with freeCtr := s.freeCtr + 1 }
  | _ => s

/-- CHATTER_RELEASED: no edge for 100 ms (R457). -/
def execChatterReleased (i : HardIn) (s : State) : Host.Outcome State Fault Refusal :=
  .next <|
    if !s.mayRelease i then s
    else
      let s1 : State := { s with side := { s.side with chatter := s.side.chatter &&& ~~~(1#8 <<< i.bit) } }
      (s1.crumbDue 0 0x0A04 uPackage []).releaseInput i

/-! ## The ROM -/

/-- LAST_ERR of a slot: a flash read error counts as FLASH, an empty slot has no MAGIC (R389). -/
def State.slotError (s : State) (b flashErr : Bool) : Nat :=
  if flashErr then 7 else match s.fw.image b with | none => 1 | some i => s.imageError i true

/-- The boot record after the ROM has used one of the preferred slot's tries. -/
def BootRec.useTry (b : BootRec) : BootRec := { b with tries := b.tries - 1, seq := b.seq + 1 }

/-- The ROM's choice of slot: its error for the preferred slot (8 when no try is left), the slot started, none for recovery (R385, R386). -/
def State.romChoice (s : State) (errA errB : Bool) : Nat × Option Bool :=
  let p := s.fw.boot.preferred
  let e := fun (b : Bool) => s.slotError b (if b then errB else errA)
  let first := if s.fw.boot.tries = 0 then 8 else e p
  if first = 0 then (0, some p)
  else if e (!p) = 0 then (first, some (!p))
  else (e (!p), none)

/-- SET_MHZ of the seven domains as every signed image sets them (Table 16-6). -/
def domainMhz : Map Nat := [(0, 2000), (1, 1000), (2, 1600), (3, 1500), (4, 1500), (5, 1500), (6, 1500)]

/-! ## Firmware at cold boot -/

/-- CTR resumes 4,096 above the highest value found, or at 0 on a package that has never written a crumb; its successor goes into the high-water word
(R353). -/
def State.resumeCtr (s : State) : State :=
  let top := s.crumb.ring.foldl (fun n c => max n c.ctr.toNat) s.fw.boot.crumbHwm.toNat
  let ctr := if s.crumb.ring.isEmpty ∧ s.fw.boot.crumbHwm = 0 then 0 else BitVec.ofNat 64 (top + 4096)
  { s with
    crumb := { s.crumb with ctr := ctr }
    fw := { s.fw with boot := { s.fw.boot with crumbHwm := ctr + 1, seq := s.fw.boot.seq + 1 } } }

/-- The configuration in force: the first copy that is not refused, by falling SEQ; with none, the defaults (R390). -/
def State.tryConfigs (s : State) : List (Nat × ConfBlock) → State
  | [] => State.crumbOut { s with fw := { s.fw with config := {}, cfg := 2 } } 0 0x0804 uPackage []
  | (k, c) :: rest =>
    let e := s.confError c.bytes
    if e = 0 then { s with fw := { s.fw with config := confOf c.bytes, cfg := k } }
    else (s.crumbOut 0 0x0803 uPackage [(10, .u e)]).tryConfigs rest
def State.chooseConfig (s : State) : State :=
  let a := s.fw.copy0.toList.map fun c => (0, c)
  let b := s.fw.copy1.toList.map fun c => (1, c)
  let newer := match s.fw.copy0, s.fw.copy1 with | some x, some y => decide (x.seq.toNat < y.seq.toNat) | _, _ => false
  s.tryConfigs (if newer then b ++ a else a ++ b)

/-- MR0 and MR1 by the ROM and the first stage, MR2 and MR3 by firmware (Table 15-7). -/
def State.measureImage (s : State) (i : ImageInfo) : State :=
  (((s.extendMr 0 0 (sha256 i.header)).extendMr 0 0 (sha256 i.firstStage)).extendMr 1 0 i.mfHash).extendMr 1 0 i.dataHash
def State.measureConfig (s : State) : State :=
  let f := s.fw
  let owner := match f.owner with | some h => hashBytes h | none => List.replicate 32 0
  (s.extendMr 2 0 (if f.cfg = 2 then 0 else sha256 f.config.bytes)).extendMr 3 0 (sha256 (natLe 8 s.iodFuse ++ natLe 8 s.iodFuseRb ++ owner))

/-- The signature state: the largest RESERVED of the current epoch; with neither copy valid the next epoch begins (R399). -/
def State.resumeSig (s : State) : State :=
  let f := s.fw
  match f.sig0, f.sig1 with
  | none, none => if f.epoch < 16 then s.nextEpoch 0x0807 else s
  | a, b =>
    let q := (a.toList ++ b.toList).foldl (fun n x => if x.1 = f.epoch then max n x.2 else n) 0
    { s with fw := { f with leafQ := q } }

/-- The crumbs noted for this start, BOOT_RECOVERY first (R385, R386, R473). -/
def State.emitDue (s : State) : State :=
  let ds := (s.fw.due.filter fun r => decide (r.syn = 0x0802)) ++ s.fw.due.filter fun r => decide (r.syn ≠ 0x0802)
  ds.foldl (fun (s : State) r => s.crumbOut r.cls r.syn r.unit r.keys) { s with fw := { s.fw with due := [] } }

/-- Compute dies of another MAJOR than the package's are held in reset (R409). -/
def State.checkMajors (s : State) : State :=
  (List.range nDies).foldl (fun (s : State) d =>
    if s.packageMajor = some (Config.idRev d).1 then s else (s.errorEvent 2 0x0805 (uDie d) []).loseDie d) s

/-- The port map: direction and light decide what each port does (R275, R276); codes 12 to 14 count as not used and bring a crumb. -/
def State.mapPair (s : State) (k : Nat) : State :=
  let c := (s.fw.config.portMap.getD k 0xF).toNat % 16
  let start := fun (s : State) (n : Nat) =>
    let s1 := s.modPort n fun q => { q with lport := n, dir := if 12 ≤ c then 0xF else c }
    if 12 ≤ c then s1 else s1.startPort n true
  let s1 := start (start s (2 * k)) (2 * k + 1)
  if 12 ≤ c ∧ c ≤ 14 then s1.crumbOut 0 0x0406 (uPort (2 * k)) [(10, .u k)] else s1

/-- A stack's training: soft repairs become permanent, and it reports the repair resources it has left (R205). -/
def Stack.trained (x : Stack) (res : Nat) : Stack :=
  let done := x.hardDone + x.softRows.length
  { x with softRows := [], hardDone := done, pprLeft := min 255 (res - done) }

/-- Stacks train, those that fail are fenced (R205, R207); partitions take the block's lease and digest interval (R254, R382), ports train. -/
def State.bringUp (s : State) (failed : List Nat) : State :=
  let s1 := s.checkMajors
  let s2 := (List.range nStacks).foldl (fun (s : State) k =>
    if failed.contains k then s.fenceStack k else s.modStack k fun x => x.trained (Config.pprResources k)) s1
  let s3 := (List.range nParts).foldl (fun (s : State) p =>
    s.modPart p fun q => { q with lease := s.fw.config.lease, dint := s.fw.config.digestD.setWidth 9 }) s2
  (List.range 32).foldl State.mapPair s3

/-- Firmware starts: crumbs, configuration, measurements, signature state; on the RC oscillator alone nothing else is brought up (R424). -/
def State.firmwareStart (s : State) (i : ImageInfo) (failed : List Nat) : State :=
  let s0 : State := { s with clk := { s.clk with domSet := domainMhz } }
  let s1 := ((s0.measureImage i).resumeCtr.emitDue).chooseConfig.measureConfig.resumeSig
  if s1.fw.rcOnly then s1 else s1.bringUp failed

/-- FIRST_STAGE_START: the ROM verifies a slot and its first stage starts the firmware (R385, R386, R389); stage 1 lasts no command of its own.
`failed` are the stacks that fail training or initialisation (R207). -/
def execFirstStageStart (flashErrA flashErrB : Bool) (failed : List Nat) (s : State) : Host.Outcome State Fault Refusal :=
  .next <|
    if s.fw.stage ≠ 0 ∨ s.mayBoot = false ∨ !((s.clk.xtalOk && s.clk.iodLock) || s.fw.rcOnly) then s
    else
      let f := s.fw
      let r := s.romChoice flashErrA flashErrB
      let tried : Fw := { f with boot := if f.boot.tries = 0 then f.boot else f.boot.useTry, lastErr := r.1 }
      match r.2 with
      | none => { s with fw := { tried with stage := 4, due := f.due ++ [{ cls := 3, syn := 0x0802, unit := uPackage }] } }
      | some b =>
        let fb := decide (b ≠ f.boot.preferred)
        let due := if fb then f.due ++ [{ cls := 0, syn := 0x0801, unit := uPackage, keys := [(10, .u r.1)] }] else f.due
        let s1 : State := { s with fw := { tried with stage := 2, slot := b, fallback := fb, due := due } }
        match f.image b with
        | some i => s1.firmwareStart i failed
        | none => s1

/-- The rollback fuses rise to the image's own SVN at a boot from the preferred slot (R395). -/
def State.advanceRollback (s : State) : State :=
  match s.fw.image s.fw.slot with
  | some i => if !s.fw.fallback ∧ s.fw.rb < i.svn then State.crumbOut { s with fw := { s.fw with rb := min 64 i.svn } } 0 0x080C uPackage [] else s
  | none => s

/-- Whether every compute die not held in reset has released its tiles to stream programs (R41, R144). -/
def State.diesReleased (s : State) : Bool := (List.range nDies).all fun d => (s.dieAt d).released || (s.dieAt d).heldReset

/-- FIRMWARE_READY: READY on both ports, STAGE 3, TRIES back to 3 (R383, R385), once the tiles of every die are released. -/
def execFirmwareReady (s : State) : Host.Outcome State Fault Refusal :=
  .next <|
    if s.fw.stage ≠ 2 ∨ s.fw.rcOnly ∨ s.diesReleased = false then s
    else State.advanceRollback { s with fw := { s.fw with
      ready := true, stage := 3, boot := { s.fw.boot with tries := 3, seq := s.fw.boot.seq + 1 } } }

end Sys2Proof.Machine
end

