-- ==== Sys2Proof/Machine/Ga.lean ====
section
/-! DEFINITION. GATHER (R173, R202, R315, R316): its issue, what every owner sends, and its completion. -/

namespace Sys2Proof.Machine

/-- The members of an issue by rank. -/
def byRank (js : List Joiner) : List Joiner := (List.range js.length).filterMap fun r => js.find? fun j => decide (j.rank = r)

/-- The copy a GATHER's word describes at the receiving side (Table 07-18, R202). -/
def gaCopy (w : IWord) (b : Begin) : Copy :=
  { id := b.id, stream := b.stream, pc := 0, dir := .in_, lfmt := cpLfmt w, mfmt := cpMfmt w, blend := decide (cpLfmt w = 12 ∨ cpMfmt w = 12)
    loff := cpLoff w, lsoff := cpLsoff w, count := cpCount w, rnd := extF w 96 95, sat := decide (extF w 97 97 = 1), trans := cpTrans w, blk := cpBlk w
    tensor := cpTensor w, step := b.step, lane := 0, addr := 0, stride := 0, slice0 := 0, dst := 0, dstS := 0, members := (byRank b.joiners).map fun j => j.tile
    sigen := false, k := 0, part := b.part, inBrew := false }

def gaCheck (w : IWord) : Bool := w.func.getLsbD 0
def gaExt (w : IWord) : Bool := w.func.getLsbD 1

/-! ## The descriptor (Table 12-8) -/

/-- Shards each rank owns. -/
def State.gaCounts (s : State) (n : Nat) (d : List Byte) : List Nat :=
  if fld d 0x10 8 = 0 then List.replicate n (fld d 0xC 4) else (List.range n).map fun i => leNat (s.pkgRead (fld d 0x10 8 + 8 * i) 8)

/-- The shards this package owns in an operation; none where one is undefined. -/
def State.gaShards (s : State) (p own : Nat) (c : List Nat) (d : List Byte) : Option (List (Nat × Nat)) :=
  let l := (List.range (c.getD own 0)).map fun i => s.findShard p (fld d 4 4) (fld d 8 4 + sumTo c own + i)
  if l.all Option.isSome then some (l.filterMap id) else none

def State.slicesOf (s : State) (l : List (Nat × Nat)) : Nat := l.foldl (fun n x => n + (s.dirAt x.1 x.2).n) 0

/-- The lowest refused field of a GATHER descriptor (R315); a total known to exceed or, in a group of one, to differ from COUNT is refused at once. -/
def State.gaBad (s : State) (p count : Nat) (d : List Byte) : Option Nat :=
  let q := s.partAt p
  match q.cuts (fld d 0 2) with
  | none => some 0
  | some cuts =>
    let n := q.groupSize cuts
    let own := q.groupRank cuts
    let arr := fld d 0x10 8
    let arrBad := decide (arr ≠ 0) && (decide (arr % 8 ≠ 0) || (s.outside p arr (8 * n)).isSome)
    let c := if arrBad then [] else s.gaCounts n d
    let mine := s.gaShards p own c d
    let total := match mine with | some l => s.slicesOf l | none => 0
    let bad : List (Nat × Bool) :=
      [(0x02, decide (8 ≤ fld d 2 1 ∨ fld d 2 1 % 4 = 3)), (0x03, decide (fld d 3 1 ≠ 0)), (0x04, decide (2 ^ 20 ≤ fld d 4 4)),
       (0x08, !arrBad && (mine.isNone || decide (count < total ∨ (n = 1 ∧ total ≠ count)))),
       (0x10, arrBad), (0x20, !((slice d 0x20 24).all fun b => b == 0))]
    (bad.find? (·.2)).map (·.1)

/-! ## Owners (R316) -/

/-- One slice as its owner sends it: the shard's version, the slice index, the frame in MFMT; with the conversion's events. -/
def State.gaSlice (s : State) (p : Nat) (step : BitVec 32) (d : List Byte) (mfmt real : Nat) (x : Nat × Nat × Nat) : List Byte × List (List Nat) :=
  let e := s.dirAt x.1 x.2.1
  let idx := e.slice0.toNat + x.2.2
  let head := natLe 4 e.version.toNat ++ natLe 4 idx
  let w := s.memRead (e.wAt x.1 x.2.2) 32768
  if (lineAddrs (e.wAt x.1 x.2.2) 32768).any s.poisoned || decide (real ≠ 1) then
    let rd := rdOf w.toArray
    let src := fun (r c : Nat) => if s.poisoned ((e.wAt x.1 x.2.2 + 2 * (128 * r + c)) / 64 * 64) then Val.nan else decodeElem 1 (elemAt rd 1 (128 * r + c))
    let md := if mfmt = 12 then Rnd.sr else Rnd.ofCode (fld d 2 1 % 4)
    let cv := convSlice real md (decide (fld d 2 1 / 4 % 2 = 1)) false (fun r c => s.srAt p (fld d 4 4) step 5 0 (idx * 16384 + 128 * r + c)) src
    let ev := (elems.zip cv.events).map fun z => 0 :: histIdx (s.partAt p).histBase (src (z.1 / 128) (z.1 % 128)) ++ z.2
    (head ++ cv.elems ++ cv.plane, if real = 1 then [] else ev ++ if mfmt = 12 then shadowSlice false src else [])
  else (head ++ w, [])

/-- Bytes of a slice message. -/
def gaSliceLen (real : Nat) : Nat := 8 + sliceBytes real + planeBytes real

/-- The operation starts: descriptor checked, every owned slice read once through the stacks' ECC (R203) and sent to every member. -/
def State.beginGa (hw : Hw) (b : Begin) (s : State) : State :=
  let w := (b.joiners.find? fun j => decide (j.rank = 0)).getD (b.joiners.headD { tile := 0, rank := 0, pc := 0, addr := 0, sigen := false, k := 0 })
  let d := s.pkgRead w.addr 64
  match s.gaBad b.part (cpCount w.word) d with
  | some off => s.descInvalid b.joiners b.stream b.id off
  | none =>
    let q := s.partAt b.part
    let g := fld d 0 2
    let cuts := (q.cuts g).getD 0
    let n := q.groupSize cuts
    let own := q.groupRank cuts
    let c := s.gaCounts n d
    let arr := if fld d 0x10 8 ≠ 0 then c else []
    let mine := (s.gaShards b.part own c d).getD []
    let mf := cpMfmt w.word
    let real := (s.resolveFmt b.part (cpTensor w.word) b.step mf).1
    let slices := mine.flatMap fun x => (List.range (s.dirAt x.1 x.2).n).map fun k => (x.1, x.2, k)
    let read := mine.flatMap fun x => lineAddrs ((s.dirAt x.1 x.2).wAt x.1 0) (32768 * (s.dirAt x.1 x.2).n)
    let bad := read.filter fun l => hw.memUncorr.contains l || s.poisoned l
    let s := bad.foldl State.spoil ((read.filter hw.memCorr.contains).foldl State.lineCorrected s)
    let sent := slices.map (s.gaSlice b.part b.step d mf real)
    let o : Op :=
      { id := b.id, kind := 8, part := b.part, stream := b.stream, step := b.step, group := g, seq := q.seqOf g b.lane b.step.toNat, lane := b.lane
        tag := q.tagFor b.step, shape := crc32c (slice d 0 16 ++ arr.flatMap (natLe 8)), desc := d, addr := w.addr, size := n, rank := own, joiners := b.joiners
        counts := c, awaits := (List.range n).filter fun r => decide (c.getD r 0 ≠ 0)
        contrib := (indexed sent).map fun x => (own, 16384 * x.1, x.2.1), lasts := if sent.isEmpty then [] else [own] }
    let s0 := if (s.resolveFmt b.part (cpTensor w.word) b.step mf).2 && !sent.isEmpty then s.countUnmapped b.part 1 else s
    let s1 := (s0.addOp o).modPart b.part fun q => q.bumpSeq g b.lane b.step.toNat
    let s2 := s1.engineEvents b.part (fld d 4 4) b.step.toNat (sent.flatMap (·.2))

    let s3 := bad.foldl (fun (s : State) l => (s.countClx b.part 6).errorEvent 1 0x0503 (uPart b.part) (s.partKeys b.part ++ [(10, .u l)])) s2
    let s4 := o.peers.foldl (fun (s : State) r =>
      (indexed sent).foldl (fun (s : State) x => s.collSend b.part cuts r (o.message (decide (x.1 + 1 = sent.length)) (16384 * x.1) x.2.1)) s) s3
    s4.replayEarly b.id

/-! ## Issue -/

/-- Own shards of the descriptor at an address that are UPDATING or PARTIAL: the read waits (R250). -/
def gaWaits (i : Issue) (s : State) : Bool :=
  let p := s.issuerPart i
  let d := s.pkgRead (descAt i s) 64
  match (s.partAt p).cuts (fld d 0 2) with
  | none => false
  | some cuts =>
    match s.gaShards p ((s.partAt p).groupRank cuts) (s.gaCounts ((s.partAt p).groupSize cuts) d) d with
    | some l => l.any fun x => decide ((s.dirAt x.1 x.2).state = .updating ∨ (s.dirAt x.1 x.2).state = .partial_)
    | none => false

/-- The ranges an owner reads as a GATHER starts: the count array and the W frames of its shards. -/
def State.gaReads (s : State) (p a : Nat) : List (Nat × Nat) :=
  let d := s.pkgRead a 64
  match (s.partAt p).cuts (fld d 0 2) with
  | none => []
  | some cuts =>
    let n := (s.partAt p).groupSize cuts
    (fld d 0x10 8, if fld d 0x10 8 = 0 then 0 else 8 * n) ::
      ((s.gaShards p ((s.partAt p).groupRank cuts) (s.gaCounts n d) d).getD []).map fun x => ((s.dirAt x.1 x.2).at_ x.1, 32768 * (s.dirAt x.1 x.2).n)

def needsGather (i : Issue) (s : State) : Needs :=
  let w := i.word
  let x := s.streamAt i.tile i.stream
  let p := x.part
  let a := descAt i s
  let members := match s.combining i.tile i.stream with | some l => s.loafTiles l | none => [i.tile]
  let c := gaCopy w { id := 0, joiners := (indexed members).map fun n => { tile := n.2, rank := n.1, pc := 0, addr := 0, sigen := false, k := 0 }, part := p, stream := i.stream, step := x.step, lane := 0 }
  let ext := gaExt w
  let desc := s.outside p a 64
  let frames := if ext ∧ desc.isNone then runFrames (fld (s.pkgRead a 64) 0x18 8) 0 c.count c.lfmt else []
  let big := maxShare c.count (max 1 members.length)
  let ls := if ext then [] else lsRun c.loff c.lsoff big c.lfmt
  let out := frames.findSome? fun f => s.outside p f.1 f.2
  let faults := fmtFault (c.pairOk s) c.mfmt ++ rangeFaults ls ++
    (match desc with | some b => [(0x06, BitVec.ofNat 64 b)] | none => []) ++ (match out with | some b => [(0x06, BitVec.ofNat 64 b)] | none => []) ++
    (match s.firstProt p frames with | some b => [(0x07, BitVec.ofNat 64 b)] | none => []) ++
    if a % 64 ≠ 0 then [(0x14, 0)] else []
  let st := engineStall i false s
  Needs.holdReads (s := s) (starts := s.issueStarts i 3 false) (rs := s.gaReads p a) <|
  { ill := funcIll w (fun f => decide (f < 4)) ++ opsIll w .s .s .sOrNone ++ immIll w 23 19 zero ++ extIll w 127 120 zero ++ extIll w 96 95 rndOk ++
      extIll w 94 91 fmtOk ++ extIll w 90 87 fmtOk ++ extIll w 86 77 (fun n => decide (1 ≤ n)) ++
      (if scaled c.lfmt then [] else immIll w 18 6 zero ++ extIll w 99 99 zero)
    fence := true
    reads := resS w.srca ++ resS w.srcb
    writes := resS w.dst
    lsW := if faults.isEmpty then (if ext then [] else lsRun c.loff c.lsoff (c.shareOf i.tile) c.lfmt) else []
    exR := if faults.isEmpty then [(a, 64)] else []
    exW := if faults.isEmpty then frames else []
    stall := if st.isSome then st
      else if c.blend && (s.partAt p).blendWaits c.tensor x.step.toNat then some .peer
      else if !faults.isEmpty then none
      else if gaWaits i s then some .peer
      else if !ext && c.real s c.srcF ≠ c.real s c.dstF then s.healthStall i.tile p c.tensor x.step
      else none
    ninth := x.awaited
    faults := faults }

/-- GATHER (R173, R180). Its entry stands until it completes. -/
def execGather (i : Issue) (s : State) : Host.Outcome State Fault Refusal :=
  issue i (needsGather i s) (fun pc s =>
    let g := needsGather i s
    let e : SbEntry := { stream := i.stream, reads := [], writes := resS i.word.dst ++ (g.lsW.flatMap lsRes) ++ g.exW.flatMap s.extRes, op := 0, cause := .peer }
    effEngine 3 false e i pc ((s.getS i (rn i.word.srcb)).setWidth 32) (State.beginGa i.hw) s) s

/-! ## Completion -/

/-- The slices that have arrived, by rank then OFFSET: version, index, frame. -/
def Op.gaSlices (o : Op) (real : Nat) : List (Nat × Nat × List Byte) :=
  ((List.range o.size).flatMap fun r =>
    let d := o.dataOf r
    (List.range (d.length / gaSliceLen real)).map fun k => slice d (k * gaSliceLen real) (gaSliceLen real)).map fun b => (fld b 0 4, fld b 4 4, b.drop 8)

/-- Writes sD of every issuing member. -/
def State.gaStamp (s : State) (o : Op) (v : Word) : State :=
  o.joiners.foldl (fun (s : State) j => s.modStream j.tile o.stream fun x => x.writeS (rn j.word.dst) v) s

/-- One slice lands: in the local store of its member, or in external memory (R202, R316). -/
def State.gaLand (s : State) (o : Op) (w : IWord) (c : Copy) (k : Nat) (x : Nat × Nat × List Byte) : State :=
  let sf := c.real s c.mfmt
  let df := c.real s c.lfmt
  let m := s.moveSlice { c with blk := if gaExt w then false else c.blk } sf df (decide (c.lfmt = 12)) x.2.1 (x.2.2.take (sliceBytes sf)) (x.2.2.drop (sliceBytes sf))
  if gaExt w then
    let a := fld o.desc 0x18 8 + k * frameBytes c.lfmt
    ((s.pkgWrite none a m.elems).pkgWrite none (a + framePlane c.lfmt) m.plane).engineEvents o.part c.tensor o.step.toNat m.events
  else
    let seat := seatOf c.count c.members.length k
    let n := c.members.getD seat.1 0
    let s1 := s.modTile n fun t => t.lsDeliver (256 * c.loff + seat.2 * sliceBytes c.lfmt) m.elems
    let s2 := s1.modTile n fun t => t.lsDeliver (256 * c.lsoff + seat.2 * 512) m.plane
    s2.countHealth n o.part c.tensor o.step m.events

/-- The operation leaves the table with its status in descriptor bytes 0x38 to 0x3F. -/
def State.closeGa (s : State) (o : Op) (st : Nat) : State :=
  let s1 := s.pkgWrite none (o.addr + 0x38) (natLe 8 st)
  ({ (s1.release o.joiners o.stream o.id) with ops := s1.ops.filter fun x => decide (x.id ≠ o.id) }).signalJoiners o.joiners o.stream o.part

/-- Whether what a GATHER's end writes is held: a destination line or its status word locked or held (R216, R191, R205), a local-store range held (R215,
R58), a member migrating (R31). -/
def State.gaHeld (s : State) (o : Op) (w : IWord) (c : Copy) : Bool :=
  s.linesWait [(o.addr + 0x38, 8)] ||
    if gaExt w then s.linesWait (runFrames (fld o.desc 0x18 8) 0 c.count c.lfmt)
    else c.members.any fun m => (s.tmapAt m).migrating || (s.tileAt m).holdsDelivery none (c.delivers m)

/-- GATHER_COMPLETE (R173, R315, R316): every slice has arrived; the total, then the version are checked, the slices land, the stamp is written. A
refused GATHER writes nothing to its destination and all ones to sD. -/
def execGatherComplete (id : Nat) (s : State) : Host.Outcome State Fault Refusal :=
  match s.opOf id with
  | none => .next s
  | some o =>
    if o.kind ≠ 8 then .next s
    else match o.ended with
    | some (code, prank, pstep) =>
      if s.linesWait [(o.addr + 0x38, 8)] then .next s
      else .next ((s.gaStamp o (BitVec.allOnes 64)).closeGa o (code + prank % 65536 * 65536 + (if 1 ≤ code ∧ code ≤ 3 then pstep.toNat else 0) * 2 ^ 32))
    | none =>
      let w := ((o.joiners.find? fun j => decide (j.rank = 0)).getD (o.joiners.headD { tile := 0, rank := 0, pc := 0, addr := 0, sigen := false, k := 0 })).word
      let c := gaCopy w { id := id, joiners := o.joiners, part := o.part, stream := o.stream, step := o.step, lane := 0 }
      if !o.complete || s.gaHeld o w c then .next s
      else
        let xs := o.gaSlices (c.real s c.mfmt)
        let gone := { (s.release o.joiners o.stream id) with ops := s.ops.filter fun x => decide (x.id ≠ id) }
        if xs.length ≠ c.count then .next (gone.deferAll o.joiners o.stream 0x14 8)
        else
          let low := xs.foldl (fun (m : Nat) x => min m x.1) (2 ^ 32 - 1)
          let stale := o.joiners.filter fun j => gaCheck j.word && xs.any fun x => decide (j.expect.toNat ≠ x.1)
          if !stale.isEmpty then
            .next (stale.foldl (fun (s : State) j => s.deferAll [j] o.stream 0x11 (BitVec.ofNat 64 (low * 2 ^ 32 + j.expect.toNat))) gone)
          else
            let s1 := (indexed xs).foldl (fun (s : State) x => s.gaLand o w c x.1 x.2) s
            let s2 := if (s.resolveFmt o.part c.tensor o.step c.lfmt).2 then s1.countUnmapped o.part 1 else s1
            let s3 := s2.gaStamp o (BitVec.ofNat 64 (low + b2n (xs.any fun x => decide (x.1 ≠ low)) * 2 ^ 32))
            .next ((s3.countClx o.part 0).closeGa o 0)

end Sys2Proof.Machine
end

