-- ==== Sys2Proof/Machine/Ticks.lean ====
section
/-! DEFINITION. Clock sources and their failures (R422–R430), and the reference tick: idle and wait accounting (R138–R142), pacing time (R441), leases. -/

namespace Sys2Proof.Machine

/-! ## The stability judge (R423) -/

/-- RC cycles after which the judge gives up: 50 ms. -/
def judgeLimit : Nat := 20000000

/-- CRYSTAL_EDGE_MISSING: the alarm resets the crystal count and counts a restart; `rcCycles` have passed since the last report. -/
def execCrystalEdgeMissing (rcCycles : Nat) (s : State) : Host.Outcome State Fault Refusal :=
  .next (if s.clk.xtalOk ∨ s.fw.rcOnly then s
    else { s with clk := { s.clk with restarts := satAdd 255 s.clk.restarts, rcCount := min judgeLimit (s.clk.rcCount + rcCycles) } })

/-- CRYSTAL_STABLE: 131,072 crystal cycles took `rcCycles`; outside 1,048,576 ± 4 % the count resets. -/
def execCrystalStable (rcCycles : Nat) (s : State) : Host.Outcome State Fault Refusal :=
  .next (if s.clk.xtalOk ∨ s.fw.rcOnly ∨ judgeLimit ≤ s.clk.rcCount then s
    else { s with clk := { s.clk with
      xtalOk := decide (1006633 ≤ rcCycles ∧ rcCycles ≤ 1090519), rcCount := min judgeLimit (s.clk.rcCount + rcCycles) } })

/-- CLK_XTAL_FAIL: the package stays on the RC oscillator (R424). -/
def execClkXtalFail (s : State) : Host.Outcome State Fault Refusal :=
  .next (if s.clk.xtalOk ∨ s.fw.rcOnly then s
    else State.errorEvent { s with clk := { s.clk with rcCount := judgeLimit }, fw := { s.fw with rcOnly := true } } 3 0x0907 uPackage [])

/-! ## PLLs -/

/-- PLL_LOCK: PLL 0–3 of a compute die, 4 the IOD reference PLL (R425). -/
def execPllLock (pll : Nat) (s : State) : Host.Outcome State Fault Refusal :=
  if 4 < pll then .fault (.noSuchUnit "PLL" pll)
  else .next <|
    if pll = 4 then (if s.clk.xtalOk ∧ s.fw.rcOnly = false then { s with clk := { s.clk with iodLock := true, sclkRc := false } } else s)
    else if s.clk.iodLock ∧ (s.dieAt pll).heldReset = false ∧ s.inDeep = false then s.modDie pll fun d => { d with pllLock := true }
    else s

/-- CLK_XTAL_LOST: the IOD reference PLL holds over, SCLK moves to the RC oscillator; C3 (R430). -/
def execClkXtalLost (s : State) : Host.Outcome State Fault Refusal :=
  .next (if s.clk.xtalOk = false ∨ s.clk.iodLock = false ∨ s.fw.rcOnly then s
    else State.errorEvent { s with clk := { s.clk with hold := true, sclkRc := true }, fw := { s.fw with rcOnly := true } } 3 0x0908 uPackage [])

/-- HOLDOVER_END: the fabric ports that no ACTIVE anchor port references go DOWN with NO_SIGNAL (R430). -/
def execHoldoverEnd (s : State) : Host.Outcome State Fault Refusal :=
  .next <|
    if !s.clk.hold then s
    else
      let s1 : State := { s with clk := { s.clk with hold := false } }
      let anchored := decide (s.clk.fabref ≠ 0) && (List.range nPorts).any fun n => (s.portAt n).anchor && (s.portAt n).state == .active
      if anchored then s1
      else ((List.range nPorts).filter fun n => let q := s.portAt n; q.trained || q.state == .retrain || q.state == .train).foldl
        (fun (s : State) n => s.portDown n 2) s1

/-- CLK_PLL_UNLOCK: a compute die is lost as by its IOD link, the IOD reference PLL is C3 (R430). -/
def execClkPllUnlock (pll : Nat) (s : State) : Host.Outcome State Fault Refusal :=
  if 4 < pll then .fault (.noSuchUnit "PLL" pll)
  else .next <|
    if pll = 4 then
      (if s.clk.iodLock then State.errorEvent { s with clk := { s.clk with iodLock := false } } 3 0x0909 uPackage [] else s)
    else if (s.dieAt pll).pllLock then
      ((s.modDie pll fun d => { d with pllLock := false }).errorEvent 2 0x0909 (uDie pll) []).loseDie pll
    else s

/-! ## Idle and wait time -/

/-- The stream an idle tick is charged to (R140, 4). -/
def Tile.idleStream (t : Tile) : Option StreamId :=
  match (t.slotOrder.map t.slotStream).find? fun st => (t.streamAt st).run with
  | some st => some st
  | none => allStreams.find? fun st => (t.streamAt st).run

/-- The cause an idle tick is charged to (R140). -/
def Tile.idleCause (t : Tile) (migrating : Bool) : Cause :=
  if migrating then .bench
  else if t.held.isSome then .check
  else match t.idleStream with
  | none => .host
  | some st => (t.waitCause migrating st).getD .dep

/-- Whether no wave and no fill row enters the array (R138): every MMA granted is only draining, or the array is held. -/
def Tile.arrayIdle (t : Tile) : Bool := t.array.all (·.entered) || t.held.isSome

/-- TILE_WAIT of the streams that wait; a stream with no program waits for HOST (R138, R140). -/
def Tile.chargeWaits (t : Tile) (migrating : Bool) : Tile :=
  allStreams.foldl (fun (x : Tile) st =>
    if !(t.streamAt st).run then x.addWait st .host
    else match t.waitCause migrating st with | some c => x.addWait st c | none => x) t

/-- PACE of a busy tick: the tile's own counter and that of the stream whose MMA's waves or fill rows enter the array. -/
def Tile.chargePace (t : Tile) (share : Nat) : Tile :=
  match t.array.find? fun m => !m.entered with
  | none => t
  | some m => t.addPace share (some m.stream)

/-- One reference tick of a logical tile whose physical tile is `g`. -/
def State.tickTile (s : State) (n g : Nat) : State :=
  let mig := (s.tmapAt n).migrating
  s.modTile n fun t =>
    let t1 := t.chargeWaits mig
    if t.arrayIdle then t1.addIdle (t.idleCause mig) else t1.chargePace (s.paceShare g)

/-! ## The tick -/

/-- Whether the tiles' counters run: not in sleep or deep sleep (R432). -/
def State.tilesTick (s : State) : Bool := decide (s.pwr.state ≠ .sleep ∧ s.pwr.state ≠ .deep ∧ s.pwr.state ≠ .deepExit)

/-- The tick of a compute die: REFTICK and its present tiles. -/
def State.tickDie (s : State) (d : Nat) : State :=
  let s1 := s.modDie d fun x => { x with refTick := x.refTick + 1 }
  if !s.tilesTick then s1
  else (List.range 144).foldl (fun (s : State) k => match s.physOf (144 * d + k) with | some g => s.tickTile (144 * d + k) g | none => s) s1

/-- PWR_PACE[c] gains the tick (R441). -/
def Pwr.countPace (p : Pwr) (c : Nat) (on : Bool) : Pwr := if on then { p with pace := Map.upd 0 p.pace c (satAdd max48 ·) } else p

/-- The lease of a partition counts down in milliseconds, not in a handoff window (R379, R382). -/
def Part.leaseMs (q : Part) : Part := if q.valid && q.leaseOn then { q with leaseLeft := if q.leaseLeft = 0 then 0 else q.leaseLeft - 1 } else q

/-- The tick of the IOD: REFTICK, pacing causes, time in sleep, leases. -/
def State.tickIod (s : State) : State :=
  let active := s.ptile.any fun e => e.2.state == .active
  let p := s.pwr
  let p1 := (((p.countPace 0 (active && p.limitCause)).countPace 1 (active && s.thermalCause)).countPace 2 (active && p.throttleCause)).countPace 3 (active && p.vinCause)
  let p2 := (p1.countPace 4 (p.state == .sleep)).countPace 5 (p.state == .deep)
  let s1 : State := { s with refTick := s.refTick + 1, pwr := { p2 with
    paceTicks := if p.limitCause then p.paceTicks + 1 else p.paceTicks, pacedAt := if p.limitCause then some s.refTick else p.pacedAt } }
  if s1.refTick.toNat % msTicks = 0 ∧ s.fw.handoff = false then { s1 with part := Map.mapv {} (fun _ q => q.leaseMs) s1.part } else s1

/-- REFERENCE_TICK of a die: 0–3 the compute dies, 4 the IOD. The die reference comes from the IOD reference PLL (R425). -/
def execReferenceTick (die : Nat) (s : State) : Host.Outcome State Fault Refusal :=
  if 4 < die then .fault (.noSuchUnit "die" die)
  else if !s.clk.iodLock then .next s
  else if die = 4 then .next s.tickIod
  else if (s.dieAt die).heldReset then .next s
  else .next (s.tickDie die)

end Sys2Proof.Machine
end

