-- ==== Sys2Proof/Machine/Dispatch.lean ====
section
/-! DEFINITION. The meaning of each command: one arm per constructor of `Instr`. -/

namespace Sys2Proof.Machine

def exec (i : Instr) (s : State) : Host.Outcome State Fault Refusal :=
  match i with
  | .nop x => Sys2Proof.Machine.execNop x s
  | .end_ x => Sys2Proof.Machine.execEnd x s
  | .br x => Sys2Proof.Machine.execBr x s
  | .brdec x => Sys2Proof.Machine.execBrdec x s
  | .ldi x => Sys2Proof.Machine.execLdi x s
  | .salu x => Sys2Proof.Machine.execSalu x s
  | .scmp x => Sys2Proof.Machine.execScmp x s
  | .plog x => Sys2Proof.Machine.execPlog x s
  | .sget x => Sys2Proof.Machine.execSget x s
  | .sld x => Sys2Proof.Machine.execSld x s
  | .sst x => Sys2Proof.Machine.execSst x s
  | .braidSet x => Sys2Proof.Machine.execBraidSet x s
  | .wait x => Sys2Proof.Machine.execWait x s
  | .waitPeek x => Sys2Proof.Machine.execWaitPeek x s
  | .signal x => Sys2Proof.Machine.execSignal x s
  | .signalSet x => Sys2Proof.Machine.execSignalSet x s
  | .pin x => Sys2Proof.Machine.execPin x s
  | .unpin x => Sys2Proof.Machine.execUnpin x s
  | .step x => Sys2Proof.Machine.execStep x s
  | .fence x => Sys2Proof.Machine.execFence x s
  | .mmaF x => Sys2Proof.Machine.execMmaF x s
  | .mmaX x => Sys2Proof.Machine.execMmaX x s
  | .waveCommit t errs chkErr => Sys2Proof.Machine.execWaveCommit t errs chkErr s
  | .mmaComplete t => Sys2Proof.Machine.execMmaComplete t s
  | .arrayGrant t => Sys2Proof.Machine.execArrayGrant t s
  | .accZero x => Sys2Proof.Machine.execAccZero x s
  | .accOut x => Sys2Proof.Machine.execAccOut x s
  | .accMerge x => Sys2Proof.Machine.execAccMerge x s
  | .accAcq x => Sys2Proof.Machine.execAccAcq x s
  | .accRel x => Sys2Proof.Machine.execAccRel x s
  | .expscan x => Sys2Proof.Machine.execExpscan x s
  | .vfp x => Sys2Proof.Machine.execVfp x s
  | .vfma x => Sys2Proof.Machine.execVfma x s
  | .vfun x => Sys2Proof.Machine.execVfun x s
  | .vint x => Sys2Proof.Machine.execVint x s
  | .vcmp x => Sys2Proof.Machine.execVcmp x s
  | .vsel x => Sys2Proof.Machine.execVsel x s
  | .vbcast x => Sys2Proof.Machine.execVbcast x s
  | .viota x => Sys2Proof.Machine.execViota x s
  | .vext x => Sys2Proof.Machine.execVext x s
  | .vred x => Sys2Proof.Machine.execVred x s
  | .vcvt x => Sys2Proof.Machine.execVcvt x s
  | .vld x => Sys2Proof.Machine.execVld x s
  | .vst x => Sys2Proof.Machine.execVst x s
  | .vlds x => Sys2Proof.Machine.execVlds x s
  | .vsts x => Sys2Proof.Machine.execVsts x s
  | .copyIn x => Sys2Proof.Machine.execCopyIn x s
  | .copyOut x => Sys2Proof.Machine.execCopyOut x s
  | .copyTt x => Sys2Proof.Machine.execCopyTt x s
  | .copyComplete t k hw => Sys2Proof.Machine.execCopyComplete t k hw s
  | .gather x => Sys2Proof.Machine.execGather x s
  | .gatherComplete op => Sys2Proof.Machine.execGatherComplete op s
  | .deferredFault t => Sys2Proof.Machine.execDeferredFault t s
  | .brewOpen x => Sys2Proof.Machine.execBrewOpen x s
  | .brewPour x => Sys2Proof.Machine.execBrewPour x s
  | .brewAbort x => Sys2Proof.Machine.execBrewAbort x s
  | .brewCommit t st => Sys2Proof.Machine.execBrewCommit t st s
  | .brewWritebackDone o => Sys2Proof.Machine.execBrewWritebackDone o s
  | .brewConflictSpill t st => Sys2Proof.Machine.execBrewConflictSpill t st s
  | .brewSpillTimeout t st => Sys2Proof.Machine.execBrewSpillTimeout t st s
  | .clIssue x => Sys2Proof.Machine.execClIssue x s
  | .upIssue x => Sys2Proof.Machine.execUpIssue x s
  | .signalArrive k => Sys2Proof.Machine.execSignalArrive k s
  | .healthFlushArrive t => Sys2Proof.Machine.execHealthFlushArrive t s
  | .stepClose p => Sys2Proof.Machine.execStepClose p s
  | .blendDecide p => Sys2Proof.Machine.execBlendDecide p s
  | .updateShardStart die l dir hw => Sys2Proof.Machine.execUpdateShardStart die l dir hw s
  | .updateSliceCommit die l slot hw lockstep => Sys2Proof.Machine.execUpdateSliceCommit die l slot hw lockstep s
  | .engineBrewRetry die l slot => Sys2Proof.Machine.execEngineBrewRetry die l slot s
  | .updateShardComplete die l hw => Sys2Proof.Machine.execUpdateShardComplete die l hw s
  | .pinWait die l => Sys2Proof.Machine.execPinWait die l s
  | .guardReduceComplete op => Sys2Proof.Machine.execGuardReduceComplete op s
  | .digestExchange die l dir => Sys2Proof.Machine.execDigestExchange die l dir s
  | .collectiveMessageReceive port p m pairErr => Sys2Proof.Machine.execCollectiveMessageReceive port p m pairErr s
  | .clAbortReceive port p m => Sys2Proof.Machine.execClAbortReceive port p m s
  | .collectiveComplete op => Sys2Proof.Machine.execCollectiveComplete op s
  | .collectiveResend port k => Sys2Proof.Machine.execCollectiveResend port k s
  | .peerLostTimeout op => Sys2Proof.Machine.execPeerLostTimeout op s
  | .clStall port vc p => Sys2Proof.Machine.execClStall port vc p s
  | .kneadShardMove op move => Sys2Proof.Machine.execKneadShardMove op move s
  | .refereeReplay t result selfFail => Sys2Proof.Machine.execRefereeReplay t result selfFail s
  | .refereeWaitTimeout t => Sys2Proof.Machine.execRefereeWaitTimeout t s
  | .benchMove die m => Sys2Proof.Machine.execBenchMove die m s
  | .rotationMigration die => Sys2Proof.Machine.execRotationMigration die s
  | .migrationSkip die => Sys2Proof.Machine.execMigrationSkip die s
  | .migrationComplete t tallyOk => Sys2Proof.Machine.execMigrationComplete t tallyOk s
  | .provingSegmentEnd die m signature dmPassed fault => Sys2Proof.Machine.execProvingSegmentEnd die m signature dmPassed fault s
  | .provingRunEnd die m => Sys2Proof.Machine.execProvingRunEnd die m s
  | .ovenTargetReached die m dt => Sys2Proof.Machine.execOvenTargetReached die m dt s
  | .windowProve die sigs fault => Sys2Proof.Machine.execWindowProve die sigs fault s
  | .localisationRun die m row col => Sys2Proof.Machine.execLocalisationRun die m row col s
  | .fuseWritten die x => Sys2Proof.Machine.execFuseWritten die x s
  | .linkMarginCheck u eye trainEye => Sys2Proof.Machine.execLinkMarginCheck u eye trainEye s
  | .tileSelfTest die failing => Sys2Proof.Machine.execTileSelfTest die failing s
  | .tileRelease die => Sys2Proof.Machine.execTileRelease die s
  | .scrubLine stack badSymbols => Sys2Proof.Machine.execScrubLine stack badSymbols s
  | .rowRepair stack row uncorr => Sys2Proof.Machine.execRowRepair stack row uncorr s
  | .pitchApply stack g => Sys2Proof.Machine.execPitchApply stack g s
  | .hostCompletionReceive p tag ok data => Sys2Proof.Machine.execHostCompletionReceive p tag ok data s
  | .hostDmaTimeout p tag => Sys2Proof.Machine.execHostDmaTimeout p tag s
  | .boardRequestReceive port r => Sys2Proof.Machine.execBoardRequestReceive port r s
  | .boardResponseReceive port tag refused data => Sys2Proof.Machine.execBoardResponseReceive port tag refused data s
  | .boardNoRoute tag => Sys2Proof.Machine.execBoardNoRoute tag s
  | .flitTransmit n => Sys2Proof.Machine.execFlitTransmit n s
  | .flitDataReceive n f => Sys2Proof.Machine.execFlitDataReceive n f s
  | .flitIdleReceive n f => Sys2Proof.Machine.execFlitIdleReceive n f s
  | .flitHelloReceive n f => Sys2Proof.Machine.execFlitHelloReceive n f s
  | .flitNakReceive n f lanes codewords => Sys2Proof.Machine.execFlitNakReceive n f lanes codewords s
  | .flitDarkReceive n f => Sys2Proof.Machine.execFlitDarkReceive n f s
  | .nakRepeat n => Sys2Proof.Machine.execNakRepeat n s
  | .ackTimer n => Sys2Proof.Machine.execAckTimer n s
  | .helloTimer n => Sys2Proof.Machine.execHelloTimer n s
  | .helloTimeout n => Sys2Proof.Machine.execHelloTimeout n s
  | .trainingComplete n signal ok lanesOk => Sys2Proof.Machine.execTrainingComplete n signal ok lanesOk s
  | .downRetryTimer n => Sys2Proof.Machine.execDownRetryTimer n s
  | .laneEvalWindow n lanes codewords => Sys2Proof.Machine.execLaneEvalWindow n lanes codewords s
  | .laneLossOfLock n lane => Sys2Proof.Machine.execLaneLossOfLock n lane s
  | .retrainComplete n signal ok lanesOk => Sys2Proof.Machine.execRetrainComplete n signal ok lanesOk s
  | .linkLoss n => Sys2Proof.Machine.execLinkLoss n s
  | .linkHoldExpiry n => Sys2Proof.Machine.execLinkHoldExpiry n s
  | .dark h mask => Sys2Proof.Machine.execDark h mask s
  | .darkEntered n => Sys2Proof.Machine.execDarkEntered n s
  | .relight h mask => Sys2Proof.Machine.execRelight h mask s
  | .peerTrainingSignal n => Sys2Proof.Machine.execPeerTrainingSignal n s
  | .darkTimeout n => Sys2Proof.Machine.execDarkTimeout n s
  | .linkQuality n => Sys2Proof.Machine.execLinkQuality n s
  | .anchorLossOfLock n => Sys2Proof.Machine.execAnchorLossOfLock n s
  | .d2dFrameReceive die k f => Sys2Proof.Machine.execD2dFrameReceive die k f s
  | .d2dNakReceive die k ack => Sys2Proof.Machine.execD2dNakReceive die k ack s
  | .d2dRetrain die k txFail rxFail => Sys2Proof.Machine.execD2dRetrain die k txFail rxFail s
  | .leaseRenew h mask => Sys2Proof.Machine.execLeaseRenew h mask s
  | .leaseRelease h mask => Sys2Proof.Machine.execLeaseRelease h mask s
  | .leaseExpiry p => Sys2Proof.Machine.execLeaseExpiry p s
  | .orphanStallTimeout t st => Sys2Proof.Machine.execOrphanStallTimeout t st s
  | .start h loaf st entry step => Sys2Proof.Machine.execStart h loaf st entry step s
  | .stop h loaf streams => Sys2Proof.Machine.execStop h loaf streams s
  | .park h => Sys2Proof.Machine.execPark h s
  | .idleClear h loaf step => Sys2Proof.Machine.execIdleClear h loaf step s
  | .pinClear h tensor first count => Sys2Proof.Machine.execPinClear h tensor first count s
  | .partSet h a => Sys2Proof.Machine.execPartSet h a s
  | .partAdd h change tiles grans pairs => Sys2Proof.Machine.execPartAdd h change tiles grans pairs s
  | .partRemove h change tiles grans pairs => Sys2Proof.Machine.execPartRemove h change tiles grans pairs s
  | .partUnitSwitch p u => Sys2Proof.Machine.execPartUnitSwitch p u s
  | .pitchSet h stack g code => Sys2Proof.Machine.execPitchSet h stack g code s
  | .loafWrite h entries => Sys2Proof.Machine.execLoafWrite h entries s
  | .loafDelete h index => Sys2Proof.Machine.execLoafDelete h index s
  | .hwinWrite h w w0 w1 => Sys2Proof.Machine.execHwinWrite h w w0 w1 s
  | .bar2Map h k word => Sys2Proof.Machine.execBar2Map h k word s
  | .jbaseWrite h word => Sys2Proof.Machine.execJbaseWrite h word s
  | .slotWrite h entries => Sys2Proof.Machine.execSlotWrite h entries s
  | .rowWrite h rows => Sys2Proof.Machine.execRowWrite h rows s
  | .pctrlWrite h word => Sys2Proof.Machine.execPctrlWrite h word s
  | .shardDefine h die l entry w0 w1 w2 w3 w4 w7 => Sys2Proof.Machine.execShardDefine h die l entry w0 w1 w2 w3 w4 w7 s
  | .shardDelete h die l entry => Sys2Proof.Machine.execShardDelete h die l entry s
  | .rollback h tensor shards => Sys2Proof.Machine.execRollback h tensor shards s
  | .digctrlWrite h d action => Sys2Proof.Machine.execDigctrlWrite h d action s
  | .jobStart h map seed regions => Sys2Proof.Machine.execJobStart h map seed regions s
  | .jobEnd h => Sys2Proof.Machine.execJobEnd h s
  | .mapStage h map => Sys2Proof.Machine.execMapStage h map s
  | .groupWrite h g valid cuts => Sys2Proof.Machine.execGroupWrite h g valid cuts s
  | .planWrite h port w0 w1 => Sys2Proof.Machine.execPlanWrite h port w0 w1 s
  | .planctlWrite h word => Sys2Proof.Machine.execPlanctlWrite h word s
  | .brouteWrite h index mask => Sys2Proof.Machine.execBrouteWrite h index mask s
  | .portCntClear h mask => Sys2Proof.Machine.execPortCntClear h mask s
  | .portReset h mask => Sys2Proof.Machine.execPortReset h mask s
  | .portUnfence h mask => Sys2Proof.Machine.execPortUnfence h mask s
  | .provingCtrl h die rotEn windowEn ovenMax => Sys2Proof.Machine.execProvingCtrl h die rotEn windowEn ovenMax s
  | .maintenanceEnter h stack => Sys2Proof.Machine.execMaintenanceEnter h stack s
  | .maintenanceLeave h stack => Sys2Proof.Machine.execMaintenanceLeave h stack s
  | .packOffer h xfer len hash => Sys2Proof.Machine.execPackOffer h xfer len hash s
  | .packChunk h xfer off bytes => Sys2Proof.Machine.execPackChunk h xfer off bytes s
  | .packDone h xfer => Sys2Proof.Machine.execPackDone h xfer s
  | .packAckTimer => Sys2Proof.Machine.execPackAckTimer s
  | .packTransferTimeout => Sys2Proof.Machine.execPackTransferTimeout s
  | .challenge h => Sys2Proof.Machine.execChallenge h s
  | .nonceExpiry k => Sys2Proof.Machine.execNonceExpiry k s
  | .identity h => Sys2Proof.Machine.execIdentity h s
  | .mrRead h log fromCtr => Sys2Proof.Machine.execMrRead h log fromCtr s
  | .mrExtend h reg digest => Sys2Proof.Machine.execMrExtend h reg digest s
  | .attest h nonce mask => Sys2Proof.Machine.execAttest h nonce mask s
  | .certRead h epoch => Sys2Proof.Machine.execCertRead h epoch s
  | .configWrite h block => Sys2Proof.Machine.execConfigWrite h block s
  | .enrollOwner h => Sys2Proof.Machine.execEnrollOwner h s
  | .keyRevoke h k signer pub stmt sig => Sys2Proof.Machine.execKeyRevoke h k signer pub stmt sig s
  | .imageOffer h xfer len hash => Sys2Proof.Machine.execImageOffer h xfer len hash s
  | .imageChunk h xfer off bytes => Sys2Proof.Machine.execImageChunk h xfer off bytes s
  | .imageDone h xfer => Sys2Proof.Machine.execImageDone h xfer s
  | .handoff h => Sys2Proof.Machine.execHandoff h s
  | .handoffAccept knownSections crcOk => Sys2Proof.Machine.execHandoffAccept knownSections crcOk s
  | .handoffTimeout => Sys2Proof.Machine.execHandoffTimeout s
  | .deviceSlotReturn p slot => Sys2Proof.Machine.execDeviceSlotReturn p slot s
  | .evtNext p => Sys2Proof.Machine.execEvtNext p s
  | .apertureRead p off bytes => Sys2Proof.Machine.execApertureRead p off bytes s
  | .apertureWrite p off => Sys2Proof.Machine.execApertureWrite p off s
  | .bar2Read p off len => Sys2Proof.Machine.execBar2Read p off len s
  | .bar2Write p off bytes => Sys2Proof.Machine.execBar2Write p off bytes s
  | .pcieConfigRequest p write reg => Sys2Proof.Machine.execPcieConfigRequest p write reg s
  | .flr p => Sys2Proof.Machine.execFlr p s
  | .hotReset p => Sys2Proof.Machine.execHotReset p s
  | .hostLinkDown p => Sys2Proof.Machine.execHostLinkDown p s
  | .registerWrite r val => Sys2Proof.Machine.execRegisterWrite r val s
  | .crumbFetch first count => Sys2Proof.Machine.execCrumbFetch first count s
  | .crumbRead bytes => Sys2Proof.Machine.execCrumbRead bytes s
  | .ibiRepeat => Sys2Proof.Machine.execIbiRepeat s
  | .crumbFlashWrite => Sys2Proof.Machine.execCrumbFlashWrite s
  | .crumbCoalesceWindow syn u => Sys2Proof.Machine.execCrumbCoalesceWindow syn u s
  | .errorRecordHandle fatal => Sys2Proof.Machine.execErrorRecordHandle fatal s
  | .entdaa addr => Sys2Proof.Machine.execEntdaa addr s
  | .setdasa addr => Sys2Proof.Machine.execSetdasa addr s
  | .rstdaa => Sys2Proof.Machine.execRstdaa s
  | .enec events => Sys2Proof.Machine.execEnec events s
  | .disec events => Sys2Proof.Machine.execDisec events s
  | .getpid => Sys2Proof.Machine.execGetpid s
  | .getbcr => Sys2Proof.Machine.execGetbcr s
  | .getdcr => Sys2Proof.Machine.execGetdcr s
  | .getstatus => Sys2Proof.Machine.execGetstatus s
  | .getmxds => Sys2Proof.Machine.execGetmxds s
  | .alertResponse => Sys2Proof.Machine.execAlertResponse s
  | .sleep => Sys2Proof.Machine.execSleep s
  | .sleepEntry => Sys2Proof.Machine.execSleepEntry s
  | .sleepAbandon => Sys2Proof.Machine.execSleepAbandon s
  | .deep => Sys2Proof.Machine.execDeep s
  | .deepEntry => Sys2Proof.Machine.execDeepEntry s
  | .deepAbandon => Sys2Proof.Machine.execDeepAbandon s
  | .wake => Sys2Proof.Machine.execWake s
  | .deepExitComplete failing => Sys2Proof.Machine.execDeepExitComplete failing s
  | .warmReset => Sys2Proof.Machine.execWarmReset s
  | .managementWatchdog => Sys2Proof.Machine.execManagementWatchdog s
  | .journalReplay unreadable => Sys2Proof.Machine.execJournalReplay unreadable s
  | .coldReset => Sys2Proof.Machine.execColdReset s
  | .vauxPowerOn => Sys2Proof.Machine.execVauxPowerOn s
  | .pkgRstNAssert => Sys2Proof.Machine.execPkgRstNAssert s
  | .pkgRstNDeassert slot unstable => Sys2Proof.Machine.execPkgRstNDeassert slot unstable s
  | .railsGood => Sys2Proof.Machine.execRailsGood s
  | .firstStageStart flashErrA flashErrB failed => Sys2Proof.Machine.execFirstStageStart flashErrA flashErrB failed s
  | .firmwareReady => Sys2Proof.Machine.execFirmwareReady s
  | .perstAssert p => Sys2Proof.Machine.execPerstAssert p s
  | .perstDeassert p refKHz => Sys2Proof.Machine.execPerstDeassert p refKHz s
  | .trstNAssert => Sys2Proof.Machine.execTrstNAssert s
  | .boardSlotChange level near => Sys2Proof.Machine.execBoardSlotChange level near s
  | .inputChatter x => Sys2Proof.Machine.execInputChatter x s
  | .chatterReleased x => Sys2Proof.Machine.execChatterReleased x s
  | .throttleAssert => Sys2Proof.Machine.execThrottleAssert s
  | .throttleRelease heldMs => Sys2Proof.Machine.execThrottleRelease heldMs s
  | .throttleHeldTimer => Sys2Proof.Machine.execThrottleHeldTimer s
  | .vinLow => Sys2Proof.Machine.execVinLow s
  | .vinLowEnd heldMs => Sys2Proof.Machine.execVinLowEnd heldMs s
  | .railReset cause => Sys2Proof.Machine.execRailReset cause s
  | .overcurrentClamp => Sys2Proof.Machine.execOvercurrentClamp s
  | .overcurrentHoldEnd => Sys2Proof.Machine.execOvercurrentHoldEnd s
  | .powerLoopStep mean1ms mean100us => Sys2Proof.Machine.execPowerLoopStep mean1ms mean100us s
  | .paceWindow => Sys2Proof.Machine.execPaceWindow s
  | .thermalPaceStep die m tj => Sys2Proof.Machine.execThermalPaceStep die m tj s
  | .thermalWithdrawStep die col tjs => Sys2Proof.Machine.execThermalWithdrawStep die col tjs s
  | .pwrThermtrip die m tj => Sys2Proof.Machine.execPwrThermtrip die m tj s
  | .thermalShutdown die m tj => Sys2Proof.Machine.execThermalShutdown die m tj s
  | .oeHot k temp => Sys2Proof.Machine.execOeHot k temp s
  | .telemUpdate vinMv vinDa vauxMv vauxMa pinW => Sys2Proof.Machine.execTelemUpdate vinMv vinDa vauxMv vauxMa pinW s
  | .laserLit k input power => Sys2Proof.Machine.execLaserLit k input power s
  | .laserDark k input power => Sys2Proof.Machine.execLaserDark k input power s
  | .crystalEdgeMissing rcCycles => Sys2Proof.Machine.execCrystalEdgeMissing rcCycles s
  | .crystalStable rcCycles => Sys2Proof.Machine.execCrystalStable rcCycles s
  | .clkXtalFail => Sys2Proof.Machine.execClkXtalFail s
  | .pllLock pll => Sys2Proof.Machine.execPllLock pll s
  | .clkXtalLost => Sys2Proof.Machine.execClkXtalLost s
  | .holdoverEnd => Sys2Proof.Machine.execHoldoverEnd s
  | .clkPllUnlock pll => Sys2Proof.Machine.execClkPllUnlock pll s
  | .referenceTick die => Sys2Proof.Machine.execReferenceTick die s
  | .illegal x opcode => Sys2Proof.Machine.execIllegal x opcode s
  | .badType h type => Sys2Proof.Machine.execBadType h type s
  | .hostLinkUp p width => Sys2Proof.Machine.execHostLinkUp p width s
  | .clockGate die unit => Sys2Proof.Machine.execClockGate die unit s
  | .autoNegotiation sgmii => Sys2Proof.Machine.execAutoNegotiation sgmii s
  | .tck tms tdi => Sys2Proof.Machine.execTck tms tdi s

end Sys2Proof.Machine
end

