-- ==== Sys2Proof/Safety.lean ====
section
/-! DEFINITION. The terms statements about the package are written in: when an instruction runs at its issue, what an instruction may leave
changed, when a message passes the checks of Table 14-9, and the canonical form of package memory. -/

namespace Sys2Proof.Machine

/-! ## Canonical memory -/

/-- Package memory is in its canonical form: addresses rising, no entry equal to what an unlisted address reads as. -/
abbrev State.memoryWf (s : State) : Prop := Map.wf 0 s.mem = true

/-! ## Instructions at issue -/

/-- The instruction of `i` runs: its tile exists, nothing holds it back, no fault and no spill is met, its guard is true, no stop is due to its
stream, and its fetch buffer lacks no block that it can fetch (what a fetch does first is said once, of every issue). -/
structure Runs (i : Issue) (g : Needs) (s : State) : Prop where
  held : s.missing i.tile i.stream = []
  tile : i.tile < nTiles
  run  : verdict i g s = .run
  go   : (s.streamAt i.tile i.stream).halt = none

/-- The stream of an instruction that has issued, before its own effect: the next PC, the fetch buffer's block (R152). -/
def Stream.issued (x : Stream) : Stream := { x.advance with fetchBuf := touchFetch x.fetchBuf x.pc.toNat }

/-- A stream without its brew log. -/
def Stream.noBrew (x : Stream) : Stream := { x with brew := {} }

/-- The issuing stream of `t`, but for its brew log, is `x`; the brew log is the one of `s` where no brew is open. -/
def StreamIs (i : Issue) (s t : State) (x : Stream) : Prop :=
  (t.streamAt i.tile i.stream).noBrew = x.noBrew ∧
    ((s.streamAt i.tile i.stream).brew.phase ≠ .open_ → (t.streamAt i.tile i.stream).brew = x.brew)

/-- A physical tile without LS_CORR and the vector unit's check counters (R44, R334). -/
def PTile.core (p : PTile) : PTile := { p with lsCorr := 0, vxCount := 0, laneSince := [] }

/-- The state without its logical and physical tiles. -/
def State.bare (s : State) : State := { s with tile := [], ptile := [] }

/-- Only tile `n`, and counters of physical tiles, may differ: memory, partitions, every other tile, the queue, the outbox stand. -/
def SameOutside (n : Nat) (s t : State) : Prop :=
  t.bare = s.bare ∧ (∀ m, m ≠ n → t.tileAt m = s.tileAt m) ∧
    ∀ m, (t.ptileAt m).core = (s.ptileAt m).core

/-- The tile without its streams and its statistics (TILE_XHAZ, TILE_SB, BRW_POOL). -/
def Tile.core (t : Tile) : Tile := { t with str := [], xhaz := 0, sbHwm := 0, granHwm := 0, linesHwm := 0, rlinesHwm := 0 }

/-- The tile without its vector registers, and without its local store. -/
def Tile.noVectors (t : Tile) : Tile := { t.core with vreg := [] }
def Tile.noStore (t : Tile) : Tile := { t.core with ls := [], lsBad := [] }

/-- The tile without its signal counters and the waits on them; without its scoreboard; without its accumulator banks. -/
def Tile.noCounters (t : Tile) : Tile := { t.core with sc := [], waits := [] }
def Tile.noSb (t : Tile) : Tile := { t.core with sb := [] }
def Tile.noBanks (t : Tile) : Tile := { t.core with bank := [] }

/-- A stream with the conflict mark of its brew cleared: a write to the tile by another agent may set that mark and nothing else (R213). -/
def Stream.calm (x : Stream) : Stream := { x with brew := { x.brew with conflict := false } }

/-- No other stream of the tile changes, but for a conflict mark on its brew. -/
def OthersCalm (i : Issue) (s t : State) : Prop :=
  ∀ st, st ≠ i.stream → (t.streamAt i.tile st).calm = (s.streamAt i.tile st).calm

/-- The issue changed its own stream and statistics alone: no other stream of the tile, no vector register, local-store byte, bank, counter, queue. -/
def OnlyOwnStream (i : Issue) (s t : State) : Prop :=
  SameOutside i.tile s t ∧ (t.tileAt i.tile).core = (s.tileAt i.tile).core ∧
    ∀ st, st ≠ i.stream → t.streamAt i.tile st = s.streamAt i.tile st

/-- The issue changed, beside its own stream and statistics, vector registers of its tile alone. -/
def OnlyVectors (i : Issue) (s t : State) : Prop :=
  SameOutside i.tile s t ∧ (t.tileAt i.tile).noVectors = (s.tileAt i.tile).noVectors ∧
    ∀ st, st ≠ i.stream → t.streamAt i.tile st = s.streamAt i.tile st

/-- The issue changed, beside its own stream and statistics, local store of its tile alone. -/
def OnlyLocalStore (i : Issue) (s t : State) : Prop :=
  SameOutside i.tile s t ∧ (t.tileAt i.tile).noStore = (s.tileAt i.tile).noStore ∧
    OthersCalm i s t

/-- The bytes `off` to `off + bs.length` of local store, as the issuing stream reads them, are `bs`; every other byte reads as before. -/
def LocalStoreIs (i : Issue) (s t : State) (off : Nat) (bs : List Byte) : Prop :=
  (t.tileAt i.tile).lsRead i.stream off bs.length = bs ∧
    ∀ a, a < off ∨ off + bs.length ≤ a → (t.tileAt i.tile).lsRead i.stream a 1 = (s.tileAt i.tile).lsRead i.stream a 1

/-- Signal counter `k` of tile `n` is `c`; the tile's other counters are as before. -/
def CounterIs (n k : Nat) (c : SigCtr) (s t : State) : Prop :=
  Map.get {} (t.tileAt n).sc k = c ∧ ∀ j, j ≠ k → Map.get {} (t.tileAt n).sc j = Map.get {} (s.tileAt n).sc j

/-- The other streams of the issuing stream's tile are as before. -/
def OtherStreams (i : Issue) (s t : State) : Prop := ∀ st, st ≠ i.stream → t.streamAt i.tile st = s.streamAt i.tile st

/-- Vector register `r` of the tile holds `xs`; the others are as before. -/
def VectorIs (i : Issue) (s t : State) (r : Nat) (xs : List Lane) : Prop :=
  t.getV i r = xs ∧ ∀ q, q ≠ r → t.getV i q = s.getV i q

/-- The issue a command makes and what it needs of the machine, for the commands that are instructions. -/
def issueOf (s : State) : Instr → Option (Issue × Needs)
  | .nop i => some (i, needsNop i s) | .end_ i => some (i, needsEnd i s) | .br i => some (i, needsBr i s) | .brdec i => some (i, needsBrdec i s)
  | .ldi i => some (i, needsLdi i s) | .salu i => some (i, needsSalu i s) | .scmp i => some (i, needsScmp i s) | .plog i => some (i, needsPlog i s)
  | .sget i => some (i, needsSget i s) | .sld i => some (i, needsSld i s) | .sst i => some (i, needsSst i s)
  | .braidSet i => some (i, needsBraidSet i s) | .wait i => some (i, needsWaitOf false i s) | .waitPeek i => some (i, needsWaitOf true i s)
  | .signal i => some (i, needsSignal i s) | .signalSet i => some (i, needsSignalSet i s) | .pin i => some (i, needsPin i s)
  | .unpin i => some (i, needsUnpin i s) | .step i => some (i, needsStep i s) | .fence i => some (i, needsFence i s)
  | .mmaF i => some (i, needsMma i s) | .mmaX i => some (i, needsMma i s) | .accZero i => some (i, needsAccZero i s)
  | .accMerge i => some (i, needsAccMerge i s) | .accAcq i => some (i, needsAccOwn i s) | .accRel i => some (i, needsAccRel i s)
  | .expscan i => some (i, needsExpscan i s) | .vfp i => some (i, needsVfp i s) | .vfma i => some (i, needsVfma i s)
  | .vfun i => some (i, needsVfun i s) | .vint i => some (i, needsVint i s) | .vcmp i => some (i, needsVcmp i s) | .vsel i => some (i, needsVsel i s)
  | .vbcast i => some (i, needsVs i s) | .viota i => some (i, needsVs i s) | .vext i => some (i, needsVext i s) | .vred i => some (i, needsVred i s)
  | .vcvt i => some (i, needsVcvt i s) | .vld i => some (i, needsVld i s) | .vst i => some (i, needsVst i s) | .vlds i => some (i, needsVlds i s)
  | .vsts i => some (i, needsVsts i s) | .copyIn i => some (i, needsCopy .in_ i s) | .copyOut i => some (i, needsCopy .out i s)
  | .copyTt i => some (i, needsCopy .tt i s) | .gather i => some (i, needsGather i s) | .brewOpen i => some (i, needsBrewOpen i s)
  | .brewPour i => some (i, needsBrewPour i s) | .brewAbort i => some (i, needsBrewAbort i s) | .clIssue i => some (i, needsClIssue i s)
  | .upIssue i => some (i, needsUpIssue i s)
  | .accOut i => some (i, needsAccOut i s)
  | _ => none

/-- The instructions R175 calls fence instructions. -/
def isFenceInstr : Instr → Bool
  | .step _ | .fence _ | .pin _ | .unpin _ | .gather _ | .clIssue _ | .upIssue _ | .end_ _ => true
  | _ => false

/-! ## Copies, brews, engine issues -/

/-- A copy as its instruction asks for it, before anything of it is outstanding or has arrived. -/
def Copy.asked (c : Copy) : Copy := { c with await := [], todo := [], arrived := [], after := [] }

/-- The copy may move its data now: it waits for nothing, its health events find room, and its open brew has neither a staged word that fails nor a
limit in its way (R104, R211, R218). -/
structure CopyDue (n : Nat) (c : Copy) (hw : Hw) (s : State) : Prop where
  ready  : s.copyReady n c = true
  counts : s.countStalls n c = false
  sound  : s.stagedBad n c hw = false
  room   : c.inBrew = true → s.brewOver n c.stream (c.stages n) = false

/-- The tile without its queue of copies and its scoreboard; without its queue of copies. -/
def Tile.noCopies (t : Tile) : Tile := { t.core with copyQ := [], sb := [] }
def Tile.noQueue (t : Tile) : Tile := { t with copyQ := [] }

/-- A tile's vector registers, banks, signal counters and waits on them stand. -/
def SameUnits (t u : Tile) : Prop := u.vreg = t.vreg ∧ u.bank = t.bank ∧ u.sc = t.sc ∧ u.waits = t.waits

/-- The open brew of stream `st` has spilled with a code and a user code (R174, R214): status word, resume point, nothing staged left, its locks gone;
nothing it staged has reached local store or memory. -/
def Spilled (n : Nat) (st : StreamId) (code user : Nat) (s t : State) : Prop :=
  let b := (s.streamAt n st).brew
  let x := t.streamAt n st
  x.brew.phase = .idle ∧ x.brew.depth = 0 ∧ x.brew.lsBytes = [] ∧ x.brew.extBytes = [] ∧ x.brew.held = [] ∧ x.pc = b.resume ∧ x.waiting = false ∧
    (1 ≤ b.statusReg → b.statusReg ≤ 11 → x.readS b.statusReg = BitVec.ofNat 64 (256 * user + code)) ∧
    (∀ r, r ≠ b.statusReg → x.readS r = (s.streamAt n st).readS r) ∧ x.tstat.openPc = b.openPc ∧ x.tstat.code = BitVec.ofNat 8 code ∧
    (t.tileAt n).ls = (s.tileAt n).ls ∧ t.mem = s.mem ∧ (∀ l ∈ t.locks, l.2 ≠ (n, st.code)) ∧
    Map.get 0 (t.tileAt n).brwCnt (8 * st.code + code) = satAdd max48 (Map.get 0 (s.tileAt n).brwCnt (8 * st.code + code))

/-! ## Messages -/

/-- The state a message's own rule sees: the package woken (R433), the sender's nonce spent (R401). -/
def State.taken (s : State) (h : MsgHdr) : State :=
  match h.src, h.trailer with
  | .mgmt, some t => { s.wakeFor h with fw := { (s.wakeFor h).fw with nonces := (s.wakeFor h).fw.nonces.filter fun x => decide (x ≠ t.nonce) } }
  | _, _ => s.wakeFor h

/-- A message passes the checks of Table 14-9 and reaches its own rule. -/
structure Passes (h : MsgHdr) (type : BitVec 16) (r : Right) (s : State) : Prop where
  ready  : s.fw.ready = true
  noHand : s.fw.handoff = false
  major  : h.major = 1
  crc    : h.crc = crc32c (crcBytes h type)
  limit  : h.length.toNat ≤ s.payloadLimit h.src
  length : h.length.toNat = h.payload.length
  auth   : h.src = .mgmt → needsTrailer type r = true → s.trailerOk h type = true
  right  : (s.taken h).permits h r = true
  i3c    : h.src = .i3c → i3cTakes type = true

/-! ## Ports, modules -/

/-- The state without its fabric ports. -/
def State.noPorts (s : State) : State := { s with port := [] }

/-- Only port `n` of the package may differ. -/
def OnlyPort (n : Nat) (s t : State) : Prop := t.noPorts = s.noPorts ∧ ∀ m, m ≠ n → t.portAt m = s.portAt m

/-- The cumulative acknowledgement and the credit return of a header are taken (R264, R271): every held flit up to ACK is released, the VC named has
its credits. -/
def AckTaken (q x : Port) (h : BitVec 96) : Prop :=
  (hdrAckv h = false → x.held = q.held) ∧
    (hdrAckv h = true → (∀ y ∈ q.held, y.1 ≠ hdrAck h) → x.held = q.held) ∧
    (∀ a b f, hdrAckv h = true → q.held = a ++ (hdrAck h, f) :: b → (∀ y ∈ a, y.1 ≠ hdrAck h) → x.held = b) ∧
    ∀ v, Map.get 0 x.credits v = if v = hdrCvc h then Map.get 0 q.credits v + hdrCredit h else Map.get 0 q.credits v

/-! ## Messages that are answered -/

/-- The message is answered with a status and data, and leaves `t`, but for the answer. -/
def Answers (c : Instr) (h : MsgHdr) (type : BitVec 16) (st : Nat) (data : List Byte) (s t : State) : Prop :=
  exec c s = .next (t.respond h type st data)

/-- An event reaches a host port of `vector` (R367, R369): with room in its queue it stands there or has left for a slot. -/
def Told (p : HostPort) (vector : Nat) (e : Ev) (s t : State) : Prop :=
  (s.hostAt p.idx).evtQ.length < 255 → (vector, e) ∈ (t.hostAt p.idx).evtQ ∨ Out.event p vector e ∈ t.outbox

/-! ## Power -/

/-- Every port that deep sleep took dark has light at its laser input. -/
def State.deepLit (s : State) : Prop := ∀ n, n < 64 → (s.portAt n).deepDark = true → (s.portAt n).state = .dark → s.litAt n = true

/-- No port is dark for deep sleep any more: one that was in DARK for it trains where its input has light, else is DOWN (R261, R293). -/
def Relit (s t : State) : Prop :=
  ∀ n, n < 64 → (t.portAt n).deepDark = false ∧
    ((s.portAt n).deepDark = true → (s.portAt n).state = .dark → (t.portAt n).state = if s.litAt n then .train else .down)

/-- The proving runs that waited for the end of sleep go on (R433); nothing else of a physical tile changes. -/
def RunsGoOn (s t : State) : Prop :=
  ∀ g, t.ptileAt g = { s.ptileAt g with run := (s.ptileAt g).run.map fun r => { r with paused := false } }

/-! ## Orphans -/

/-- Partition `p` has lost its owner (R379): its lease is off, and each of its running streams stops as the policy says: under PARK at once outside a
brew and after it otherwise, under the others after one STEP or ORPHAN_N; with no stream left the partition is PARKED. -/
def Orphaned (p : Nat) (s t : State) : Prop :=
  let q := s.partAt p
  ((t.partAt p).state = .orphan ∨ (t.partAt p).state = .parked) ∧ (t.partAt p).leaseOn = false ∧ (t.partAt p).leaseLeft = 0 ∧ t.mem = s.mem ∧
    (s.runningOf p = [] → (t.partAt p).state = .parked) ∧
    ∀ n st, (s.streamAt n st).run = true → (s.streamAt n st).part = p →
      (q.orphan = 1 → (s.streamAt n st).brew.phase = .idle → (t.streamAt n st).run = false) ∧
      (q.orphan = 1 → (s.streamAt n st).brew.phase ≠ .idle →
        (t.streamAt n st).run = true ∧ (t.streamAt n st).halt = some { reason := 3, safe := true }) ∧
      (q.orphan ≠ 1 → (s.streamAt n st).halt = none →
        (t.streamAt n st).run = true ∧
          (t.streamAt n st).halt = some { reason := 3, safe := true, steps := some (if q.orphan = 2 then q.orphanN.toNat else 1) })

/-! ## Staged tables -/

/-- Changes of partition `p` are staged with effective step `e`: they wait while a step is open, and nothing else of the partition changes (R115). -/
def StagedIn (p : Nat) (e : BitVec 32) (xs : List Staged) (s t : State) : Prop :=
  t.mem = s.mem ∧ (∀ k, k ≠ p → t.partAt k = s.partAt k) ∧
    ((s.partAt p).stepOpen = true → t.partAt p = { s.partAt p with staged := (s.partAt p).staged ++ xs.map fun x => (e, x) })

/-- The message of partition `p` is LATE at step `e`: a step is open and `e` is at or below the oldest (R115). -/
def LateAt (p : Nat) (e : BitVec 32) (s : State) : Prop := (s.partAt p).stepOpen = true ∧ e.toNat ≤ (s.partAt p).oldest

/-! ## Transfers -/

/-- A transfer message reaches its own rule: on the management port at READY outside a handoff window, elsewhere as a message (R358). -/
def TakesXfer (h : MsgHdr) (type : BitVec 16) (s : State) : Prop :=
  if h.src = .mgmt then s.fw.ready = true ∧ s.fw.handoff = false else Passes h type .pack s

/-- The state the rule of a transfer message sees. -/
def State.xferTaken (s : State) (h : MsgHdr) : State := if h.src = .mgmt then s else s.taken h

/-- The transfer message leaves `t`, with an answer (on the management port only where there are data). -/
def AnswersXfer (c : Instr) (h : MsgHdr) (type : BitVec 16) (data : List Byte) (s t : State) : Prop :=
  exec c s = .next (if h.src = .mgmt then (if data.isEmpty then t else t.tell .mgmt type data) else t.respond h type 0 data)

/-- A received pack passes every check of Table 13-19. -/
def PackSound (x : Xfer) (s : State) : Prop :=
  x.len ≤ 4194304 ∧ x.bytes.length ≤ 4194304 ∧ packFormatBad x.bytes = false ∧ s.packSigned x.bytes = true ∧ sha256 x.bytes = x.hash ∧
    (∀ e ∈ packEntries x.bytes, (sha256 (slice x.bytes e.off e.blen)).toNat = e.hash) ∧ packScheduleBad x.bytes = false ∧
    s.fw.pack.ver.toNat < fld x.bytes 12 4 ∧ fld x.bytes 0x14 4 ≤ s.fw.version.toNat ∧ s.packageMajor.map (·.toNat) = some (fld x.bytes 0x18 2)

/-- An image passes every check of R389 at an image transfer. -/
def ImageSound (i : ImageInfo) (s : State) : Prop :=
  i.magicOk = true ∧ s.fw.revoked.getLsbD i.keySlot.toNat = false ∧ sha256 i.pubKey = vendorHash i.keySlot.toNat ∧
    hssVerify i.pubKey i.header i.sig = true ∧ s.fw.rb ≤ i.svn ∧ i.iodLo ≤ (Config.idRev 4).1 ∧ (Config.idRev 4).1 ≤ i.iodHi ∧
    sha256 i.firstStage = i.fsHash ∧ sha256 i.firmware = i.mfHash ∧ sha256 i.data = i.dataHash

/-- The header, TYPE and right of the commands that are messages (Tables 14-10, 15-9). -/
def messageOf : Instr → Option (MsgHdr × BitVec 16 × Right)
  | .leaseRenew h _ => some (h, 0x0001, .owner) | .leaseRelease h _ => some (h, 0x0001, .owner) | .start h .. => some (h, 0x0010, .owner)
  | .stop h .. => some (h, 0x0011, .owner) | .park h => some (h, 0x0012, .owner) | .idleClear h .. => some (h, 0x0013, .owner)
  | .pinClear h .. => some (h, 0x0014, .owner) | .partSet h _ => some (h, 0x0020, .steward) | .partAdd h .. => some (h, 0x0021, .steward)
  | .partRemove h .. => some (h, 0x0022, .steward) | .pitchSet h .. => some (h, 0x0023, .steward) | .loafWrite h _ => some (h, 0x0030, .owner)
  | .loafDelete h _ => some (h, 0x0031, .owner) | .hwinWrite h .. => some (h, 0x0040, .owner) | .bar2Map h .. => some (h, 0x0041, .owner)
  | .jbaseWrite h _ => some (h, 0x0042, .owner) | .slotWrite h .. => some (h, 0x0050, .owner) | .rowWrite h .. => some (h, 0x0051, .owner)
  | .pctrlWrite h .. => some (h, 0x0052, .owner) | .shardDefine h .. => some (h, 0x0060, .owner) | .shardDelete h .. => some (h, 0x0061, .owner)
  | .rollback h .. => some (h, 0x0062, .owner) | .digctrlWrite h .. => some (h, 0x0063, .owner) | .jobStart h .. => some (h, 0x0070, .owner)
  | .jobEnd h => some (h, 0x0071, .owner) | .mapStage h .. => some (h, 0x0072, .owner) | .groupWrite h .. => some (h, 0x0073, .owner)
  | .planWrite h .. => some (h, 0x0080, .owner) | .planctlWrite h _ => some (h, 0x0081, .owner) | .brouteWrite h .. => some (h, 0x0082, .owner)
  | .portCntClear h _ => some (h, 0x0083, .owner) | .portReset h _ => some (h, 0x0084, .owner) | .portUnfence h _ => some (h, 0x0085, .owner)
  | .dark h _ => some (h, 0x0086, .owner) | .relight h _ => some (h, 0x0087, .owner) | .provingCtrl h .. => some (h, 0x0090, .steward)
  | .maintenanceEnter h _ => some (h, 0x0091, .steward) | .maintenanceLeave h _ => some (h, 0x0091, .steward)
  | .packOffer h .. => some (h, 0x00B1, .pack) | .packChunk h .. => some (h, 0x00B2, .pack) | .packDone h _ => some (h, 0x00B4, .pack)
  | .challenge h => some (h, 0x0A00, .mgmtOnly) | .identity h => some (h, 0x0A01, .any) | .mrRead h .. => some (h, 0x0A02, .any)
  | .mrExtend h .. => some (h, 0x0A03, .steward) | .attest h .. => some (h, 0x0A04, .any) | .certRead h _ => some (h, 0x0A05, .any)
  | .configWrite h _ => some (h, 0x0A06, .steward) | .enrollOwner h => some (h, 0x0A07, .steward) | .keyRevoke h .. => some (h, 0x0A08, .steward)
  | .imageOffer h .. => some (h, 0x0A10, .image) | .imageChunk h .. => some (h, 0x0A11, .image) | .imageDone h .. => some (h, 0x0A13, .image)
  | .handoff h => some (h, 0x0A20, .steward)
  | _ => none

end Sys2Proof.Machine
end

