-- ==== Sys2Proof/WellFormed.lean ====
section
/-! DEFINITION. Well-formed commands: every unit index names a unit of the package, so that `exec` finds it. -/

namespace Sys2Proof

/-- An instruction's tile is one of the 576. -/
def Issue.wf (i : Issue) : Bool := decide (i.tile < 576)

/-- A message's slot is one of the eight of Table 14-3. -/
def MsgHdr.wf (h : MsgHdr) : Bool := decide (h.slot < 8)

/-- The unit indices of a command are in range. Operands that a command's own rule judges (a partition, loaf or shard a message names) are not unit indices: the
rule answers for them. -/
def Instr.wf : Instr → Bool
  | .nop i => i.wf
  | .end_ i => i.wf
  | .br i => i.wf
  | .brdec i => i.wf
  | .ldi i => i.wf
  | .salu i => i.wf
  | .scmp i => i.wf
  | .plog i => i.wf
  | .sget i => i.wf
  | .sld i => i.wf
  | .sst i => i.wf
  | .braidSet i => i.wf
  | .wait i => i.wf
  | .waitPeek i => i.wf
  | .signal i => i.wf
  | .signalSet i => i.wf
  | .pin i => i.wf
  | .unpin i => i.wf
  | .step i => i.wf
  | .fence i => i.wf
  | .mmaF i => i.wf
  | .mmaX i => i.wf
  | .waveCommit t _ _ => decide (t < 576)
  | .mmaComplete t => decide (t < 576)
  | .arrayGrant t => decide (t < 576)
  | .accZero i => i.wf
  | .accOut i => i.wf
  | .accMerge i => i.wf
  | .accAcq i => i.wf
  | .accRel i => i.wf
  | .expscan i => i.wf
  | .vfp i => i.wf
  | .vfma i => i.wf
  | .vfun i => i.wf
  | .vint i => i.wf
  | .vcmp i => i.wf
  | .vsel i => i.wf
  | .vbcast i => i.wf
  | .viota i => i.wf
  | .vext i => i.wf
  | .vred i => i.wf
  | .vcvt i => i.wf
  | .vld i => i.wf
  | .vst i => i.wf
  | .vlds i => i.wf
  | .vsts i => i.wf
  | .copyIn i => i.wf
  | .copyOut i => i.wf
  | .copyTt i => i.wf
  | .copyComplete t _ _ => decide (t < 576)
  | .gather i => i.wf
  | .gatherComplete _ => true
  | .deferredFault t => decide (t < 576)
  | .brewOpen i => i.wf
  | .brewPour i => i.wf
  | .brewAbort i => i.wf
  | .brewCommit t _ => decide (t < 576)
  | .brewWritebackDone o => match o with | .tile t _ => decide (t < 576) | .engine die l slot => decide (die < 4 ∧ l < 3 ∧ slot < 4)
  | .brewConflictSpill t _ => decide (t < 576)
  | .brewSpillTimeout t _ => decide (t < 576)
  | .clIssue i => i.wf
  | .upIssue i => i.wf
  | .signalArrive _ => true
  | .healthFlushArrive t => decide (t < 576)
  | .stepClose p => decide (p < 8)
  | .blendDecide p => decide (p < 8)
  | .updateShardStart die l _ _ => decide (die < 4 ∧ l < 3)
  | .updateSliceCommit die l slot _ _ => decide (die < 4 ∧ l < 3 ∧ slot < 4)
  | .engineBrewRetry die l slot => decide (die < 4 ∧ l < 3 ∧ slot < 4)
  | .updateShardComplete die l _ => decide (die < 4 ∧ l < 3)
  | .pinWait die l => decide (die < 4 ∧ l < 3)
  | .guardReduceComplete _ => true
  | .digestExchange die l _ => decide (die < 4 ∧ l < 3)
  | .collectiveMessageReceive port p _ _ => decide (port < 64 ∧ p < 8)
  | .clAbortReceive port p _ => decide (port < 64 ∧ p < 8)
  | .collectiveComplete _ => true
  | .collectiveResend _ _ => true
  | .peerLostTimeout _ => true
  | .clStall port _ p => decide (port < 64 ∧ p < 8)
  | .kneadShardMove _ _ => true
  | .refereeReplay t _ _ => decide (t < 576)
  | .refereeWaitTimeout t => decide (t < 576)
  | .benchMove die m => decide (die < 4 ∧ m < 156)
  | .rotationMigration die => decide (die < 4)
  | .migrationSkip die => decide (die < 4)
  | .migrationComplete t _ => decide (t < 576)
  | .provingSegmentEnd die m _ _ _ => decide (die < 4 ∧ m < 156)
  | .provingRunEnd die m => decide (die < 4 ∧ m < 156)
  | .ovenTargetReached die m _ => decide (die < 4 ∧ m < 156)
  | .windowProve die _ _ => decide (die < 4)
  | .localisationRun die m _ _ => decide (die < 4 ∧ m < 156)
  | .fuseWritten die i => decide (die < 4 ∧ i < 64)
  | .linkMarginCheck _ _ _ => true
  | .tileSelfTest die _ => decide (die < 4)
  | .tileRelease die => decide (die < 4)
  | .scrubLine stack _ => decide (stack < 12)
  | .rowRepair stack _ _ => decide (stack < 12)
  | .pitchApply stack g => decide (stack < 12 ∧ g < 80)
  | .hostCompletionReceive _ _ _ _ => true
  | .hostDmaTimeout _ _ => true
  | .boardRequestReceive port _ => decide (port < 64)
  | .boardResponseReceive _ _ _ _ => true
  | .boardNoRoute _ => true
  | .flitTransmit n => decide (n < 64)
  | .flitDataReceive n _ => decide (n < 64)
  | .flitIdleReceive n _ => decide (n < 64)
  | .flitHelloReceive n _ => decide (n < 64)
  | .flitNakReceive n _ lanes cw => decide (n < 64 ∧ lanes.length = 4 ∧ cw.length = 17)
  | .flitDarkReceive n _ => decide (n < 64)
  | .nakRepeat n => decide (n < 64)
  | .ackTimer n => decide (n < 64)
  | .helloTimer n => decide (n < 64)
  | .helloTimeout n => decide (n < 64)
  | .trainingComplete n _ _ _ => decide (n < 64)
  | .downRetryTimer n => decide (n < 64)
  | .laneEvalWindow n lanes cw => decide (n < 64 ∧ lanes.length = 4 ∧ cw.length = 17)
  | .laneLossOfLock n lane => decide (n < 64 ∧ lane < 4)
  | .retrainComplete n _ _ _ => decide (n < 64)
  | .linkLoss n => decide (n < 64)
  | .linkHoldExpiry n => decide (n < 64)
  | .dark h _ => h.wf
  | .darkEntered n => decide (n < 64)
  | .relight h _ => h.wf
  | .peerTrainingSignal n => decide (n < 64)
  | .darkTimeout n => decide (n < 64)
  | .linkQuality n => decide (n < 64)
  | .anchorLossOfLock n => decide (n < 64)
  | .d2dFrameReceive die k _ => decide (die < 4 ∧ k < 24)
  | .d2dNakReceive die k _ => decide (die < 4 ∧ k < 24)
  | .d2dRetrain die k _ _ => decide (die < 4 ∧ k < 24)
  | .leaseRenew h _ => h.wf
  | .leaseRelease h _ => h.wf
  | .leaseExpiry p => decide (p < 8)
  | .orphanStallTimeout t _ => decide (t < 576)
  | .start h _ _ _ _ => h.wf
  | .stop h _ _ => h.wf
  | .park h => h.wf
  | .idleClear h _ _ => h.wf
  | .pinClear h _ _ _ => h.wf
  | .partSet h _ => h.wf
  | .partAdd h _ _ _ _ => h.wf
  | .partRemove h _ _ _ _ => h.wf
  | .partUnitSwitch p _ => decide (p < 8)
  | .pitchSet h _ _ _ => h.wf
  | .loafWrite h _ => h.wf
  | .loafDelete h _ => h.wf
  | .hwinWrite h _ _ _ => h.wf
  | .bar2Map h _ _ => h.wf
  | .jbaseWrite h _ => h.wf
  | .slotWrite h _ => h.wf
  | .rowWrite h _ => h.wf
  | .pctrlWrite h _ => h.wf
  | .shardDefine h _ _ _ _ _ _ _ _ _ => h.wf
  | .shardDelete h _ _ _ => h.wf
  | .rollback h _ _ => h.wf
  | .digctrlWrite h _ _ => h.wf
  | .jobStart h _ _ _ => h.wf
  | .jobEnd h => h.wf
  | .mapStage h _ => h.wf
  | .groupWrite h _ _ _ => h.wf
  | .planWrite h _ _ _ => h.wf
  | .planctlWrite h _ => h.wf
  | .brouteWrite h _ _ => h.wf
  | .portCntClear h _ => h.wf
  | .portReset h _ => h.wf
  | .portUnfence h _ => h.wf
  | .provingCtrl h _ _ _ _ => h.wf
  | .maintenanceEnter h _ => h.wf
  | .maintenanceLeave h _ => h.wf
  | .packOffer h _ _ _ => h.wf
  | .packChunk h _ _ _ => h.wf
  | .packDone h _ => h.wf
  | .packAckTimer => true
  | .packTransferTimeout => true
  | .challenge h => h.wf
  | .nonceExpiry _ => true
  | .identity h => h.wf
  | .mrRead h _ _ => h.wf
  | .mrExtend h _ _ => h.wf
  | .attest h _ _ => h.wf
  | .certRead h _ => h.wf
  | .configWrite h _ => h.wf
  | .enrollOwner h => h.wf
  | .keyRevoke h _ _ _ _ _ => h.wf
  | .imageOffer h _ _ _ => h.wf
  | .imageChunk h _ _ _ => h.wf
  | .imageDone h _ => h.wf
  | .handoff h => h.wf
  | .handoffAccept _ _ => true
  | .handoffTimeout => true
  | .deviceSlotReturn _ slot => decide (slot < 8)
  | .evtNext _ => true
  | .apertureRead _ _ _ => true
  | .apertureWrite _ _ => true
  | .bar2Read _ _ _ => true
  | .bar2Write _ _ _ => true
  | .pcieConfigRequest _ _ _ => true
  | .flr _ => true
  | .hotReset _ => true
  | .hostLinkDown _ => true
  | .registerWrite _ _ => true
  | .crumbFetch _ _ => true
  | .crumbRead _ => true
  | .ibiRepeat => true
  | .crumbFlashWrite => true
  | .crumbCoalesceWindow _ _ => true
  | .errorRecordHandle _ => true
  | .entdaa _ => true
  | .setdasa _ => true
  | .rstdaa => true
  | .enec _ => true
  | .disec _ => true
  | .getpid => true
  | .getbcr => true
  | .getdcr => true
  | .getstatus => true
  | .getmxds => true
  | .alertResponse => true
  | .sleep => true
  | .sleepEntry => true
  | .sleepAbandon => true
  | .deep => true
  | .deepEntry => true
  | .deepAbandon => true
  | .wake => true
  | .deepExitComplete _ => true
  | .warmReset => true
  | .managementWatchdog => true
  | .journalReplay _ => true
  | .coldReset => true
  | .vauxPowerOn => true
  | .pkgRstNAssert => true
  | .pkgRstNDeassert _ _ => true
  | .railsGood => true
  | .firstStageStart _ _ failed => failed.all fun k => decide (k < 12)
  | .firmwareReady => true
  | .perstAssert _ => true
  | .perstDeassert _ _ => true
  | .trstNAssert => true
  | .boardSlotChange _ _ => true
  | .inputChatter _ => true
  | .chatterReleased _ => true
  | .throttleAssert => true
  | .throttleRelease _ => true
  | .throttleHeldTimer => true
  | .vinLow => true
  | .vinLowEnd _ => true
  | .railReset _ => true
  | .overcurrentClamp => true
  | .overcurrentHoldEnd => true
  | .powerLoopStep _ _ => true
  | .paceWindow => true
  | .thermalPaceStep die m _ => decide (die < 4 ∧ m < 156)
  | .thermalWithdrawStep die col _ => decide (die < 4 ∧ col < 13)
  | .pwrThermtrip die m _ => decide (die < 4 ∧ m < 156)
  | .thermalShutdown die m _ => decide (die < 4 ∧ m < 156)
  | .oeHot k _ => decide (k < 16)
  | .telemUpdate _ _ _ _ _ => true
  | .laserLit k input _ => decide (k < 16 ∧ input < 2)
  | .laserDark k input _ => decide (k < 16 ∧ input < 2)
  | .crystalEdgeMissing _ => true
  | .crystalStable _ => true
  | .clkXtalFail => true
  | .pllLock pll => decide (pll ≤ 4)
  | .clkXtalLost => true
  | .holdoverEnd => true
  | .clkPllUnlock pll => decide (pll ≤ 4)
  | .referenceTick die => decide (die ≤ 4)
  | .illegal i _ => i.wf
  | .badType h _ => h.wf
  | .hostLinkUp _ _ => true
  | .clockGate die unit => decide (die ≤ 4 ∧ unit < if die < 4 then 186 else 86)
  | .autoNegotiation _ => true
  | .tck _ _ => true

end Sys2Proof
end

