-- ==== Sys2Proof/Certificates/Slice0/Obligations.lean ====
section
/-! DEFINITION. The statements about the model, for the provers. Each completion says what the command does where nothing turns it away; `Runs` and
`Passes` are the conditions for an instruction and a message to reach their own rule. -/

open Sys2Proof Sys2Proof.Machine

/-- Scalar results (Tables 07-4, 07-7, 07-8): LDI, SALU and SGET write their destination register (s0 and s12 to s15 discard writes), SCMP and PLOG
their predicate (p0 discards), NOP nothing. The stream goes on at the next instruction; nothing else changes. -/
def Claim.ScalarResults : Prop :=
  (∀ i s, Runs i (needsNop i s) s → ∃ t, exec (.nop i) s = .next t ∧
    StreamIs i s t (s.streamAt i.tile i.stream).issued ∧ OnlyOwnStream i s t) ∧
  (∀ i s, Runs i (needsLdi i s) s → ∃ t, exec (.ldi i) s = .next t ∧
    StreamIs i s t ((s.streamAt i.tile i.stream).issued.writeS (rn i.word.dst) i.word.ext) ∧ OnlyOwnStream i s t) ∧
  (∀ i s, Runs i (needsSalu i s) s → ∃ t, exec (.salu i) s = .next t ∧
    StreamIs i s t ((s.streamAt i.tile i.stream).issued.writeS (rn i.word.dst)
      (salu i.word.func.toNat (s.getS i (rn i.word.srca)) (operandB i s))) ∧ OnlyOwnStream i s t) ∧
  (∀ i s, Runs i (needsSget i s) s → ∃ t, exec (.sget i) s = .next t ∧
    StreamIs i s t ((s.streamAt i.tile i.stream).issued.writeS (rn i.word.dst) (special i s (immF i.word 7 0))) ∧ OnlyOwnStream i s t) ∧
  (∀ i s, Runs i (needsScmp i s) s → ∃ t, exec (.scmp i) s = .next t ∧
    StreamIs i s t ((s.streamAt i.tile i.stream).issued.writeP (rn i.word.dst)
      (scmp i.word.func.toNat (s.getS i (rn i.word.srca)) (operandB i s))) ∧ OnlyOwnStream i s t) ∧
  (∀ i s, Runs i (needsPlog i s) s → ∃ t, exec (.plog i) s = .next t ∧
    StreamIs i s t ((s.streamAt i.tile i.stream).issued.writeP (rn i.word.dst)
      (plog i.word.func.toNat (s.getP i (rn i.word.srca)) (s.getP i (rn i.word.srcb)) (i.word.imm.getLsbD 0))) ∧ OnlyOwnStream i s t)

/-- Branches (Table 07-7): BR adds 16 × IMM to the PC of the branch; BRDEC first subtracts 1 from sD and branches when the value then in sD, read as
the register reads, is not 0. -/
def Claim.Branches : Prop :=
  (∀ i s, Runs i (needsBr i s) s → ∃ t, exec (.br i) s = .next t ∧
    StreamIs i s t { (s.streamAt i.tile i.stream).issued with pc := target (s.streamAt i.tile i.stream).pc i.word } ∧ OnlyOwnStream i s t) ∧
  (∀ i s, Runs i (needsBrdec i s) s →
    let x := (s.streamAt i.tile i.stream).issued.writeS (rn i.word.dst) (s.getS i (rn i.word.dst) - 1)
    ∃ t, exec (.brdec i) s = .next t ∧ OnlyOwnStream i s t ∧
      (x.readS (rn i.word.dst) ≠ 0 → StreamIs i s t { x with pc := target (s.streamAt i.tile i.stream).pc i.word }) ∧
      (x.readS (rn i.word.dst) = 0 → StreamIs i s t x))

/-- Scalar instructions and branches: results, and that nothing else changes. The whole of what its parts say.
Model's choices it rests on: log 10, 14. -/
def Obligations.ScalarInstructions : Prop :=
  Claim.ScalarResults ∧ Claim.Branches

/-- SLD and SST (R164, R209): eight bytes at sA + IMM, read through and staged in the stream's own open brew; a read of the stored address gives the
stored bytes and every other byte reads as before. -/
def Claim.LocalStoreWords : Prop :=
  (∀ i s, Runs i (needsSld i s) s → ∃ t, exec (.sld i) s = .next t ∧
    StreamIs i s t ((s.streamAt i.tile i.stream).issued.writeS (rn i.word.dst)
      (BitVec.ofNat 64 (leNat ((s.tileAt i.tile).lsRead i.stream (lsAddr i s) 8)))) ∧ OnlyOwnStream i s t) ∧
  (∀ i s, Runs i (needsSst i s) s → ∃ t, exec (.sst i) s = .next t ∧ OnlyLocalStore i s t ∧
    (t.streamAt i.tile i.stream).noBrew = (s.streamAt i.tile i.stream).issued.noBrew ∧
    LocalStoreIs i s t (lsAddr i s) (natLe 8 (s.getS i (rn i.word.srcb)).toNat))

/-- VST and VSTS (R164, R167, R168): VST stores the register's 512 bytes at sA + IMM; VSTS of a row stores the line's 128 elements, converted from FP32 in the
format named or in force, and the line's block scales; every other byte of local store reads as before. -/
def Claim.VectorStores : Prop :=
  (∀ i s, Runs i (needsVst i s) s → ∃ t, exec (.vst i) s = .next t ∧ OnlyLocalStore i s t ∧
    (t.streamAt i.tile i.stream).noBrew = (s.streamAt i.tile i.stream).issued.noBrew ∧
    LocalStoreIs i s t (lsAddr i s) (laneBytes (s.getV i (rn i.word.srcb)))) ∧
  (∀ i s, Runs i (needsVsts i s) s → ∃ t, exec (.vsts i) s = .next t ∧ t.mem = s.mem ∧ OthersCalm i s t ∧
    (t.streamAt i.tile i.stream).noBrew = (s.streamAt i.tile i.stream).issued.noBrew ∧
    (t.tileAt i.tile).vreg = (s.tileAt i.tile).vreg ∧ (t.tileAt i.tile).bank = (s.tileAt i.tile).bank ∧
    let w := i.word
    let x := s.streamAt i.tile i.stream
    let f := (lineFmt i s).1
    let src := s.getV i (rn w.srca)
    let cv : List Nat × List Byte × List (List Nat) := if vxFmt w = 0 then (src.map (·.toNat), [], []) else
      convLanes f (if vxFmt w = 12 then .sr else vxRnd w) (vxSat w) (fun k => s.srAt x.part (vxTensor w) x.step 0 (vxLane w)
        ((s.getS i (rn w.srcb)).toNat * 16384 + 128 * (lineRC w k).1 + (lineRC w k).2)) (src.map f32)
    (lineCol w = false → ∀ a, (t.tileAt i.tile).lsRead i.stream a 1 =
      (let u := (s.tileAt i.tile).lsWrite i.stream (lineBase w + 16 * fmtWidth f * extF w 110 104) (packCodes (fmtWidth f) cv.1)
        if cv.2.1.isEmpty then u else u.lsWrite i.stream (linePlane w + 4 * extF w 110 104) cv.2.1).lsRead i.stream a 1) ∧
    (lineCol w = true → ∀ a, (t.tileAt i.tile).lsRead i.stream a 1 =
      (let u := ((List.range 128).zip cv.1).foldl (fun u p => u.storeElem i.stream (lineBase w) f (128 * p.1 + extF w 110 104) p.2) (s.tileAt i.tile)
        if cv.2.1.isEmpty then u else u.lsWrite i.stream (linePlane w + 4 * extF w 110 104) cv.2.1).lsRead i.stream a 1))

/-- SLD, SST and the vector stores read and write local store as the stream sees it. The whole of what its parts say.
Model's choices it rests on: log 14, 65. -/
def Obligations.LocalStoreWrites : Prop :=
  Claim.LocalStoreWords ∧ Claim.VectorStores

/-- WAIT and WAIT.PEEK on a counter that holds at least n, or with n = 0, complete (R128, R131): WAIT subtracts n, WAIT.PEEK nothing. -/
def Claim.WaitsServed : Prop :=
  (∀ i s, Runs i (needsWaitOf false i s) s →
    let c := Map.get {} (s.tileAt i.tile).sc (syK i.word)
    syN i.word ≤ c.value.toNat → ∃ t, exec (.wait i) s = .next t ∧
      (t.streamAt i.tile i.stream).noBrew = (s.streamAt i.tile i.stream).issued.noBrew ∧
      CounterIs i.tile (syK i.word) { c with value := c.value - BitVec.ofNat 16 (syN i.word) } s t ∧
      SameOutside i.tile s t ∧ (t.tileAt i.tile).noCounters = (s.tileAt i.tile).noCounters ∧
      (t.tileAt i.tile).waits = (s.tileAt i.tile).waits ∧ OtherStreams i s t) ∧
  (∀ i s, Runs i (needsWaitOf true i s) s → syN i.word ≤ (Map.get {} (s.tileAt i.tile).sc (syK i.word)).value.toNat →
    ∃ t, exec (.waitPeek i) s = .next t ∧ StreamIs i s t (s.streamAt i.tile i.stream).issued ∧ OnlyOwnStream i s t)

/-- WAIT and WAIT.PEEK on a counter below n keep their stream at the instruction, waiting for cause DEP, last among the counter's waits, with a
scoreboard entry on the counter (R125, R128, R132). -/
def Claim.WaitsHold : Prop :=
  ∀ i s peek, Runs i (needsWaitOf peek i s) s →
    (Map.get {} (s.tileAt i.tile).sc (syK i.word)).value.toNat < syN i.word →
    ∃ t, exec (if peek then .waitPeek i else .wait i) s = .next t ∧
      (t.streamAt i.tile i.stream).pc = (s.streamAt i.tile i.stream).pc ∧ (t.streamAt i.tile i.stream).waiting = true ∧
      (t.streamAt i.tile i.stream).cause = .dep ∧ (t.tileAt i.tile).sc = (s.tileAt i.tile).sc ∧
      (t.tileAt i.tile).waits = (s.tileAt i.tile).waits ++ [{ stream := i.stream, k := syK i.word, n := syN i.word, peek := peek, id := s.nextId }] ∧
      (t.tileAt i.tile).sb = (s.tileAt i.tile).sb ++
        [{ stream := i.stream, reads := [.sc (syK i.word)], writes := if peek then [] else [.sc (syK i.word)], op := s.nextId }] ∧
      SameOutside i.tile s { t with nextId := s.nextId } ∧
      { (t.tileAt i.tile).noCounters with sb := (s.tileAt i.tile).sb } = (s.tileAt i.tile).noCounters ∧ OtherStreams i s t

/-- WAIT and WAIT.PEEK complete when the counter serves them, else hold their stream. The whole of what its parts say.
Model's choices it rests on: log 14, 87. -/
def Obligations.Waits : Prop :=
  Claim.WaitsServed ∧ Claim.WaitsHold

/-- SIGNAL outside a loaf of several tiles: with no open brew the signal is on its way, last of all, to the counter of every tile its target names
(R128, R130); with an open brew it is held in issue order (R176); one that reaches its own tile holds a scoreboard entry (Table 06-1; how a held one does,
log 87). SIGNAL.SET sets the counter, clears OVF, and serves the waits the value
satisfies (R128). -/
def Claim.Signals : Prop :=
  (∀ i s, Runs i (needsSignal i s) s → s.combining i.tile i.stream = none →
    ∃ t g, exec (.signal i) s = .next t ∧ g.tiles = s.loafTiles (sigRef i s) ∧ g.k = syK i.word ∧ g.amount = syN i.word ∧ g.src = i.tile ∧
      g.stream = i.stream ∧
      ((s.streamAt i.tile i.stream).brew.phase ≠ .open_ → t.sigs = s.sigs ++ [g] ∧
        (t.streamAt i.tile i.stream).noBrew = (s.streamAt i.tile i.stream).issued.noBrew) ∧
      ((s.streamAt i.tile i.stream).brew.phase = .open_ → t.sigs = s.sigs ∧
        (t.streamAt i.tile i.stream).brew.held = (s.streamAt i.tile i.stream).brew.held ++ [g]) ∧
      (t.tileAt i.tile).sb = (s.tileAt i.tile).sb ++ (if i.tile ∈ g.tiles then
        [signalEntry i.stream g.k g.id (decide ((s.streamAt i.tile i.stream).brew.phase = .open_))] else []) ∧
      (∀ n, (t.tileAt n).sc = (s.tileAt n).sc) ∧ t.mem = s.mem ∧ t.part = s.part ∧ OtherStreams i s t) ∧
  (∀ i s, Runs i (needsSignalSet i s) s → ∃ t, exec (.signalSet i) s = .next t ∧
    let r := serveWaits (syK i.word) (s.tileAt i.tile).waits (syN i.word % 2 ^ 16)
    CounterIs i.tile (syK i.word) { value := BitVec.ofNat 16 r.2.2, ovf := false } s t ∧ (t.tileAt i.tile).waits = r.1 ∧ SameOutside i.tile s t)

/-- SIGNAL of a member of a loaf of several tiles joins its combined entry (R40): the entry holds the member's rank and amount, or, with the last
member, goes on its way with rank 0's amount. -/
def Claim.CombinedSignals : Prop :=
  ∀ i s l, Runs i (needsSignal i s) s → s.combining i.tile i.stream = some l → (s.streamAt i.tile i.stream).brew.phase ≠ .open_ →
    ∃ (t : State) (g : Sig), exec (.signal i) s = .next t ∧ g.tiles = s.loafTiles (sigRef i s) ∧ g.k = syK i.word ∧ g.amount = syN i.word ∧
      g.src = i.tile ∧ g.stream = i.stream ∧ g.ref = sigRef i s ∧
      t.comb = (s.joinSignal l g ((s.streamAt i.tile i.stream).readS 13).toNat).comb ∧
      t.gens = (s.joinSignal l g ((s.streamAt i.tile i.stream).readS 13).toNat).gens ∧
      t.sigs = (s.joinSignal l g ((s.streamAt i.tile i.stream).readS 13).toNat).sigs ∧
      (t.streamAt i.tile i.stream).noBrew = (s.streamAt i.tile i.stream).issued.noBrew ∧
      (∀ n, (t.tileAt n).sc = (s.tileAt n).sc) ∧ t.mem = s.mem ∧ t.part = s.part ∧ OtherStreams i s t

/-- SIGNAL_ARRIVE (R128, R131): a signal that may arrive at a tile that is not migrating adds its amount to the counter and serves the waits in order; past
65,535 the counter saturates with OVF and every stream of the tile that waits on it halts with SC_OVERFLOW; a migrating tile's network port
holds it (R31). -/
def Claim.SignalsArrive : Prop :=
  ∀ k s g n, s.sigs[k]? = some g → mayArrive (s.tileAt g.src) g (s.sigs.take k) = true → g.tiles = [n] →
    let c := Map.get {} (s.tileAt n).sc g.k
    ∃ t, exec (.signalArrive k) s = .next t ∧ t.sigs = s.sigs.take k ++ s.sigs.drop (k + 1) ∧ t.mem = s.mem ∧
      ((s.tmapAt n).migrating = false → c.value.toNat + g.amount ≤ 65535 →
        let r := serveWaits g.k (s.tileAt n).waits (c.value.toNat + g.amount)
        CounterIs n g.k { c with value := BitVec.ofNat 16 r.2.2 } s t ∧ (t.tileAt n).waits = r.1 ∧ t.part = s.part) ∧
      ((s.tmapAt n).migrating = false → 65535 < c.value.toNat + g.amount →
        CounterIs n g.k { value := 65535, ovf := true } s t ∧
        ∀ w ∈ (s.tileAt n).waits, w.k = g.k → (s.streamAt n w.stream).run = true →
          (t.streamAt n w.stream).run = false ∧ (t.streamAt n w.stream).fault.code = 0x0E ∧
            (t.streamAt n w.stream).fault.detail = BitVec.ofNat 64 g.k) ∧
      ((s.tmapAt n).migrating = true → (t.tileAt n).sc = (s.tileAt n).sc ∧
        (t.tileAt n).deliveries = (s.tileAt n).deliveries ++ [{ g with tiles := [n] }])

/-- Signals: sent, held, combined, arriving, overflowing. The whole of what its parts say.
Model's choices it rests on: log 72, 86, 87. -/
def Obligations.SignalDelivery : Prop :=
  Claim.Signals ∧ Claim.CombinedSignals ∧ Claim.SignalsArrive

/-- PIN and UNPIN (R162): PINS of the named shard's entry gains or loses 1, PIN answers the shard's version in sD; nothing else of the directory,
and nothing outside the stream and the directory, changes. -/
def Claim.Pins : Prop :=
  (∀ i s e d, Runs i (needsPin i s) s → pinShard i s = some (e, d) → ∃ t, exec (.pin i) s = .next t ∧
    StreamIs i s t ((s.streamAt i.tile i.stream).issued.writeS (rn i.word.dst) (BitVec.ofNat 64 (s.dirAt e d).version.toNat)) ∧
    t.dirAt e d = { s.dirAt e d with pins := (s.dirAt e d).pins + 1 } ∧ (∀ e' d', (e', d') ≠ (e, d) → t.dirAt e' d' = s.dirAt e' d') ∧
    t.mem = s.mem ∧ t.part = s.part ∧ (t.tileAt i.tile).core = (s.tileAt i.tile).core ∧ OtherStreams i s t) ∧
  (∀ i s e d, Runs i (needsUnpin i s) s → pinShard i s = some (e, d) → ∃ t, exec (.unpin i) s = .next t ∧
    StreamIs i s t (s.streamAt i.tile i.stream).issued ∧
    t.dirAt e d = { s.dirAt e d with pins := (s.dirAt e d).pins - 1 } ∧ (∀ e' d', (e', d') ≠ (e, d) → t.dirAt e' d' = s.dirAt e' d') ∧
    t.mem = s.mem ∧ t.part = s.part ∧ (t.tileAt i.tile).core = (s.tileAt i.tile).core ∧ OtherStreams i s t)

/-- STEP adds 1 to the stream's step number and records that a stream has stepped out of it (R106, R120); FENCE changes nothing but the stream's
place (R163); END leaves the stream with no program (R161), its registers and its step number as they were. -/
def Claim.Steps : Prop :=
  (∀ i s, Runs i (needsStep i s) s → ∃ t, exec (.step i) s = .next t ∧
    (t.streamAt i.tile i.stream).step = (s.streamAt i.tile i.stream).step + 1 ∧
    (t.streamAt i.tile i.stream).pc = (s.streamAt i.tile i.stream).pc + 16 ∧
    (t.streamAt i.tile i.stream).sreg = (s.streamAt i.tile i.stream).sreg ∧
    (s.streamAt i.tile i.stream).step.toNat ∈ (t.partAt (s.streamAt i.tile i.stream).part).stepped ∧
    (t.partAt (s.streamAt i.tile i.stream).part).oldest = (s.partAt (s.streamAt i.tile i.stream).part).oldest ∧
    t.mem = s.mem ∧ OtherStreams i s t) ∧
  (∀ i s, Runs i (needsFence i s) s → ∃ t, exec (.fence i) s = .next t ∧
    StreamIs i s t (s.streamAt i.tile i.stream).issued ∧ OnlyOwnStream i s t) ∧
  (∀ i s, Runs i (needsEnd i s) s → ∃ t, exec (.end_ i) s = .next t ∧
    (t.streamAt i.tile i.stream).run = false ∧ (t.streamAt i.tile i.stream).waiting = false ∧
    (t.streamAt i.tile i.stream).cause = .host ∧ (t.streamAt i.tile i.stream).halt = none ∧
    (t.streamAt i.tile i.stream).sreg = (s.streamAt i.tile i.stream).sreg ∧
    (t.streamAt i.tile i.stream).step = (s.streamAt i.tile i.stream).step ∧ t.mem = s.mem)

/-- PIN, UNPIN, STEP, FENCE and END take their effect. The whole of what its parts say.
Model's choices it rests on: log 73, 74. -/
def Obligations.PinsAndSteps : Prop :=
  Claim.Pins ∧ Claim.Steps

/-- BRAID.SET (R135, R136): the table waits for the next grant point, in place of the stream's earlier one; while a choice is open, and nothing else
waits, it is in force at once with PTR 0. -/
def Claim.BraidSet : Prop :=
  ∀ i s, Runs i (needsBraidSet i s) s → ∃ t, exec (.braidSet i) s = .next t ∧ SameOutside i.tile s t ∧
    StreamIs i s t (s.streamAt i.tile i.stream).issued ∧ OtherStreams i s t ∧
    ((s.tileAt i.tile).choiceOpen = false → (t.tileAt i.tile).slots = (s.tileAt i.tile).slots ∧
      (t.tileAt i.tile).braidPend = ((s.tileAt i.tile).braidPend.filter fun b => b.1 != i.stream) ++ [(i.stream, s.getS i (rn i.word.srca))]) ∧
    ((s.tileAt i.tile).choiceOpen = true → (s.tileAt i.tile).braidPend = [] →
      (t.tileAt i.tile).slots = (s.getS i (rn i.word.srca)).extractLsb' 0 32 ∧
      (t.tileAt i.tile).last = bits (s.getS i (rn i.word.srca)).toNat 35 32 ∧ (t.tileAt i.tile).ptr = 0 ∧ (t.tileAt i.tile).braidPend = [])

/-- A grant point (R135–R137, R50): a table that waits comes into force; with the array not held and its tile not migrating, the choice of R136 takes its
operands, enters the array behind what stands there and leaves the queue, PTR advances past LAST to 0; with no MMA ready the choice stays open. A held
array (R58) and a migrating tile (R147) grant nothing. -/
def Claim.ArrayGrants : Prop :=
  ∀ n s, n < nTiles →
    let x := if (s.tileAt n).braidPend.isEmpty then s.tileAt n else (s.tileAt n).applyBraid
    ((s.tileAt n).held ≠ none ∨ (s.tmapAt n).migrating = true → exec (.arrayGrant n) s = .next s) ∧
    ((s.tileAt n).held = none → (s.tmapAt n).migrating = false →
      (∀ m, x.choose = some m → ∃ t, exec (.arrayGrant n) s = .next t ∧ SameOutside n s t ∧
        (t.tileAt n).array = (s.tileAt n).array ++ [{ m with fill := some (m.load (s.tileAt n)), entry := (s.tileAt n).entryOf m, entered := false }] ∧
        (t.tileAt n).mmaQ = (s.tileAt n).mmaQ.filter (fun y => decide (y.id ≠ m.id)) ∧
        (t.tileAt n).slots = x.slots ∧ (t.tileAt n).ptr = (x.ptr + 1) % (x.last + 1) ∧ (t.tileAt n).choiceOpen = false ∧
        (t.tileAt n).braidPend = [] ∧ (t.tileAt n).bank = (s.tileAt n).bank ∧ (t.tileAt n).str = (s.tileAt n).str) ∧
      (x.choose = none → exec (.arrayGrant n) s = .next (s.modTile n fun _ => { x with choiceOpen := true })))

/-- The choice of R136: the MMA of the first stream with one ready, in slot order from PTR on; with none there, of F, B and U in that order. -/
def Claim.BraidChoice : Prop :=
  ∀ (t : Tile) m, t.choose = some m →
    (∃ k ∈ t.slotOrder, t.readyMma (t.slotStream k) = some m) ∨
      ((∀ k ∈ t.slotOrder, t.readyMma (t.slotStream k) = none) ∧ ∃ st, t.readyMma st = some m)

/-- The braid: BRAID.SET, array grants, the scheduler's choice. The whole of what its parts say.
Model's choices it rests on: log 14. -/
def Obligations.Braid : Prop :=
  Claim.BraidSet ∧ Claim.ArrayGrants ∧ Claim.BraidChoice

/-- What holds an instruction back (R149, R150, R155, R156, R132): with its stream idle nothing happens; in every other case what its buffer lacks is
fetched first, and then a stall marks the stream waiting for its cause; a false guard moves to the next instruction and does nothing else; an
offending field is ILLEGAL with the lowest starting bit, before the guard is read; a fault of any other code but TALLY is recorded and halts the stream;
a check that fails in staging spills the brew; an instruction that nothing holds back runs. -/
def Claim.IssueOutcomes : Prop :=
  ∀ c s i g, issueOf s c = some (i, g) → i.tile < nTiles →
    let f := s.fetch i
    (verdict i g s = .idle → exec c s = .next s) ∧
    (∀ w, verdict i g s = .wait w →
      exec c s = .next (f.modStream i.tile i.stream fun x => { x with waiting := true, cause := w, ninth := g.ninth })) ∧
    (verdict i g s = .skip → exec c s = .next (f.modStream i.tile i.stream Stream.issued)) ∧
    (∀ k, verdict i g s = .spill k → exec c s = .next ((f.spillBrew i.tile i.stream k 0).tryHalt i.tile i.stream)) ∧
    (verdict i g s = .check → exec c s = .next (f.checkerSpill i.tile i.stream)) ∧
    (∀ k d, verdict i g s = .fault k d → k ≠ 0x20 → exec c s = .next (f.faultStream i.tile i.stream (s.streamAt i.tile i.stream).pc k d)) ∧
    (verdict i g s = .run → ∃ t, exec c s = .next t)

/-- The fetch buffer (R152): a stream due to issue, whose read set has room, fetches what it lacks of its PC's block and the two after it, as far as its
partition owns them and no pour, pitch change or repair holds them; it then lacks nothing it can fetch and holds eight blocks at most. Its
registers, PC and step, every other stream of the tile, and memory are as before. -/
def Claim.FetchAhead : Prop :=
  ∀ s i, s.due i.tile i.stream = true → s.fetchOver i.tile i.stream = false → (s.streamAt i.tile i.stream).fetchBuf.length ≤ 8 →
    let f := s.fetch i
    let x := f.streamAt i.tile i.stream
    (∀ b ∈ s.missing i.tile i.stream, b ∈ x.fetchBuf) ∧ x.fetchBuf.length ≤ 8 ∧
      (∀ b ∈ x.fetchBuf, b ∈ (s.streamAt i.tile i.stream).fetchBuf ∨ b ∈ s.missing i.tile i.stream) ∧
      x.sreg = (s.streamAt i.tile i.stream).sreg ∧ x.preg = (s.streamAt i.tile i.stream).preg ∧ x.pc = (s.streamAt i.tile i.stream).pc ∧
      x.step = (s.streamAt i.tile i.stream).step ∧ OtherStreams i s f ∧ f.mem = s.mem

/-- ILLEGAL (R150, R155): a running stream, fetching from its partition's memory, whose instruction has an offending field halts with TILE_FAULT code 1
and the lowest starting bit; so does one whose opcode chapter 07 does not define, with bit 0. -/
def Claim.IllegalHalts : Prop :=
  ∀ c s i g b, i.tile < nTiles →
    ((issueOf s c = some (i, g) ∧ verdict i g s = .fault 1 (BitVec.ofNat 64 b) ∧ (s.streamAt i.tile i.stream).run = true) ∨
      (∃ op, c = .illegal i op ∧ opcodeDefined op = false ∧ b = 0 ∧ verdict i (needsIllegal i s) s = .fault 1 (BitVec.ofNat 64 b) ∧
        (s.streamAt i.tile i.stream).run = true)) →
    ∃ t, exec c s = .next t ∧ (t.streamAt i.tile i.stream).run = false ∧
      (t.streamAt i.tile i.stream).fault =
        { valid := true, code := 1, pc := (s.streamAt i.tile i.stream).pc, detail := BitVec.ofNat 64 b } ∧
      t.mem = s.mem

/-- Instruction words (R148, R150, Tables 07-1 and 07-2): a word is its OPCODE byte and its fields, none lost and none shared, and takes 16 bytes, lowest
first; an instruction's fields under its own OPCODE decode to it, and a byte that is no OPCODE to none. -/
def Claim.WordsDecode : Prop :=
  (∀ w, wordOf (w.extractLsb' 0 8) (wordFields w) = w) ∧
  (∀ op f, wordFields (wordOf op f) = f ∧ (wordOf op f).extractLsb' 0 8 = op) ∧
  (∀ c s i g, issueOf s c = some (i, g) →
    ∃ op, opcodeDefined op = true ∧ decodeWord i.tile i.stream i.hw (wordOf op i.word) = some c) ∧
  (∀ n st hw w, opcodeDefined (w.extractLsb' 0 8) = (decodeWord n st hw w).isSome) ∧
  ∀ w w', wordBytes w = wordBytes w' → w = w'

/-- What holds an instruction back, what is fetched, ILLEGAL, and the instruction word. The whole of what its parts say.
Model's choices it rests on: log 10, 13, 14, 83. -/
def Obligations.IssueRules : Prop :=
  Claim.IssueOutcomes ∧ Claim.FetchAhead ∧ Claim.IllegalHalts ∧ Claim.WordsDecode

/-- R156: an instruction that issue holds back for nothing else, and that meets several fault conditions, records the one with the lowest code; an uncorrectable word of local store (0x21) is one
of them.
Model's choices it rests on: log 85. -/
def Obligations.LowestFault : Prop :=
  ∀ c s i g, issueOf s c = some (i, g) → i.tile < nTiles →
    let v := verdict i { g with faults := [] } s
    let all := g.faults ++ match v with | .fault 0x21 d => [(0x21, d)] | _ => []
    (v = .run ∨ v = .check ∨ (∃ d, v = .fault 0x21 d) ∨ (v = .spill 2 ∧ g.spill = none ∧ (s.fetch i).fetchOver i.tile i.stream = false)) → all ≠ [] →
    ∃ f ∈ all, (∀ x ∈ all, f.1 ≤ x.1) ∧ verdict i g s = .fault f.1 f.2 ∧
      ∃ t, exec c s = .next t ∧ (t.streamAt i.tile i.stream).fault.valid = true ∧ (t.streamAt i.tile i.stream).fault.code = BitVec.ofNat 8 f.1 ∧
        (t.streamAt i.tile i.stream).fault.detail = f.2 ∧ (t.streamAt i.tile i.stream).fault.pc = (s.streamAt i.tile i.stream).pc ∧ (t.streamAt i.tile i.stream).run = false

/-- R175: STEP, FENCE, PIN, UNPIN, GATHER, CL.ISSUE, UP.ISSUE and END with a brew open never take their own effect. Each is held back before it executes (stream idle, a wait, a fault at issue, a
false guard, a brew already in conflict or whose read set the fetch has filled) or spills the brew with code 4, the stream going on from the resume point. -/
def Claim.FencesSpill : Prop :=
  ∀ c s i g, issueOf s c = some (i, g) → isFenceInstr c = true → i.tile < nTiles → (s.streamAt i.tile i.stream).brew.phase = .open_ → (s.streamAt i.tile i.stream).halt = none →
    verdict i g s = .idle ∨ (∃ w, verdict i g s = .wait w) ∨ (∃ k d, verdict i g s = .fault k d ∧ (k = 1 ∨ k = 5 ∨ k = 0x22)) ∨ verdict i g s = .skip ∨ verdict i g s = .spill 1 ∨
    (verdict i g s = .spill 2 ∧ (s.fetch i).fetchOver i.tile i.stream = true) ∨
    ∃ t, exec c s = .next t ∧ Spilled i.tile i.stream 4 0 s t ∧ (t.streamAt i.tile i.stream).run = true ∧ (t.streamAt i.tile i.stream).step = (s.streamAt i.tile i.stream).step ∧
      (∀ e d, t.dirAt e d = s.dirAt e d) ∧ t.part = s.part ∧ t.ops = s.ops

/-- R121: a STEP that nothing else holds back stalls with cause DEP, its stream at the instruction, while the step before the stream's own is still open in its partition; once that step has
closed it runs. -/
def Claim.StepStalls : Prop :=
  ∀ i s, i.tile < nTiles → verdict i { needsStep i s with stall := none } s = .run →
    let x := s.streamAt i.tile i.stream
    let p := s.partAt x.part
    (p.s0.isSome = true → p.oldest + 1 ≤ x.step.toNat → ∃ t, exec (.step i) s = .next t ∧ (t.streamAt i.tile i.stream).pc = x.pc ∧ (t.streamAt i.tile i.stream).step = x.step ∧
      (t.streamAt i.tile i.stream).waiting = true ∧ (t.streamAt i.tile i.stream).cause = .dep ∧ t.part = s.part ∧ t.mem = s.mem) ∧
    (p.s0 = none ∨ x.step.toNat < p.oldest + 1 → verdict i (needsStep i s) s = .run)

/-- Fence instructions spill an open brew with code 4; STEP stalls on an open step. The whole of what its parts say. -/
def Obligations.FenceAndStepRules : Prop :=
  Claim.FencesSpill ∧ Claim.StepStalls

/-- MMA.F and MMA.X (R49, R86): the MMA waits for the array with its scoreboard entry, FILLS of its bank gains 1; contents, marks, tallies, owner and
ANCHOR of the banks, the registers and the local store are as before. -/
def Claim.MmaIssue : Prop :=
  ∀ i s (x : Bool), Runs i (needsMma i s) s → ∃ t, exec (if x then .mmaX i else .mmaF i) s = .next t ∧
    StreamIs i s t (s.streamAt i.tile i.stream).issued ∧ OtherStreams i s t ∧ SameOutside i.tile { s with nextId := s.nextId + 1 } t ∧
    (t.tileAt i.tile).mmaQ = (s.tileAt i.tile).mmaQ ++ [mmaOf i x s.nextId (s.streamAt i.tile i.stream).pc] ∧
    (t.tileAt i.tile).bankAt (rn i.word.dst) =
      { (s.tileAt i.tile).bankAt (rn i.word.dst) with fills := ((s.tileAt i.tile).bankAt (rn i.word.dst)).fills + 1 } ∧
    (∀ b, b ≠ rn i.word.dst → (t.tileAt i.tile).bankAt b = (s.tileAt i.tile).bankAt b) ∧
    (t.tileAt i.tile).ls = (s.tileAt i.tile).ls ∧ (t.tileAt i.tile).vreg = (s.tileAt i.tile).vreg ∧
    ∃ e, (t.tileAt i.tile).sb = (s.tileAt i.tile).sb ++ [e] ∧ e.op = s.nextId ∧ e.stream = i.stream ∧ e.writes = [.acc (rn i.word.dst)]

/-- MMA_COMPLETE (R49, R134): with all 128 waves committed the MMA leaves the array and its scoreboard entry frees; with no bank on its way out and no
ACC.ACQ waiting, nothing else of the tile changes but the array's token; a bank that an ended program is leaving, and that no MMA of its stream uses any
more, is free. -/
def Claim.MmaCompletes : Prop :=
  ∀ n s m rest, n < nTiles → (s.tileAt n).array = m :: rest → 128 ≤ m.wave → (s.tileAt n).acqs = [] →
    ∃ t, exec (.mmaComplete n) s = .next t ∧ SameOutside n s { t with ptile := s.ptile } ∧
      (t.tileAt n).array.map (fun y => (y.id, y.wave)) = rest.map (fun y => (y.id, y.wave)) ∧
      (t.tileAt n).sb.map (·.op) = ((s.tileAt n).sb.map (·.op)).filter (fun k => decide (k ≠ m.id)) ∧
      ((∀ b, ((s.tileAt n).bankAt b).leaving = false) →
        { t.tileAt n with array := [], sb := [], arrTok := 0 } = { s.tileAt n with array := [], sb := [], arrTok := 0 }) ∧
      (∀ b st, b < 2 → ((s.tileAt n).bankAt b).owner = some st → ((s.tileAt n).bankAt b).leaving = true →
        (∀ y ∈ (s.tileAt n).mmaQ ++ rest, y.stream = st → y.bank ≠ b) → (∀ h, (s.tileAt n).held = some h → h.mma.stream = st → h.mma.bank ≠ b) →
        (t.tileAt n).bankAt b = { (s.tileAt n).bankAt b with owner := none, leaving := false })

/-- WAVE_COMMIT (R54, R55, R85): a wave whose check agrees adds its outputs to its bank row, element by element and mark by mark, and leaves every
other row of the bank, and the other bank, alone; a wave that disagrees commits nothing, is held for settlement and counts in CHK_MISMATCH. -/
def Claim.WaveCommits : Prop :=
  (∀ n errs chk s m rest, n < nTiles → (s.tileAt n).array = m :: rest → (s.tileAt n).held = none → m.wave < 128 →
    let out := withErrors (m.wave_ (s.tileAt n) m.wave) errs
    m.passes (s.tileAt n) m.wave out chk = true →
    ∃ t, exec (.waveCommit n errs chk) s = .next t ∧ SameOutside n s { t with ptile := s.ptile } ∧
      (t.tileAt n).array.map (fun y => (y.id, y.wave)) = (m.id, m.wave + 1) :: rest.map (fun y => (y.id, y.wave)) ∧
      (∀ c, c < 128 →
        Map.get 0 ((t.tileAt n).bankAt m.bank).a (128 * m.wave + c) = Map.get 0 ((s.tileAt n).bankAt m.bank).a (128 * m.wave + c) +
            BitVec.ofInt 96 (out.getD c (0, 0)).1 ∧
          ((t.tileAt n).bankAt m.bank).mark (128 * m.wave + c) =
            ((s.tileAt n).bankAt m.bank).mark (128 * m.wave + c) ||| (out.getD c (0, 0)).2) ∧
      (∀ e, e / 128 ≠ m.wave → Map.get 0 ((t.tileAt n).bankAt m.bank).a e = Map.get 0 ((s.tileAt n).bankAt m.bank).a e ∧
        ((t.tileAt n).bankAt m.bank).mark e = ((s.tileAt n).bankAt m.bank).mark e) ∧
      (∀ b, b ≠ m.bank → (t.tileAt n).bankAt b = (s.tileAt n).bankAt b)) ∧
  (∀ n errs chk s m rest p, n < nTiles → (s.tileAt n).array = m :: rest → (s.tileAt n).held = none → m.wave < 128 → s.physOf n = some p →
    m.passes (s.tileAt n) m.wave (withErrors (m.wave_ (s.tileAt n) m.wave) errs) chk = false →
    ∃ t, exec (.waveCommit n errs chk) s = .next t ∧
      (t.tileAt n).held = some { mma := { m with fill := some (m.operands (s.tileAt n)) }, wave := m.wave, errs := errs, chkErr := chk } ∧
      (t.tileAt n).bank = (s.tileAt n).bank ∧
      (t.tileAt n).array.map (fun y => (y.id, y.wave)) = (m.id, m.wave) :: rest.map (fun y => (y.id, y.wave)) ∧
      (t.ptileAt p).chkMismatch = satAdd max48 (s.ptileAt p).chkMismatch)

/-- MMA: issue, completion, waves committed. The whole of what its parts say.
Model's choices it rests on: log 23, 64, 90. -/
def Obligations.MatrixOperations : Prop :=
  Claim.MmaIssue ∧ Claim.MmaCompletes ∧ Claim.WaveCommits

/-- ACC.ZERO, ACC.MERGE and ACC.OUT of W96 (R88, R89, R91): zeroed contents with the anchor named and the owner kept; every record of the slice added
exactly, marks united, FILLS added; the bank's contents written as records, the bank unchanged. -/
def Claim.Banks : Prop :=
  (∀ i s, Runs i (needsAccZero i s) s → ∃ t, exec (.accZero i) s = .next t ∧ StreamIs i s t (s.streamAt i.tile i.stream).issued ∧
    SameOutside i.tile s t ∧ (t.tileAt i.tile).noBanks = (s.tileAt i.tile).noBanks ∧ OtherStreams i s t ∧
    (t.tileAt i.tile).bankAt (rn i.word.dst) = { anchor := zeroAnchor i s, owner := ((s.tileAt i.tile).bankAt (rn i.word.dst)).owner } ∧
    ∀ b, b ≠ rn i.word.dst → (t.tileAt i.tile).bankAt b = (s.tileAt i.tile).bankAt b) ∧
  (∀ i s, Runs i (needsAccMerge i s) s → ∃ t, exec (.accMerge i) s = .next t ∧ StreamIs i s t (s.streamAt i.tile i.stream).issued ∧
    SameOutside i.tile s t ∧ (t.tileAt i.tile).noBanks = (s.tileAt i.tile).noBanks ∧ OtherStreams i s t ∧
    (∀ e, e < 16384 →
      Map.get 0 ((t.tileAt i.tile).bankAt (rn i.word.dst)).a e =
          Map.get 0 ((s.tileAt i.tile).bankAt (rn i.word.dst)).a e + BitVec.ofInt 96 (recA (w96At i s e)) ∧
        ((t.tileAt i.tile).bankAt (rn i.word.dst)).mark e =
          ((s.tileAt i.tile).bankAt (rn i.word.dst)).mark e ||| BitVec.ofNat 6 (bits (w96At i s e) 111 106)) ∧
    ((t.tileAt i.tile).bankAt (rn i.word.dst)).fills = ((s.tileAt i.tile).bankAt (rn i.word.dst)).fills + recFills (w96At i s 0) ∧
    ((t.tileAt i.tile).bankAt (rn i.word.dst)).anchor = ((s.tileAt i.tile).bankAt (rn i.word.dst)).anchor) ∧
  (∀ i s, Runs i (needsAccOut i s) s → extF i.word 93 90 = 11 → ∃ t, exec (.accOut i) s = .next t ∧ OnlyLocalStore i s t ∧
    (t.streamAt i.tile i.stream).noBrew = (s.streamAt i.tile i.stream).issued.noBrew ∧
    LocalStoreIs i s t (256 * extF i.word 76 64)
      ((List.range 16384).flatMap fun e => natLe 16 (w96Record ((s.tileAt i.tile).bankAt (rn i.word.srca)) e)))

/-- ACC.OUT of an element format (R77, R92): with the converters agreeing, the slice, and its scale plane, hold the bank's exact values converted with one
rounding in the format named or in force, under PURPOSE 0 and the index given; the bank and every other byte of local store are as before. -/
def Claim.AccOut : Prop :=
  ∀ i s, Runs i (needsAccOut i s) s → extF i.word 93 90 ≠ 11 → i.hw.convErr = 0 → ∃ t, exec (.accOut i) s = .next t ∧
    (t.streamAt i.tile i.stream).noBrew = (s.streamAt i.tile i.stream).issued.noBrew ∧
    (t.tileAt i.tile).bank = (s.tileAt i.tile).bank ∧ (t.tileAt i.tile).vreg = (s.tileAt i.tile).vreg ∧ t.mem = s.mem ∧ OthersCalm i s t ∧
    let w := i.word
    let x := s.streamAt i.tile i.stream
    let f := (s.resolveFmt x.part (extF w 117 98) x.step (extF w 93 90)).1
    let md := if extF w 93 90 = 12 then Rnd.sr else Rnd.ofCode (extF w 95 94)
    let cv := convSlice f md (w.ext.getLsbD 32) (w.ext.getLsbD 33)
      (fun r c => s.srAt x.part (extF w 117 98) x.step 0 (immF w 13 0) ((s.getS i (rn w.srcb)).toNat * 16384 + 128 * r + c))
      (fun r c => (((s.tileAt i.tile).bankAt (rn w.srca)).readVal (128 * r + c)).1)
    ∀ a, (t.tileAt i.tile).lsRead i.stream a 1 =
      (((s.tileAt i.tile).lsWrite i.stream (256 * extF w 76 64) cv.elems).lsWrite i.stream (256 * extF w 89 77) cv.plane).lsRead i.stream a 1

/-- ACC.ACQ and ACC.REL (R133): a free bank becomes the stream's, its own stays its own, another's, or one an ended program of the stream is leaving
(R134), keeps the stream waiting at the instruction; a bank
released with no stream waiting for it is free, and the release of a bank the stream does not own changes nothing. -/
def Claim.BankOwnership : Prop :=
  (∀ i s, Runs i (needsAccOwn i s) s → ∃ t, exec (.accAcq i) s = .next t ∧ SameOutside i.tile s t ∧ OtherStreams i s t ∧
    (((s.tileAt i.tile).bankAt (rn i.word.dst)).owner = none →
      (t.tileAt i.tile).bankAt (rn i.word.dst) = { (s.tileAt i.tile).bankAt (rn i.word.dst) with owner := some i.stream } ∧
        StreamIs i s t (s.streamAt i.tile i.stream).issued) ∧
    (((s.tileAt i.tile).bankAt (rn i.word.dst)).ownedBy i.stream = true → (t.tileAt i.tile).bank = (s.tileAt i.tile).bank ∧
        StreamIs i s t (s.streamAt i.tile i.stream).issued) ∧
    (((s.tileAt i.tile).bankAt (rn i.word.dst)).owner ≠ none → ((s.tileAt i.tile).bankAt (rn i.word.dst)).ownedBy i.stream = false →
      (t.tileAt i.tile).bank = (s.tileAt i.tile).bank ∧
      (t.streamAt i.tile i.stream).pc = (s.streamAt i.tile i.stream).pc ∧ (t.streamAt i.tile i.stream).waiting = true ∧
      (t.streamAt i.tile i.stream).cause = .dep ∧ (t.tileAt i.tile).acqs = (s.tileAt i.tile).acqs ++ [(rn i.word.dst, i.stream)])) ∧
  (∀ i s, Runs i (needsAccRel i s) s → ∃ t, exec (.accRel i) s = .next t ∧ SameOutside i.tile s t ∧
    (((s.tileAt i.tile).bankAt (rn i.word.dst)).ownedBy i.stream = true → (s.tileAt i.tile).acqs = [] →
      (t.tileAt i.tile).bankAt (rn i.word.dst) = { (s.tileAt i.tile).bankAt (rn i.word.dst) with owner := none } ∧ OtherStreams i s t) ∧
    (((s.tileAt i.tile).bankAt (rn i.word.dst)).ownedBy i.stream = false → (t.tileAt i.tile).core = (s.tileAt i.tile).core ∧ OtherStreams i s t))

/-- EXPSCAN (R90): sD takes the ANCHOR of the two sides' largest exponents, −32 + ADJ where a side has no non-zero finite element, sign-extended. -/
def Claim.Expscan : Prop :=
  ∀ i s, Runs i (needsExpscan i s) s → ∃ t, exec (.expscan i) s = .next t ∧ OnlyOwnStream i s t ∧
    let w := i.word
    let v := (s.getS i (rn w.srca)).toNat
    let a := scanExp (s.tileAt i.tile) i.stream (extF w 76 64) (extF w 86 77) (extF w 113 110) (bits v 12 0)
    let b := scanExp (s.tileAt i.tile) i.stream (extF w 99 87) (extF w 109 100) (extF w 117 114) (bits v 28 16)
    StreamIs i s t ((s.streamAt i.tile i.stream).issued.writeS (rn w.dst) (BitVec.ofInt 64 (scanAnchor a b (sext 6 (immF w 5 0)))))

/-- Accumulator banks: ACC instructions, ownership, EXPSCAN. The whole of what its parts say.
Model's choices it rests on: log 8, 13, 47, 91. -/
def Obligations.AccumulatorBanks : Prop :=
  Claim.Banks ∧ Claim.AccOut ∧ Claim.BankOwnership ∧ Claim.Expscan

/-- Lane results on fault-free lanes (R93, Table 07-15): the destination register holds, lane by lane, what the opcode computes from the operands read
before it is written; no other register, and nothing outside the stream, changes. -/
def Claim.VectorLanes : Prop :=
  ∀ i s, i.hw.mainErr = [] → i.hw.shadowErr = [] →
    let f := i.word.func.toNat
    let A := s.getV i (rn i.word.srca)
    let B := s.getV i (rn i.word.srcb)
    let D := s.getV i (rn i.word.dst)
    let writes := fun (c : Instr) (xs : List Lane) => ∃ t, exec c s = .next t ∧ VectorIs i s t (rn i.word.dst) xs ∧ OnlyVectors i s t ∧
      StreamIs i s t (s.streamAt i.tile i.stream).issued
    (Runs i (needsVfp i s) s → writes (.vfp i) (List.zipWith (vfpOp f) A B)) ∧
    (Runs i (needsVfma i s) s → writes (.vfma i) (List.zipWith (fun p d => fFma p.1 p.2 d) (A.zip B) D)) ∧
    (Runs i (needsVfun i s) s → writes (.vfun i) (A.map (vfunOp f))) ∧
    (Runs i (needsVint i s) s → writes (.vint i) (List.zipWith (vintOp f) A B)) ∧
    (Runs i (needsVcmp i s) s → writes (.vcmp i) (List.zipWith (fun a b => if vcmpOp f a b then 0xFFFFFFFF else 0) A B)) ∧
    (Runs i (needsVsel i s) s → writes (.vsel i) (List.zipWith (fun p d => if d ≠ 0 then p.1 else p.2) (A.zip B) D)) ∧
    (Runs i (needsVs i s) s → writes (.vbcast i) (List.replicate 128 (low32 (s.getS i (rn i.word.srca))))) ∧
    (Runs i (needsVs i s) s →
      writes (.viota i) ((List.range 128).map fun n => low32 (s.getS i (rn i.word.srca)) + BitVec.ofNat 32 n)) ∧
    (Runs i (needsVld i s) s → writes (.vld i) (bytesLanes ((s.tileAt i.tile).lsRead i.stream (lsAddr i s) 512)))

/-- VEXT and VRED on fault-free lanes (R94, Table 07-15): sD takes one lane, or the tree sum, maximum or minimum of n registers, zero-extended. -/
def Claim.VectorScalars : Prop :=
  ∀ i s, i.hw.mainErr = [] → i.hw.shadowErr = [] →
    (Runs i (needsVext i s) s → ∃ t, exec (.vext i) s = .next t ∧ OnlyOwnStream i s t ∧
      StreamIs i s t ((s.streamAt i.tile i.stream).issued.writeS (rn i.word.dst)
        (BitVec.ofNat 64 ((s.getV i (rn i.word.srca)).getD (immF i.word 6 0) 0).toNat))) ∧
    (Runs i (needsVred i s) s → ∃ t, exec (.vred i) s = .next t ∧ OnlyOwnStream i s t ∧
      StreamIs i s t ((s.streamAt i.tile i.stream).issued.writeS (rn i.word.dst)
        (BitVec.ofNat 64 (treeReduce (fun _ a b => vredOp i.word.func.toNat a b) 0
          ((List.range (vredN i)).flatMap fun n => s.getV i (rn i.word.srca + n))).toNat)))

/-- A shadow lane that disagrees with its main lane (R170, R334): the result of a two-operand floating-point instruction is written nowhere, waits for its
settlement with a scoreboard entry on its destination, and the stream goes on. -/
def Claim.VectorDispute : Prop :=
  ∀ i s l e p, Runs i (needsVfp i s) s → s.physOf i.tile = some p → i.hw.shadowErr = [] → i.hw.mainErr = [(l, e)] → e ≠ 0 → l < 128 →
    l / 16 = (s.ptileAt p).vxCount % 8 → ∃ t h en, exec (.vfp i) s = .next t ∧ (t.tileAt i.tile).vreg = (s.tileAt i.tile).vreg ∧
      (t.tileAt i.tile).vxHeld = (s.tileAt i.tile).vxHeld ++ [h] ∧ h.lane = l ∧ h.dstV = some (rn i.word.dst) ∧
      h.truth = List.zipWith (vfpOp i.word.func.toNat) (s.getV i (rn i.word.srca)) (s.getV i (rn i.word.srcb)) ∧
      (t.tileAt i.tile).sb = (s.tileAt i.tile).sb ++ [en] ∧ en.writes = [.v (rn i.word.dst)] ∧ en.op = h.id ∧
      (t.streamAt i.tile i.stream).pc = (s.streamAt i.tile i.stream).pc + 16

/-- VCVT and VLDS on fault-free lanes (R166, R167): narrowing packs 128 elements in the format named or in force, with block scales in lane 127;
widening, and a line of local store, give FP32. Local store, banks, the other vector registers and package memory are as before. -/
def Claim.VectorConversions : Prop :=
  ∀ i s, i.hw.mainErr = [] → i.hw.shadowErr = [] →
    let w := i.word
    let x := s.streamAt i.tile i.stream
    let src := s.getV i (rn w.srca)
    let writes := fun (c : Instr) (xs : List Lane) => ∃ t, exec c s = .next t ∧ VectorIs i s t (rn w.dst) xs ∧
      StreamIs i s t x.issued ∧ OtherStreams i s t ∧ t.mem = s.mem ∧ (t.tileAt i.tile).ls = (s.tileAt i.tile).ls ∧
      (t.tileAt i.tile).bank = (s.tileAt i.tile).bank ∧ (t.tileAt i.tile).sc = (s.tileAt i.tile).sc
    (Runs i (needsVcvt i s) s → w.func = 0 →
      let f := (s.resolveFmt x.part (vxTensor w) x.step (vxFmt w)).1
      let base := if isNone w.srcb then 0 else (s.getS i (rn w.srcb)).toNat
      let cv := convLanes f (if vxFmt w = 12 then .sr else vxRnd w) (vxSat w)
        (fun k => s.srAt x.part (vxTensor w) x.step 0 (vxLane w) (base + k)) (src.map f32)
      writes (.vcvt i) (packRegister f cv.1 cv.2.1 (decide (vxFmt w = 12)))) ∧
    (Runs i (needsVcvt i s) s → w.func ≠ 0 →
      writes (.vcvt i) ((convLanes 0 (vxRnd w) (vxSat w) (fun _ => 0) (packedVals (vxFmt w) src)).1.map (BitVec.ofNat 32))) ∧
    (Runs i (needsVlds i s) s → vxFmt w ≠ 0 →
      writes (.vlds i) ((convLanes 0 (vxRnd w) (vxSat w) (fun _ => 0) (lineVals i s)).1.map (BitVec.ofNat 32))) ∧
    (Runs i (needsVlds i s) s → vxFmt w = 0 →
      writes (.vlds i) ((List.range 128).map fun k =>
        BitVec.ofNat 32 (elemAt (rdOf ((s.tileAt i.tile).lsRead i.stream (lineBase w) (sliceBytes 0)).toArray) 0
          (128 * (lineRC w k).1 + (lineRC w k).2))))

/-- Vector instructions: lanes, scalars, conversions, a shadow-lane dispute. The whole of what its parts say.
Model's choices it rests on: log 7, 13, 47, 65. -/
def Obligations.VectorOperations : Prop :=
  Claim.VectorLanes ∧ Claim.VectorScalars ∧ Claim.VectorDispute ∧ Claim.VectorConversions

/-- COPY.IN, COPY.OUT and COPY.TT issued (R171, R172, R184): the copy its fields describe is last in the tile's queue, with a scoreboard entry of cause
COPY; memory, local store, vector registers, banks, counters, the other streams and the partitions are as before, and of the other tiles
TILE_XHAZ alone may change (R126). -/
def Claim.CopiesIssue : Prop :=
  ∀ i s,
    let queued := fun (c : Instr) (dir : CopyDir) => ∃ (t : State) (e : SbEntry), exec c s = .next t ∧
      (t.streamAt i.tile i.stream).noBrew = (s.streamAt i.tile i.stream).issued.noBrew ∧ OtherStreams i s t ∧
      (t.tileAt i.tile).copyQ.map Copy.asked =
        (s.tileAt i.tile).copyQ.map Copy.asked ++ [(cpOf dir i (s.streamAt i.tile i.stream).pc s).asked] ∧
      (t.tileAt i.tile).sb = (s.tileAt i.tile).sb ++ [e] ∧ e.op = s.nextId ∧ e.stream = i.stream ∧ e.cause = .copy ∧
      (t.tileAt i.tile).noCopies = (s.tileAt i.tile).noCopies ∧ (∀ m, m ≠ i.tile → { (t.tileAt m).noQueue with xhaz := 0 } = { (s.tileAt m).noQueue with xhaz := 0 }) ∧
      t.mem = s.mem ∧ t.part = s.part
    (Runs i (needsCopy .in_ i s) s → queued (.copyIn i) .in_) ∧ (Runs i (needsCopy .out i s) s → queued (.copyOut i) .out) ∧
      (Runs i (needsCopy .tt i s) s → queued (.copyTt i) .tt)

/-- A copy that meets an error (R157, R186): a local-store word or a memory line it cannot read ends it with a deferred LS_UNCORR or MEM_UNCORR and
nothing of it moved; DEFERRED_FAULT then records the oldest such fault against its own instruction, with its code and detail, and the stream has
no program any more. -/
def Claim.DeferredFaults : Prop :=
  (∀ n k hw s c w, n < nTiles → (s.tileAt n).copyQ[k]? = some c → CopyDue n c hw s → s.copyBadWord n c hw = some w →
    ∃ t, exec (.copyComplete n k hw) s = .next t ∧ t.mem = s.mem ∧ (∀ m, (t.tileAt m).ls = (s.tileAt m).ls) ∧
      (t.tileAt n).copyQ = (s.tileAt n).copyQ.filter (fun x => decide (x.id ≠ c.id)) ∧
      ∃ d c', (s.tileAt n).copyQ.find? (fun x => decide (x.id = c.id)) = some c' ∧ (t.tileAt n).deferred = (s.tileAt n).deferred ++ [d] ∧
        d.stream = c'.stream ∧ d.pc = c'.pc ∧ d.code = 0x21 ∧ d.detail = BitVec.ofNat 64 (8 * w)) ∧
  (∀ n s d rest, n < nTiles → (s.tileAt n).deferred = d :: rest → (s.streamAt n d.stream).run = true →
    ∃ t, exec (.deferredFault n) s = .next t ∧ (t.tileAt n).deferred = rest ∧ (t.streamAt n d.stream).run = false ∧
      (t.streamAt n d.stream).fault = { valid := true, code := d.code, pc := d.pc, detail := d.detail } ∧
      (∀ m, (t.tileAt m).ls = (s.tileAt m).ls) ∧ t.mem = s.mem)

/-- Copies are queued at issue; faults detected after issue. The whole of what its parts say.
Model's choices it rests on: log 15, 16. -/
def Obligations.CopiesStart : Prop :=
  Claim.CopiesIssue ∧ Claim.DeferredFaults

/-- COPY_COMPLETE (R172, R184, R196): a copy with nothing outstanding and no error ends: its queue and scoreboard entries free, its completion signal, if
asked for and not held by a brew, goes last to the destination members with a share (or to the issuing tile); a copy into local store leaves
package memory alone, and a single slice copied out writes the lines of its frame alone. -/
def Claim.CopiesComplete : Prop :=
  ∀ n k hw s c, n < nTiles → (s.tileAt n).copyQ[k]? = some c → CopyDue n c hw s → hw.convErr = 0 →
    s.copyBadWord n c hw = none → (s.eccRead hw (s.copyReads n c)).2 = none →
    ∃ t, exec (.copyComplete n k hw) s = .next t ∧
      (t.tileAt n).copyQ = (s.tileAt n).copyQ.filter (fun x => decide (x.id ≠ c.id)) ∧
      (t.tileAt n).sb = (s.tileAt n).sb.filter (fun e => decide (e.op ≠ c.id)) ∧
      t.sigs = s.sigs ++ (if c.sigen && !c.inBrew then
        [c.sig n (if c.dir = .out then [n] else c.members.filter fun m => decide (c.shareOf m ≠ 0))] else []) ∧
      (∀ m, SameUnits (s.tileAt m) (t.tileAt m)) ∧ (c.dir ≠ .out → t.mem = s.mem) ∧ (c.inBrew = true → (s.streamAt n c.stream).brew.phase = .open_ → t.mem = s.mem) ∧
      (c.dir = .out → c.inBrew = false → c.count = 1 →
        let m := s.copySlice n c 0
        t.mem = ((s.copyOut n c (c.frame 0) m.elems).copyOut n c (c.frame 0 + framePlane c.mfmt) m.plane).mem ∧
        ∀ m, (t.tileAt m).ls = (s.tileAt m).ls)

/-- A slice copied between equal formats is moved unchanged (R171): one slice without scale plane arrives byte for byte in the local store of the
destination, from memory or from the issuing tile's local store, and every other byte of local store stands. -/
def Claim.EqualFormatsMove : Prop :=
  ∀ n k hw s c m, n < nTiles → (s.tileAt n).copyQ[k]? = some c → s.copyReady n c = true → hw.convErr = 0 →
    s.copyBadWord n c hw = none → (s.eccRead hw (s.copyReads n c)).2 = none →
    c.dir ≠ .out → c.count = 1 → c.members = [m] → c.lfmt = c.mfmt → c.lfmt ≠ 12 → isMx c.lfmt = false → c.trans = false → c.inBrew = false →
    ∃ t, exec (.copyComplete n k hw) s = .next t ∧
      let bytes := if c.dir = .in_ then s.copyBytes n c c.addr (sliceBytes c.lfmt) else (s.tileAt n).lsRaw (256 * c.loff) (sliceBytes c.lfmt)
      let off := 256 * if c.dir = .in_ then c.loff else c.dst
      (t.tileAt m).lsRaw off (sliceBytes c.lfmt) = bytes ∧
      (∀ a, a < off ∨ off + sliceBytes c.lfmt ≤ a → Map.get 0 (t.tileAt m).ls a = Map.get 0 (s.tileAt m).ls a) ∧
      (∀ q, q ≠ m → (t.tileAt q).ls = (s.tileAt q).ls) ∧ t.mem = s.mem

/-- GATHER_COMPLETE (R173, R202, R316): where nothing it writes is held, a refused GATHER stamps all ones and its code; a complete one whose slices are as
many as COUNT asks, each of the version expected where that is checked, stamps the lowest version with bit 32 telling whether versions differ, writes
status 0, and leaves the table. -/
def Claim.GathersComplete : Prop :=
  ∀ id s o, s.opOf id = some o → o.kind = 8 →
    let w := ((o.joiners.find? fun j => decide (j.rank = 0)).getD
      (o.joiners.headD { tile := 0, rank := 0, pc := 0, addr := 0, sigen := false, k := 0 })).word
    let c := gaCopy w { id := id, joiners := o.joiners, part := o.part, stream := o.stream, step := o.step, lane := 0 }
    let xs := o.gaSlices (c.real s c.mfmt)
    let low := xs.foldl (fun m x => min m x.1) (2 ^ 32 - 1)
    let stamped := fun (t : State) (v : Word) => ∀ j ∈ o.joiners, 1 ≤ rn j.word.dst → rn j.word.dst ≤ 11 →
      (t.streamAt j.tile o.stream).readS (rn j.word.dst) = v
    (∀ e, o.ended = some e → s.linesWait [(o.addr + 0x38, 8)] = false → ∃ t, exec (.gatherComplete id) s = .next t ∧ stamped t (BitVec.allOnes 64) ∧ t.opOf id = none ∧
      (∀ n, (t.tileAt n).ls = (s.tileAt n).ls) ∧
      t.mem = (s.pkgWrite none (o.addr + 0x38)
        (natLe 8 (e.1 + e.2.1 % 65536 * 65536 + (if 1 ≤ e.1 ∧ e.1 ≤ 3 then e.2.2.toNat else 0) * 2 ^ 32))).mem) ∧
    (o.ended = none → o.complete = true → s.gaHeld o w c = false → xs.length = c.count →
      (∀ j ∈ o.joiners, gaCheck j.word = true → ∀ x ∈ xs, j.expect.toNat = x.1) →
      ∃ t, exec (.gatherComplete id) s = .next t ∧ t.opOf id = none ∧
        stamped t (BitVec.ofNat 64 (low + b2n (xs.any fun x => decide (x.1 ≠ low)) * 2 ^ 32)) ∧
        (gaExt w = false → t.mem = (s.pkgWrite none (o.addr + 0x38) (natLe 8 0)).mem) ∧
        ∀ j ∈ o.joiners, ∀ e ∈ (t.tileAt j.tile).sb, e.op ≠ id)

/-- Copies and gathers complete. The whole of what its parts say.
Model's choices it rests on: log 5, 15, 16. -/
def Obligations.CopiesFinish : Prop :=
  Claim.CopiesComplete ∧ Claim.EqualFormatsMove ∧ Claim.GathersComplete

/-- BREW.OPEN (R174): at depth 0 a brew opens at depth 1 with its resume point, its status register 0, the next serial, the registers as its
snapshot and nothing staged; above depth 0 the depth alone rises. -/
def Claim.BrewOpens : Prop :=
  ∀ i s, Runs i (needsBrewOpen i s) s → ∃ t, exec (.brewOpen i) s = .next t ∧ SameOutside i.tile s t ∧ OtherStreams i s t ∧
    (t.tileAt i.tile).core = (s.tileAt i.tile).core ∧
    let x := s.streamAt i.tile i.stream
    let y := t.streamAt i.tile i.stream
    (x.brew.depth = 0 →
      y.noBrew = { (x.issued.writeS (rn i.word.dst) 0) with
        tstat := { x.tstat with openPc := x.pc, serial := x.tstat.serial + 1 }, brew := {} } ∧
      y.brew.phase = .open_ ∧ y.brew.depth = 1 ∧ y.brew.openPc = x.pc ∧ y.brew.resume = target x.pc i.word ∧ y.brew.statusReg = rn i.word.dst ∧
      y.brew.serial = x.tstat.serial + 1 ∧ y.brew.preS = (List.range 11).map (fun r => (r + 1, y.readS (r + 1))) ∧ y.brew.lsBytes = [] ∧
      y.brew.extBytes = [] ∧ y.brew.held = []) ∧
    (x.brew.depth ≠ 0 → y.noBrew = x.issued.noBrew ∧ y.brew.depth = x.brew.depth + 1 ∧ y.brew.phase = x.brew.phase ∧ y.brew.resume = x.brew.resume ∧
      y.brew.lsBytes = x.brew.lsBytes ∧ y.brew.extBytes = x.brew.extBytes ∧ y.brew.held = x.brew.held)

/-- BREW.POUR (R215): a nested pour lowers the depth; the outermost one locks every line of its write set, writes the body of its commit record to the
tile's journal slot, and waits for its COMMIT word with cause BREW. BREW.ABORT spills with code 6 and its user code (R174). -/
def Claim.BrewPours : Prop :=
  (∀ i s, Runs i (needsBrewPour i s) s → 1 < (s.streamAt i.tile i.stream).brew.depth → ∃ t, exec (.brewPour i) s = .next t ∧
    SameOutside i.tile s t ∧ OtherStreams i s t ∧ (t.streamAt i.tile i.stream).noBrew = (s.streamAt i.tile i.stream).issued.noBrew ∧
    (t.streamAt i.tile i.stream).brew.depth = (s.streamAt i.tile i.stream).brew.depth - 1 ∧
    (t.streamAt i.tile i.stream).brew.lsBytes = (s.streamAt i.tile i.stream).brew.lsBytes ∧
    (t.streamAt i.tile i.stream).brew.phase = (s.streamAt i.tile i.stream).brew.phase) ∧
  (∀ i s, Runs i (needsBrewPour i s) s → (s.streamAt i.tile i.stream).brew.depth = 1 → ∃ t, exec (.brewPour i) s = .next t ∧
    let x := s.streamAt i.tile i.stream
    let lines := sortNat x.brew.extLines
    t.locks = s.locks ++ lines.map (fun l => (l, i.tile, i.stream.code)) ∧
    t.mem = (s.pkgWrite none ((s.partAt x.part).tileSlot i.tile + 8)
      (recordBody i.tile i.stream.code lines (sortNat x.brew.lsGran) (lines.flatMap x.brew.lineBytes))).mem ∧
    (t.streamAt i.tile i.stream).brew.phase = .poured ∧ (t.streamAt i.tile i.stream).pc = x.pc + 16 ∧
    (t.streamAt i.tile i.stream).waiting = true ∧ (t.streamAt i.tile i.stream).cause = .brew ∧
    (t.streamAt i.tile i.stream).sreg = x.sreg ∧ (t.tileAt i.tile).ls = (s.tileAt i.tile).ls) ∧
  (∀ i s, Runs i (needsBrewAbort i s) s → (s.streamAt i.tile i.stream).brew.phase = .open_ → ∃ t, exec (.brewAbort i) s = .next t ∧
    Spilled i.tile i.stream 6 (immF i.word 7 0) s t)

/-- BREW.OPEN and BREW.POUR. The whole of what its parts say.
Model's choices it rests on: log 17, 18. -/
def Obligations.BrewsOpenAndPour : Prop :=
  Claim.BrewOpens ∧ Claim.BrewPours

/-- BREW_COMMIT (R215, R217): with the COMMIT word written, every byte of a staged granule is what the stream read there, every other byte of local
store stands, nothing stays staged, the staged lines wait for their write-back, and BRW_CNT of code 0 gains 1. -/
def Claim.BrewCommits : Prop :=
  ∀ n st s, n < nTiles → (s.streamAt n st).brew.phase = .poured → ∃ t, exec (.brewCommit n st) s = .next t ∧
    let b := (s.streamAt n st).brew
    let x := t.streamAt n st
    (∀ a, a / 256 ∈ b.lsGran → [Map.get 0 (t.tileAt n).ls a] = (s.tileAt n).lsRead st a 1) ∧
    (∀ a, a / 256 ∉ b.lsGran → Map.get 0 (t.tileAt n).ls a = Map.get 0 (s.tileAt n).ls a) ∧
    t.mem = (s.pkgWrite none ((s.partAt (s.streamAt n st).part).tileSlot n) (commitWord b.serial 0 false)).mem ∧
    x.brew.phase = .idle ∧ x.brew.lsBytes = [] ∧ x.brew.extBytes = [] ∧ x.brew.held = [] ∧ x.tstat.code = 0 ∧
    (∃ w, x.wb = some w ∧ w.lines = sortNat b.extLines ∧ w.bytes = (sortNat b.extLines).flatMap b.lineBytes) ∧
    Map.get 0 (t.tileAt n).brwCnt (8 * st.code) = satAdd max48 (Map.get 0 (s.tileAt n).brwCnt (8 * st.code))

/-- BREW_WRITEBACK_DONE (R215, R226), with no update operation waiting to write its status: every line of the record stands in memory, the locks of its
brew are gone, DONE stands in the slot; so for a tile's brew, and for an engine's slice. The line at place j of the write-back takes bytes 64 j to
64 j + 63. -/
def Claim.BrewWritesBack : Prop :=
  ∀ s w, (∀ o ∈ s.ops, o.kind = 16 → o.shards ≠ []) → w.lines.Nodup → (∀ l ∈ w.lines, l % 64 = 0) → w.bytes.length = 64 * w.lines.length →
    (∀ k b, k < 8 → place s.pkg (w.slot + k) = .mem b → b / 64 * 64 ∉ w.lines) →
    let home := fun (t : State) (owner : Nat × Nat) (kind : Nat) => (∀ l ∈ t.locks, l.2 ≠ owner) ∧
      (∀ j l k, w.lines[j]? = some l → k < 64 → Map.get 0 t.mem (l + k) = w.bytes.getD (64 * j + k) 0) ∧
      (∀ a, a / 64 * 64 ∉ w.lines → (∀ k, k < 8 → place s.pkg (w.slot + k) ≠ .mem a) → Map.get 0 t.mem a = Map.get 0 s.mem a) ∧
      (place s.pkg w.slot = .mem w.slot → w.slot % 64 = 0 → t.memRead w.slot 8 = commitWord w.serial kind true)
    (∀ n st, n < nTiles → (s.streamAt n st).wb = some w → ∃ t, exec (.brewWritebackDone (.tile n st)) s = .next t ∧
      (t.streamAt n st).wb = none ∧ (t.tileAt n).ls = (s.tileAt n).ls ∧ home t (n, st.code) 0) ∧
    (∀ die l slot, die < nDies → l < 3 → (s.engineAt (3 * die + l)).wbs.find? (fun x => decide (x.1 = slot)) = some (slot, w) →
      ∃ t, exec (.brewWritebackDone (.engine die l slot)) s = .next t ∧
        (t.engineAt (3 * die + l)).wbs = (s.engineAt (3 * die + l)).wbs.filter (fun x => decide (x.1 ≠ slot)) ∧
        home t (engineOwner (3 * die + l), slot) 1)

/-- Spills that other events bring (R214, R228, R373): a brew another agent wrote into spills with code 1; one still open 1 ms after a park or a
partition change of its tile spills with code 4. -/
def Claim.BrewSpills : Prop :=
  (∀ n st s, n < nTiles → (s.streamAt n st).brew.phase = .open_ → (s.streamAt n st).brew.conflict = true →
    ∃ t, exec (.brewConflictSpill n st) s = .next t ∧ Spilled n st 1 0 s t ∧ (t.streamAt n st).brew.spilled = true) ∧
  (∀ n st s h, n < nTiles → (s.streamAt n st).brew.phase = .open_ → (s.streamAt n st).halt = some h → h.steps = none →
    ∃ t, exec (.brewSpillTimeout n st) s = .next t ∧ Spilled n st 4 0 s t ∧ (t.streamAt n st).brew.spilled = true) ∧
  (∀ n st s, n < nTiles → (s.streamAt n st).brew.phase = .open_ → (s.tileAt n).noOpen = true →
    ∃ t, exec (.brewSpillTimeout n st) s = .next t ∧ Spilled n st 4 0 s t)

/-- Brews commit, write back, spill. The whole of what its parts say.
Model's choices it rests on: log 12, 17, 18, 84. -/
def Obligations.BrewsEnd : Prop :=
  Claim.BrewCommits ∧ Claim.BrewWritesBack ∧ Claim.BrewSpills

/-- CL.ISSUE, UP.ISSUE and GATHER of a tile on its own (R178, R244, R315): with the descriptor accepted the operation enters the table, with its issuer,
partition, stream and step, and counts among the stream's outstanding ones; the scoreboard entry of a CL.ISSUE or UP.ISSUE frees at once, a
GATHER's stands. -/
def Claim.EngineIssues : Prop :=
  (∀ i s, Runs i (needsClIssue i s) s → (i.word.func.getLsbD 3 = true ∨ s.combining i.tile i.stream = none) →
    s.clBad (s.issuerPart i) (i.word.func.toNat % 8) (s.pkgRead (descAt i s) 256) = none →
    ∃ (t : State) (o : Op), exec (.clIssue i) s = .next t ∧ o ∈ t.ops ∧ o.id = s.nextId ∧ o.kind = i.word.func.toNat % 8 ∧ o.part = s.issuerPart i ∧
      o.stream = i.stream ∧ o.step = (s.streamAt i.tile i.stream).step ∧ o.addr = descAt i s ∧
      o.joiners = [joinerOf i (s.streamAt i.tile i.stream).pc 0 s] ∧
      (t.streamAt i.tile i.stream).opsOut = (s.streamAt i.tile i.stream).opsOut ++ [s.nextId] ∧
      (t.streamAt i.tile i.stream).sreg = (s.streamAt i.tile i.stream).sreg ∧
      (t.tileAt i.tile).sb = (s.tileAt i.tile).sb.filter fun e => decide (e.op ≠ s.nextId)) ∧
  (∀ i s, Runs i (needsUpIssue i s) s → (i.word.func.getLsbD 3 = true ∨ s.combining i.tile i.stream = none) →
    let d := s.pkgRead (descAt i s) 256
    let r := s.pkgRead (fld d 0x10 8) 64
    let x := s.streamAt i.tile i.stream
    s.upBad (s.issuerPart i) d r x.step = none → s.upRefusal d r ((s.namedShards (s.issuerPart i) d).getD []) x.step = 0 →
    ∃ (t : State) (o : Op), exec (.upIssue i) s = .next t ∧ o ∈ t.ops ∧ o.id = s.nextId ∧ o.kind = 16 ∧ o.part = s.issuerPart i ∧ o.stream = i.stream ∧
      o.step = x.step ∧ o.joiners = [joinerOf i x.pc 0 s] ∧ o.shards = (s.namedShards (s.issuerPart i) d).getD [] ∧ o.code = 0 ∧
      (t.streamAt i.tile i.stream).opsOut = x.opsOut ++ [s.nextId] ∧ t.mem = s.mem ∧
      (t.tileAt i.tile).sb = (s.tileAt i.tile).sb.filter fun e => decide (e.op ≠ s.nextId)) ∧
  (∀ i s, Runs i (needsGather i s) s → s.combining i.tile i.stream = none →
    s.gaBad (s.issuerPart i) (cpCount i.word) (s.pkgRead (descAt i s) 64) = none →
    ∃ (t : State) (o : Op) (e : SbEntry), exec (.gather i) s = .next t ∧ o ∈ t.ops ∧ o.id = s.nextId ∧ o.kind = 8 ∧ o.part = s.issuerPart i ∧
      o.joiners = [{ joinerOf i (s.streamAt i.tile i.stream).pc ((s.getS i (rn i.word.srcb)).setWidth 32) s with
        after := ((s.tileAt i.tile).pendingWrites i.stream).map (·.op) }] ∧
      (t.streamAt i.tile i.stream).opsOut = (s.streamAt i.tile i.stream).opsOut ++ [s.nextId] ∧
      (t.streamAt i.tile i.stream).sreg = (s.streamAt i.tile i.stream).sreg ∧
      (t.tileAt i.tile).sb = (s.tileAt i.tile).sb ++ [e] ∧ e.op = s.nextId ∧ e.stream = i.stream)

/-- DESC_INVALID (Table 07-5, R309, R315): a descriptor with a refused field starts nothing: no operation enters the table, and a fault of code 0x14 with
the lowest refused offset waits to be recorded. -/
def Claim.BadDescriptors : Prop :=
  ∀ i s off, (i.word.func.getLsbD 3 = true ∨ s.combining i.tile i.stream = none) →
    let refused := fun (c : Instr) => ∃ t, exec c s = .next t ∧ t.ops = s.ops ∧ t.mem = s.mem ∧ OtherStreams i s t ∧
      (t.streamAt i.tile i.stream).sreg = (s.streamAt i.tile i.stream).sreg ∧
      (t.tileAt i.tile).deferred = (s.tileAt i.tile).deferred ++
        [{ stream := i.stream, pc := (s.streamAt i.tile i.stream).pc, code := 0x14, detail := BitVec.ofNat 64 off }]
    (Runs i (needsClIssue i s) s → s.clBad (s.issuerPart i) (i.word.func.toNat % 8) (s.pkgRead (descAt i s) 256) = some off → refused (.clIssue i)) ∧
    (Runs i (needsUpIssue i s) s → s.upBad (s.issuerPart i) (s.pkgRead (descAt i s) 256) (s.pkgRead (fld (s.pkgRead (descAt i s) 256) 0x10 8) 64)
      (s.streamAt i.tile i.stream).step = some off → refused (.upIssue i)) ∧
    (Runs i (needsGather i s) s → s.combining i.tile i.stream = none →
      s.gaBad (s.issuerPart i) (cpCount i.word) (s.pkgRead (descAt i s) 64) = some off → refused (.gather i))

/-- Combined issues (R180): a member of a loaf whose fellows have not all issued joins the loaf's combined issue of its generation and class, and waits;
nothing starts. -/
def Claim.CombinedIssues : Prop :=
  ∀ i s l cls, cls = 1 ∨ cls = 2 ∨ cls = 3 → Runs i (if cls = 1 then needsClIssue i s else if cls = 2 then needsUpIssue i s else needsGather i s) s →
    (cls ≠ 3 → i.word.func.getLsbD 3 = false) → s.combining i.tile i.stream = some l →
    let x := s.streamAt i.tile i.stream
    let rank := (x.readS 13).toNat
    let same := fun (c : Comb) => c.loaf == l && c.stream == i.stream && decide (c.op = cls ∧ c.gen = s.genOf l i.stream 0 0 cls rank)
    let old := match s.comb.find? same with | some c => c.joined | none => []
    old.length + 1 < (s.loafTiles l).length →
    ∃ (t : State) (c : Comb), exec (if cls = 1 then .clIssue i else if cls = 2 then .upIssue i else .gather i) s = .next t ∧
      t.comb = s.comb.filter (fun d => !same d) ++ [c] ∧ same c = true ∧
      c.joined = old ++ [{ joinerOf i x.pc (if cls = 3 then (s.getS i (rn i.word.srcb)).setWidth 32 else 0) s with
        after := if cls = 3 then ((s.tileAt i.tile).pendingWrites i.stream).map (·.op) else [] }] ∧
      t.ops = s.ops ∧ t.mem = s.mem ∧ t.part = s.part ∧ (t.streamAt i.tile i.stream).opsOut = x.opsOut ++ [c.id] ∧ OtherStreams i s t ∧
      ∃ e, (t.tileAt i.tile).sb = (s.tileAt i.tile).sb ++ [e] ∧ e.op = c.id

/-- CL.ISSUE, UP.ISSUE and GATHER reach their engines. The whole of what its parts say.
Model's choices it rests on: log 20, 59, 62, 86, 105. -/
def Obligations.EnginesIssue : Prop :=
  Claim.EngineIssues ∧ Claim.BadDescriptors ∧ Claim.CombinedIssues

/-- HEALTH_FLUSH_ARRIVE (R105): the oldest flushed entry is added to its partition's record of its tensor and step, or, its step closed, counts in LATE
and nowhere else. STEP_CLOSE (R106, R115): when the oldest step may close, the next one is the oldest and the changes staged for it are in force; with
counting off CHAIN advances over the rows then valid (R114) and no operation is issued, with counting on the health reduction of the step is, for
the rows valid before and after. -/
def Claim.StepsClose : Prop :=
  (∀ n s e rest p, n < nTiles → ((s.tileAt n).flushPassed).flushQ = e :: rest → s.tilePart n = some p →
    ∃ t, exec (.healthFlushArrive n) s = .next t ∧
      ((s.partAt p).s0 = none ∨ (s.partAt p).oldest ≤ e.step.toNat → t.mem = (s.addRecord p e.tensor e.step.toNat e.cnt).mem ∧ t.part = s.part) ∧
      ((s.partAt p).s0.isSome = true → e.step.toNat < (s.partAt p).oldest → t.mem = s.mem ∧
        (t.partAt p).late = satAdd 65535 (s.partAt p).late)) ∧
  (∀ p s, p < nParts → s.mayClose p = true → (s.partAt p).oldest + 1 < 2 ^ 32 → ∃ t, exec (.stepClose p) s = .next t ∧
    let q := s.partAt p
    (t.partAt p).oldest = q.oldest + 1 ∧ (t.partAt p).closedAny = true ∧ q.oldest ∉ (t.partAt p).stepped ∧
    (∀ x ∈ (t.partAt p).staged, q.oldest + 1 < x.1.toNat) ∧
    let after := q.applyStaged (BitVec.ofNat 32 (q.oldest + 1))
    (t.partAt p).row = after.row ∧ (t.partAt p).slot = after.slot ∧
    (q.hvalid = false → (t.partAt p).chain = after.chainOn q.oldest ∧ t.ops = s.ops ∧ (t.partAt p).deciding = q.deciding) ∧
    (q.hvalid = true → (t.partAt p).chain = q.chain ∧
      (t.partAt p).deciding = q.deciding ++
        [{ step := q.oldest, op := s.nextId, slots := q.slot, pctrl := q.pctrl, rows := judgedRows q after, handoff := s.fw.handoff }] ∧
      ∃ o ∈ t.ops, o.id = s.nextId ∧ o.kind = 10 ∧ o.part = p ∧ o.step = BitVec.ofNat 32 q.oldest)) ∧
  (∀ p s, p < nParts → s.mayClose p = false → exec (.stepClose p) s = .next s)

/-- BLEND_DECIDE (R110, R113, R114, R19): when the reduction of the oldest closed step has every contribution or was refused, and the step did not close
in a handoff window that still stands, every row valid as it closed and not made valid by that close takes the decision of the sums of its slots,
other rows stand, CHAIN of the step is recorded and the log grows. -/
def Claim.BlendDecides : Prop :=
  ∀ p s d rest o, p < nParts → (s.partAt p).deciding = d :: rest → s.opOf d.op = some o → (o.complete = true ∨ o.ended.isSome = true) →
    (s.fw.handoff && d.handoff) = false → d.rows.Nodup →
    ∃ t, exec (.blendDecide p) s = .next t ∧ t.opOf o.id = none ∧ (t.partAt p).oldest = (s.partAt p).oldest ∧
      (t.partAt p).deciding = (s.partAt p).deciding.filter (fun x => decide (x.step ≠ d.step)) ∧
      Map.get (0, false) (t.partAt p).chainAt d.step = ((t.partAt p).chain, true) ∧ (s.partAt p).logNext < (t.partAt p).logNext ∧
      (∀ i ∈ d.rows, (t.partAt p).rowAt i = (((s.partAt p).rowAt i).decide_ (o.rowSum d i) d.step (s.partAt p).lag).1) ∧
      (∀ i, i ∉ d.rows → (t.partAt p).rowAt i = (s.partAt p).rowAt i)

/-- Steps close and the blend engine decides. The whole of what its parts say.
Model's choices it rests on: log 19, 47, 61, 92, 93, 95. -/
def Obligations.StepsAndBlend : Prop :=
  Claim.StepsClose ∧ Claim.BlendDecides

/-- The rule of R110 in its own words, for the summed counters of a row: FROZEN (an incomplete or saturated sum, a non-finite source, fewer elements than MIN_N) keeps the format, clears
HOLD_CNT, reason 1; else, below CEIL with its shadow rate above HI, the row widens to the narrowest format that fits, HOLD_CNT 0, reason 2; else, above FLOOR with the narrower format's rate at
or below its LO, HOLD_CNT gains 1 (65,535 at most) and, once it reaches HOLD, the row narrows one format with HOLD_CNT 0 and reason 3; else nothing but HOLD_CNT 0. PEND_FMT is CUR_FMT,
PEND_STEP s + LAG, LAST_STEP s, THRESHOLDS stand. -/
def Obligations.BlendRule : Prop :=
  ∀ (r : BlendRow) (c : RowSum) step lag,
    let w := r.word
    let el := c.cnt.getD 0 0
    let sh := fun (f : Nat) => if f = 0 then c.cnt.getD 6 0 else c.cnt.getD 7 0
    let hi := fun (f : Nat) => if f = 0 then rowHi43 w else rowHi52 w
    let lo := fun (f : Nat) => if f = 0 then rowLo43 w else rowLo52 w
    let beyond := fun (f : Nat) => hi f * el < sh f * 1000000
    let f := rowCur w
    let frozen := c.incomplete = true ∨ c.saturated = true ∨ 0 < c.cnt.getD 4 0 ∨ el < rowMinN w
    let wide := f < rowCeil w ∧ beyond f
    let narrow := rowFloor w < f ∧ sh (f - 1) * 1000000 ≤ lo (f - 1) * el
    let n := min (rowHoldCnt w + 1) 65535
    let out := (r.decide_ c step lag).1.word
    let reason := (r.decide_ c step lag).2
    (frozen → rowCur out = f ∧ rowHoldCnt out = 0 ∧ reason = 1) ∧
    (¬frozen → wide → f < rowCur out ∧ rowCur out ≤ rowCeil w ∧ (∀ g, f ≤ g → g < rowCur out → g = 2 ∨ beyond g) ∧
      (rowCur out < rowCeil w → rowCur out ≠ 2 ∧ ¬beyond (rowCur out)) ∧ rowHoldCnt out = 0 ∧ reason = 2) ∧
    (¬frozen → ¬wide → narrow → rowHold w ≤ n → rowCur out = f - 1 ∧ rowHoldCnt out = 0 ∧ reason = 3) ∧
    (¬frozen → ¬wide → narrow → n < rowHold w → rowCur out = f ∧ rowHoldCnt out = n ∧ reason = 0) ∧
    (¬frozen → ¬wide → ¬narrow → rowCur out = f ∧ rowHoldCnt out = 0 ∧ reason = 0) ∧
    rowPend out = rowCur out ∧ rowPendStep out = (step + lag) % 2 ^ 32 ∧ rowBits out 255 224 = step % 2 ^ 32 ∧ out &&& rowThreshMask = w &&& rowThreshMask

/-- UPDATE_SHARD_START (R240, R245): a served shard, neither PARTIAL nor refused, waits for its pins; with a guard sum that is not finite its step is
skipped, VERSION and TARGET taking the step; otherwise it is UPDATING toward the step with the scale of its guard (which a sparse update leaves
open), and the engine works on it, slices opened as far as slots are free. A PARTIAL shard of the same recipe goes on where it stopped (R248). -/
def Claim.ShardsStart : Prop :=
  ∀ die l i hw s o, die < nDies → l < 3 →
    let e := 3 * die + l
    let d := s.dirAt e i
    let r := s.pkgRead (fld o.desc 0x10 8) 64
    let works := fun (t : State) (again : Bool) => t.mem = s.mem ∧
      ∃ c, (t.engineAt e).cur = some c ∧ c.dir = i ∧ c.op = o.id ∧ c.recipe = r ∧ c.resumed = again ∧ c.committed = 0
    s.updateOf e i = some o → (s.engineAt e).cur = none → s.served e = true →
    (d.state ≠ .partial_ → recipeOk r o.step.toNat = true → o.bf16 = rSparse r → layoutOk r d = true → (rSparse r = true ∨ o.n2.isSome = true) →
      ∃ t, exec (.updateShardStart die l i hw) s = .next t ∧ (∀ j, j ≠ i → t.dirAt e j = s.dirAt e j) ∧
        (fld o.desc 0xC 4 % 2 = 0 → d.pins ≠ 0 → t.dirAt e i = { d with state := .waitpin } ∧ (t.engineAt e).cur = none ∧ t.mem = s.mem) ∧
        ((fld o.desc 0xC 4 % 2 = 1 ∨ d.pins = 0) →
          (∀ n2, rSparse r = false → o.n2 = some n2 → guardFactor r n2 = none →
            t.dirAt e i = { d with state := .idle, target := o.step, version := o.step, gscale := canonF32, rdig := recipeDigest r } ∧
            (t.engineAt e).cur = none) ∧
          (∀ n2 g, rSparse r = false → o.n2 = some n2 → guardFactor r n2 = some g →
            t.dirAt e i = { d with state := .updating, target := o.step, gscale := g, rdig := recipeDigest r } ∧ works t false) ∧
          (rSparse r = true → ∃ g, t.dirAt e i = { d with state := .updating, target := o.step, gscale := g, rdig := recipeDigest r } ∧ works t false))) ∧
    (d.state = .partial_ → d.rdig = recipeDigest r → ∃ t, exec (.updateShardStart die l i hw) s = .next t ∧
      t.dirAt e i = { d with state := .updating } ∧ works t true)

/-- UPDATE_SLICE_COMMIT (R217, R226, R246, R247, R257), for the slice brew in a journal slot that is not waiting for a retry, on a served shard whose
partition has a journal: with its lines readable, unlocked and not held the slice commits: its lines are locked, the record with DONE 0 stands in the
journal (the one change of memory with counting off), the new weights, moments and META line wait for their write-back, and the directory entry
stands; a write-set line locked by a pour, or a conflict, spills the brew and writes nothing; a line that cannot be read leaves the shard PARTIAL; a
lockstep disagreement is replayed twice. -/
def Claim.SlicesCommit : Prop :=
  ∀ die l slot hw s c b, die < nDies → l < 3 →
    let e := 3 * die + l
    let d := s.dirAt e c.dir
    let lines := d.writeLines e b.slice
    let brew := fun (f : SliceBrew → SliceBrew) => some { c with brews := c.brews.map fun x => if x.slot = slot then f x else x }
    (s.engineAt e).cur = some c → c.brews.find? (fun x => decide (x.slot = slot)) = some b → b.spilled = false → s.served e = true →
    (s.partAt d.part).jvalid = true → (∀ x ∈ d.readLines e b.slice ++ lines, s.lineHeld x = false) →
    (b.conflict = true → ∃ t, exec (.updateSliceCommit die l slot hw false) s = .next t ∧
      (t.engineAt e).cur = brew (fun x => { x with conflict := false, spilled := true }) ∧ t.mem = s.mem) ∧
    (∀ a, b.conflict = false → (s.eccRead hw (d.readLines e b.slice)).2 = some a → ∃ t, exec (.updateSliceCommit die l slot hw false) s = .next t ∧
      (t.engineAt e).cur = none ∧ (t.dirAt e c.dir).state = .partial_ ∧ (t.dirAt e c.dir).version = d.version) ∧
    (b.conflict = false → (s.eccRead hw (d.readLines e b.slice)).2 = none →
      let r := (s.eccRead hw (d.readLines e b.slice)).1
      let y := r.newSlice d.part e d c.recipe b.slice
      let old := r.metaLine d e b.slice
      let data := y.w ++ y.m ++ y.v ++ metaBytes d.target.toNat (if d.crust then fld old 0 4 else fld old 4 4) (sliceDigest y.w y.m y.v) old ++
        if d.crust then s.memRead (d.wAt e b.slice) 32768 else []
      ((∃ x ∈ lines, s.locked x = true) → ∃ t, exec (.updateSliceCommit die l slot hw false) s = .next t ∧
        (t.engineAt e).cur = brew (fun x => { x with spilled := true }) ∧ t.mem = s.mem) ∧
      ((∀ x ∈ lines, s.locked x = false) → ∃ t, exec (.updateSliceCommit die l slot hw false) s = .next t ∧
        t.locks = s.locks ++ lines.map (fun l => (l, engineOwner e, slot)) ∧
        (t.dirAt e c.dir).state = d.state ∧ (t.dirAt e c.dir).version = d.version ∧ (t.dirAt e c.dir).digest = d.digest ∧
        (∃ c', (t.engineAt e).cur = some c' ∧ c'.dir = c.dir ∧ c'.op = c.op ∧ c'.committed = c.committed + 1 ∧ ∀ x ∈ c'.brews, x.slot ≠ slot) ∧
        ∃ w, (t.engineAt e).wbs = (s.engineAt e).wbs ++ [(slot, w)] ∧ w.lines = lines ∧ w.bytes = data ∧ w.slot = (s.partAt d.part).engineSlot e slot ∧
          ((s.partAt d.part).hvalid = false →
            t.mem = (s.pkgWrite none w.slot (commitWord w.serial 1 false ++ recordBody e 0 lines [] data)).mem)) ∧
      (b.replays < 2 → ∃ t, exec (.updateSliceCommit die l slot hw true) s = .next t ∧
        (t.engineAt e).cur = brew (fun x => { x with replays := x.replays + 1 }) ∧ t.mem = s.mem) ∧
      (2 ≤ b.replays → ∃ t x, exec (.updateSliceCommit die l slot hw true) s = .next t ∧ s.serverOf e = some x ∧ (t.engineAt x).fenced = true ∧
        (t.engineAt e).cur = none ∧ (t.dirAt e c.dir).state = .partial_))

/-- ENGINE_BREW_RETRY (R226, R247): a spilled slice none of whose lines is locked or held is tried again, 16 times, and then leaves its shard PARTIAL;
while one is, nothing happens (R216). -/
def Claim.SlicesRetry : Prop :=
  ∀ die l slot s c b, die < nDies → l < 3 →
    let e := 3 * die + l
    let d := s.dirAt e c.dir
    (s.engineAt e).cur = some c → c.brews.find? (fun x => decide (x.slot = slot)) = some b → b.spilled = true →
    ((∃ x ∈ d.readLines e b.slice, s.locked x = true ∨ s.lineHeld x = true) → exec (.engineBrewRetry die l slot) s = .next s) ∧
    ((∀ x ∈ d.readLines e b.slice, s.locked x = false ∧ s.lineHeld x = false) → ∃ t, exec (.engineBrewRetry die l slot) s = .next t ∧
      (b.retries < 16 → t.dirAt e c.dir = d ∧ t.mem = s.mem ∧ (t.engineAt e).cur =
        some { c with brews := c.brews.map fun x => if x.slot = slot then { x with spilled := false, retries := b.retries + 1 } else x }) ∧
      (16 ≤ b.retries → (t.engineAt e).cur = none ∧ (t.dirAt e c.dir).state = .partial_ ∧ (t.dirAt e c.dir).version = d.version))

/-- UPDATE_SHARD_COMPLETE (R245): with every slice committed and home, and every META line readable, the shard is IDLE, VERSION is TARGET, DIGEST that of
its slices, and the engine is free; a META line that is not readable leaves it PARTIAL (R247). PIN_WAIT (R251) emits one crumb for each waiting update
and changes no directory entry. -/
def Claim.ShardsComplete : Prop :=
  (∀ die l hw s c, die < nDies → l < 3 →
    let e := 3 * die + l
    let d := s.dirAt e c.dir
    let r := s.eccRead hw ((List.range d.n).map (d.metaAt e))
    (s.engineAt e).cur = some c → d.n ≤ c.slice → c.brews = [] → (s.engineAt e).wbs = [] →
    ∃ t, exec (.updateShardComplete die l hw) s = .next t ∧ (t.engineAt e).cur = none ∧ (∀ j, j ≠ c.dir → t.dirAt e j = s.dirAt e j) ∧
      (t.dirAt e c.dir).pins = d.pins ∧
      (r.2 = none → (t.dirAt e c.dir).state = .idle ∧ (t.dirAt e c.dir).version = d.target ∧ (t.dirAt e c.dir).digest = r.1.shardDigest d e) ∧
      (r.2 ≠ none → (t.dirAt e c.dir).state = .partial_ ∧ (t.dirAt e c.dir).version = d.version)) ∧
  (∀ die l s x o, die < nDies → l < 3 →
    let e := 3 * die + l
    (s.engineAt e).dir.find? (s.pinCrumbDue e) = some x → s.updateOf e x.1 = some o →
    ∃ t, exec (.pinWait die l) s = .next t ∧ (∀ j, t.dirAt e j = s.dirAt e j) ∧ (t.engineAt e).pinWaited = (s.engineAt e).pinWaited ++ [o.id] ∧
      t.mem = s.mem ∧ (s.crumb.coalesce = [] → t.crumb.ctr = s.crumb.ctr + 1)) ∧
  (∀ die l s, die < nDies → l < 3 → (s.engineAt (3 * die + l)).dir.find? (s.pinCrumbDue (3 * die + l)) = none → exec (.pinWait die l) s = .next s)

/-- Shards start, slices commit or are tried again, shards complete. The whole of what its parts say.
Model's choices it rests on: log 5, 59, 60, 96. -/
def Obligations.ShardUpdates : Prop :=
  Claim.ShardsStart ∧ Claim.SlicesCommit ∧ Claim.SlicesRetry ∧ Claim.ShardsComplete

/-- GUARD_REDUCE_COMPLETE (R318): with a partial of every rank the updates the operation guards hold their tree sum; an ended one gives them code 9.
DIGEST_EXCHANGE (R253): a due record whose step has closed is exchanged by an operation of its replica group.
Model's choices it rests on: log 60. -/
def Obligations.GuardsAndDigests : Prop :=
  (∀ id s o, s.opOf id = some o → o.kind = 9 → o.ended = none →
    (∀ r, r < o.counts.headD 0 → (o.contrib.find? fun c => decide (c.2.1 = r)).isSome = true) →
    ∃ t, exec (.guardReduceComplete id) s = .next t ∧ t.opOf id = none ∧ t.mem = s.mem ∧
      ∀ u ∈ s.ops, u.guardId = some id → u.id ≠ id → ∃ v ∈ t.ops, v.id = u.id ∧ v.guardId = none ∧ v.code = u.code ∧
        v.n2 = some (fTree ((List.range (o.counts.headD 0)).filterMap fun r =>
          (o.contrib.find? fun c => decide (c.2.1 = r)).map fun c => f32Of c.2.2 0))) ∧
  (∀ id s o, s.opOf id = some o → o.kind = 9 → o.ended.isSome = true →
    ∃ t, exec (.guardReduceComplete id) s = .next t ∧ t.opOf id = none ∧
      ∀ u ∈ s.ops, u.guardId = some id → ∀ v ∈ t.ops, v.id = u.id → 9 ≤ v.code ∧ v.guardId = none) ∧
  (∀ die l i s x ch, die < nDies → l < 3 →
    let e := 3 * die + l
    (s.engineAt e).due.find? (fun x => decide (x.dir = i)) = some x → ((s.partAt x.part).cuts x.dgrp.toNat).isSome = true →
    (s.partAt x.part).chainBefore x.version.toNat = some ch → s.mayStart x.part = true →
    ∃ (t : State) (o : Op), exec (.digestExchange die l i) s = .next t ∧ o ∈ t.ops ∧ o.id = s.nextId ∧ o.kind = 11 ∧ o.dir = (e, i) ∧
      o.part = x.part ∧ o.step = x.version ∧ o.group = x.dgrp.toNat ∧ x ∉ (t.engineAt e).due ∧ t.dirAt e i = s.dirAt e i ∧ t.mem = s.mem)

/-- COLLECTIVE_MESSAGE_RECEIVE and CL_ABORT_RECEIVE (R266, R305, R306): a message that does not stand whole and first on a VC of the port is not there to be
taken. On a port the partition has not fenced, a message of its operation, in the range of
steps, with the tag, the kind and the shape of the operation, is taken into it; one with another tag ends it with code 1 and fences the port; one
that finds no operation waits in the early buffer; on a fenced port it is dropped. ABORT ends the operation with the code, the rank and the STEP it carries.
Model's choices it rests on: log 9, 61, 105. -/
def Obligations.CollectiveMessages : Prop :=
  ∀ port p m s, port < nPorts → p < nParts → (s.partAt p).job = true →
    let q := s.partAt p
    let o? := s.ops.find? fun o => o.matches p m
    let inRange := q.s0 = none ∨ (q.oldest ≤ m.step.toNat ∧ m.step.toNat ≤ q.oldest + 2)
    let here := fun (m : CollMsg) => (s.arrived port p (collHead m ++ m.data)).isSome = true
    (¬here m → exec (.collectiveMessageReceive port p m []) s = .next s) ∧
    (q.fence.getLsbD (s.portAt port).lport = true →
      (here m → ∃ t, exec (.collectiveMessageReceive port p m []) s = .next t ∧ t.ops = s.ops ∧ t.early = s.early ∧ t.mem = s.mem) ∧
      (here { m with op := 15 } → ∃ t, exec (.clAbortReceive port p m) s = .next t ∧ t.ops = s.ops ∧ t.early = s.early ∧ t.mem = s.mem)) ∧
    (∀ o, q.fence.getLsbD (s.portAt port).lport = false → o? = some o → o.ended = none →
      (here m → m.op ≠ 15 → inRange → m.tag = q.tagFor m.step → m.op.toNat = o.kind → m.shape = o.shape → (o.kind = 9 → o.guardClash m = false) →
        ∃ t, exec (.collectiveMessageReceive port p m []) s = .next t ∧ o.take m ∈ t.ops ∧ t.part = s.part ∧ t.mem = s.mem) ∧
      (here m → m.op ≠ 15 → inRange → m.tag ≠ q.tagFor m.step →
        ∃ t, exec (.collectiveMessageReceive port p m []) s = .next t ∧ { o with ended := some (1, m.src.toNat, m.step) } ∈ t.ops ∧
          (t.partAt p).fence = q.fence ||| (1#64 <<< (s.portAt port).lport) ∧ t.mem = s.mem) ∧
      (here { m with op := 15 } → ∃ t, exec (.clAbortReceive port p m) s = .next t ∧
        { o with ended := some (m.offset.toNat % 256, m.src.toNat, m.step) } ∈ t.ops ∧ t.part = s.part ∧ t.mem = s.mem)) ∧
    (here m → q.fence.getLsbD (s.portAt port).lport = false → o? = none → m.op ≠ 15 → inRange → q.seqOf m.group.toNat m.lane.toNat m.step.toNat ≤ m.seq.toNat →
      s.earlyBytes + 40 + m.data.length ≤ earlySize →
      ∃ t, exec (.collectiveMessageReceive port p m []) s = .next t ∧ t.early = s.early ++ [(port, p, m)] ∧ t.ops = s.ops ∧ t.mem = s.mem)

/-- COLLECTIVE_COMPLETE (R178, R216, R309–R314): a collective of Table 12-5 with every contribution, none of the lines it writes being locked or held, ends: it leaves the table, its issuers' outstanding
operations lose it, each issuer with SIGEN has its signal last on its way; the result vector holds the converted result and the status word, written last, is 0; one
that was ended has the status of its code. -/
def Claim.CollectivesComplete : Prop :=
  ∀ id s o, s.opOf id = some o → o.kind ≤ 4 → s.linesWait (s.clWrites o) = false →
    let done := fun (t : State) => t.opOf id = none ∧
      t.sigs = s.sigs ++ (o.joiners.filter fun j => j.sigen).map (fun j =>
        { src := j.tile, stream := o.stream, tiles := [j.tile], k := j.k, amount := 1, part := o.part, after := j.after }) ∧
      ∀ j ∈ o.joiners, id ∉ (t.streamAt j.tile o.stream).opsOut
    (o.ended = none → o.complete = true → s.clHas o .updating = false → s.clHas o .partial_ = false →
      ∃ t, exec (.collectiveComplete id) s = .next t ∧ done t ∧
        (clDshard o.desc = false → (s.partAt o.part).hvalid = false → t.mem =
          ((s.vecWrite none (fld o.desc 0x30 8) (fld o.desc 3 1) (s.clFmt o 3) 0 (s.clCodes o).1).pkgWrite none (o.addr + 248) (natLe 8 0)).mem) ∧
        (place s.pkg (o.addr + 248) = .mem (o.addr + 248) → o.addr % 64 = 0 → t.memRead (o.addr + 248) 8 = natLe 8 0)) ∧
    (∀ code prank pstep, o.ended = some (code, prank, pstep) →
      ∃ t, exec (.collectiveComplete id) s = .next t ∧ done t ∧
        (place s.pkg (o.addr + 248) = .mem (o.addr + 248) → o.addr % 64 = 0 → t.memRead (o.addr + 248) 8 =
          natLe 8 (code + prank % 65536 * 65536 + (if 1 ≤ code ∧ code ≤ 3 then pstep.toNat else 0) * 2 ^ 32)))

/-- KNEAD_SHARD_MOVE (R216, R322): with every chunk of a SHARD move here, and no line of its destination locked or held, the destination entry takes the source entry's fields at its own base and partition,
IDLE, its chunks stand in memory, and an entry moved within the package leaves its old place. -/
def Claim.ShardMoves : Prop :=
  ∀ id i s o m, s.opOf id = some o → (movesOf o.desc)[i]? = some m → o.kind = 5 → o.ended = none → m.shard = true → m.drank = o.rank →
    i ∉ o.moved → o.moveHere i m = true → s.linesWait [(m.daddr, chunk * m.n)] = false →
    let e := entryOf (((o.chunkData i (m.n - 1)).getD []).drop chunk) o.part (m.daddr % stackBytes)
    ∃ t, exec (.kneadShardMove id i) s = .next t ∧
      ((m.srank = o.rank → (entEngine m.sent, entIndex m.sent) ≠ (entEngine m.dent, entIndex m.dent)) →
        t.dirAt (entEngine m.dent) (entIndex m.dent) = e) ∧
      (m.srank = o.rank → t.dirAt (entEngine m.sent) (entIndex m.sent) = {}) ∧
      t.mem = (s.landMove o i m).mem ∧ { o with moved := o.moved ++ [i] } ∈ t.ops

/-- COLLECTIVE_RESEND and PEER_LOST_TIMEOUT (R325): a message lost on a port leaves, whole, on another port that serves its group's path; with no such
port for 1 s its operation ends, PEER_LOST, or FENCED where fenced ports alone remain. CL_STALL (R324) reports and counts a message that waits
unmatched, in the early buffer or first on its VC, and changes no operation. -/
def Claim.LostMessages : Prop :=
  (∀ port k s x n, (s.lost.filter fun x => decide (x.port = port))[k]? = some x →
    (List.range nPorts).find? (fun n => decide (n ≠ port) && s.portServes x.part (s.msgAxes x.part x.msg) n) = some n →
    ∃ t, exec (.collectiveResend port k) s = .next t ∧ t.lost = s.lost.erase x ∧
      (t.portAt n).queue = (s.portAt n).queue ++ flitsOf x.vc (.coll x.part x.dest x.vc x.msg) (collHead x.msg ++ x.msg.data) ∧
      t.outbox = s.outbox ++ [.coll n x.part x.dest x.msg] ∧ t.ops = s.ops ∧ t.mem = s.mem) ∧
  (∀ id s o x, s.opOf id = some o → o.ended = none →
    s.lost.find? (fun x => o.matches x.part x.msg && (s.otherPort x).isNone) = some x →
    ∃ (t : State) (code : Nat), exec (.peerLostTimeout id) s = .next t ∧ (code = 4 ∨ code = 6) ∧
      { o with ended := some (code, x.dest, 0) } ∈ t.ops ∧ (∀ y ∈ t.lost, y.msg.op ≠ 15 → o.matches y.part y.msg = false) ∧ t.mem = s.mem) ∧
  (∀ port vc p s, port < nPorts → p < nParts →
    ((s.early.any fun e => decide (e.1 = port ∧ e.2.1 = p ∧ vcOf e.2.2.op.toNat = vc)) = true ∨ ((s.portAt port).front vc).isSome = true) →
    ∃ t, exec (.clStall port vc p) s = .next t ∧ Map.get 0 (t.partAt p).clxCnt 7 = satAdd max48 (Map.get 0 (s.partAt p).clxCnt 7) ∧
      t.early = s.early ∧ t.ops = s.ops ∧ t.mem = s.mem)

/-- Collectives complete, shards move, messages are lost. The whole of what its parts say.
Model's choices it rests on: log 5, 9, 21, 62, 94, 105. -/
def Obligations.Collectives : Prop :=
  Claim.CollectivesComplete ∧ Claim.ShardMoves ∧ Claim.LostMessages

/-- REFEREE_REPLAY of a disputed MMA (R340, R341): a referee that passes its own check decides every wave from the disputed one on: the bank's rows gain
the referee's values, earlier rows stand, and the MMA has no wave left; a referee that fails its own check commits nothing and is not asked
again. With no referee in time the wave stays unsettled and nothing is committed. -/
def Claim.RefereedWaves : Prop :=
  ∀ n s h, n < nTiles → (s.tileAt n).disputed = some (.inl h) → h.wave < 128 →
    (∀ ref result, s.refereeOf n (s.streamAt n h.mma.stream).loaf h.tried = some ref →
      ∃ t, exec (.refereeReplay n result false) s = .next t ∧ (t.tileAt n).held = none ∧ t.mem = s.mem ∧ (t.tileAt n).str = (s.tileAt n).str ∧
        (∀ m rest, (s.tileAt n).array = m :: rest →
          (t.tileAt n).array.map (fun y => (y.id, y.wave)) = (m.id, 128) :: rest.map (fun y => (y.id, y.wave))) ∧
        (∀ w c, h.wave ≤ w → w < 128 → c < 128 →
          Map.get 0 ((t.tileAt n).bankAt h.mma.bank).a (128 * w + c) = Map.get 0 ((s.tileAt n).bankAt h.mma.bank).a (128 * w + c) +
            BitVec.ofInt 96 ((withErrors (h.mma.wave_ (s.tileAt n) w) (errsIn result w)).getD c (0, 0)).1) ∧
        (∀ w c, w < h.wave → c < 128 →
          Map.get 0 ((t.tileAt n).bankAt h.mma.bank).a (128 * w + c) = Map.get 0 ((s.tileAt n).bankAt h.mma.bank).a (128 * w + c)) ∧
        ∀ b, b ≠ h.mma.bank → (t.tileAt n).bankAt b = (s.tileAt n).bankAt b) ∧
    (∀ ref result, s.refereeOf n (s.streamAt n h.mma.stream).loaf h.tried = some ref → h.tried = [] →
      ∃ t, exec (.refereeReplay n result true) s = .next t ∧ (t.tileAt n).held = some { h with tried := [ref] } ∧
        (t.tileAt n).bank = (s.tileAt n).bank) ∧
    (s.refereeOf n (s.streamAt n h.mma.stream).loaf h.tried = none →
      ∃ t, exec (.refereeWaitTimeout n) s = .next t ∧ (t.tileAt n).held = some { h with unsettled := true } ∧
        (t.tileAt n).bank = (s.tileAt n).bank ∧ t.mem = s.mem)

/-- REFEREE_REPLAY of a vector instruction (R340, R341): its destination takes the referee's values in the lanes of the disputed group and its own
elsewhere, its entry frees; no other vector register changes. -/
def Claim.RefereedLanes : Prop :=
  ∀ n s h ref result v, n < nTiles → (s.tileAt n).disputed = some (.inr h) →
    s.refereeOf n (s.streamAt n h.stream).loaf h.tried = some ref → h.dstV = some v → h.main.length = 128 →
    ∃ t, exec (.refereeReplay n result false) s = .next t ∧
      (∀ l, l < 128 → Map.get 0 (t.tileAt n).vreg (128 * v + l) =
        if h.shadow.any (fun x => decide (x.1 = l)) then refLane h result l else h.main.getD l 0) ∧
      (∀ k, k / 128 ≠ v → Map.get 0 (t.tileAt n).vreg k = Map.get 0 (s.tileAt n).vreg k) ∧
      (t.tileAt n).vxHeld = (s.tileAt n).vxHeld.filter (fun y => decide (y.id ≠ h.id)) ∧
      (t.tileAt n).sb = (s.tileAt n).sb.filter (fun e => decide (e.op ≠ h.id)) ∧ (t.tileAt n).bank = (s.tileAt n).bank ∧ t.mem = s.mem

/-- Array and lane disagreements settled by the referee. The whole of what its parts say.
Model's choices it rests on: log 23, 90. -/
def Obligations.Settlements : Prop :=
  Claim.RefereedWaves ∧ Claim.RefereedLanes

/-- BENCH_MOVE, ROTATION_MIGRATION, MIGRATION_SKIP (R26, R29, R30, R344): the tile served by a fenced physical tile, contained, starts its move onto the bench
tile longest in BENCH, else onto a proving tile whose run is abandoned, and with neither becomes absent; a rotation that is due moves the tile in turn, or is skipped and counted
where R29 forbids it, NEXT standing. -/
def Claim.TilesMove : Prop :=
  (∀ die m s n e, die < nDies → m < nPhys →
    (s.tmap.find? fun e => e.2.valid && decide (s.physOf e.1 = some (nPhys * die + m))) = some (n, e) →
    (s.ptileAt (nPhys * die + m)).state = .fenced → e.migrating = false → s.fw.handoff = false → s.containedAt n = true →
    ∃ t, exec (.benchMove die m) s = .next t ∧ t.mem = s.mem ∧
      (∀ b, s.oldestBench die = some b → (t.tmapAt n).migrating = true ∧ (t.tmapAt n).dest = some b ∧ (t.tmapAt n).row = (s.tmapAt n).row ∧
        (t.tmapAt n).col = (s.tmapAt n).col ∧ ∀ k, k ≠ n → t.tmapAt k = s.tmapAt k) ∧
      (∀ b rest, s.oldestBench die = none → (s.physIn die .proving).filter (fun b => !(s.ptileAt b).mustProve && !s.reserved b) = b :: rest →
        (t.tmapAt n).migrating = true ∧ (t.tmapAt n).dest = some b ∧ (t.ptileAt b).run = none) ∧
      (s.oldestBench die = none → (s.physIn die .proving).filter (fun b => !(s.ptileAt b).mustProve && !s.reserved b) = [] →
        (t.tmapAt n).valid = false ∧ (t.tileAt n).absent = true)) ∧
  (∀ die s n m, die < nDies → s.rotationDue die = some (n, m) →
    (s.mayMigrate n = true → exec (.rotationMigration die) s = .next (s.beginMove n m true)) ∧
    (s.mayMigrate n = false → exec (.migrationSkip die) s = .next ((s.countPrv die 6).modTile n fun t => { t with boundaryAt := none }) ∧ exec (.rotationMigration die) s = .next s)) ∧
  (∀ n m rot (s : State), (s.beginMove n m rot).tmapAt n = { s.tmapAt n with migrating := true, dest := some m, rotation := rot } ∧
    (s.beginMove n m rot).tileAt n = s.tileAt n)

/-- MIGRATION_COMPLETE (R30, R31, R60): with the tallies right the logical tile is served by its destination, MOVES counts it, its held deliveries are
released, and the vacated tile keeps no logical tile; with a tally of the copied banks wrong, or the copy itself gone wrong, the map stands and the tally
fault counts. -/
def Claim.MigrationsComplete : Prop :=
  ∀ n s old new, n < nTiles → s.physOf n = some old → (s.tmapAt n).migrating = true → (s.tmapAt n).dest = some new →
    old ≠ new → new / nPhys = tileDie n →
    ((s.tileAt n).copyBad = false → ∃ t, exec (.migrationComplete n true) s = .next t ∧ t.physOf n = some new ∧ (t.tmapAt n).migrating = false ∧ (t.tmapAt n).dest = none ∧
      (t.tmapAt n).moves = satAdd 255 (s.tmapAt n).moves ∧ (t.ptileAt new).state = .active ∧ (t.ptileAt new).logical = n % 144 ∧
      (t.ptileAt old).logical = 0xFF ∧ (t.tileAt n).deliveries = [] ∧ (t.tileAt n).ls = (s.tileAt n).ls ∧ t.mem = s.mem) ∧
    (∀ ok, ok = false ∨ (s.tileAt n).copyBad = true → ∃ t, exec (.migrationComplete n ok) s = .next t ∧ t.physOf n = some old ∧ (t.tmapAt n).migrating = false ∧
      (t.ptileAt old).tallyFault = satAdd max48 (s.ptileAt old).tallyFault ∧ (t.tileAt n).deliveries = [] ∧ t.mem = s.mem)

/-- Tiles move to the bench. The whole of what its parts say.
Model's choices it rests on: log 58, 71, 75, 78, 80. -/
def Obligations.Migrations : Prop :=
  Claim.TilesMove ∧ Claim.MigrationsComplete

/-- PROVING_SEGMENT_END and OVEN_TARGET_REACHED (R345, R347): a segment whose signature is the pack's, or whose sweep passed DM_FLOOR, is
passed; a failed rated segment that was repeated
ends its run as a rated failure; a failed stress segment marks the run and goes on; an oven segment is judged only once its target is reached,
which starts its pattern at its own trim; a MARGIN segment does not end while pacing holds the tile's rail down (R440). -/
def Claim.ProvingSegments : Prop :=
  ∀ die m s r x, die < nDies → m < nPhys →
    let g := nPhys * die + m
    (s.ptileAt g).run = some r → r.done = false → r.paused = false → r.seg = some x →
    let expected := if r.pack.ver = 0 then Config.factorySig x.pattern else ((r.pack.sigs.find? fun e => decide (e.1 = x.pattern)).map (·.2)).getD 0
    let ok := fun (sig : Word) (dm : Nat) => if x.dmargin = 0xFF then (s.dieAt die).dmFloor ≤ dm else sig = expected
    (∀ sig dm f, s.suspended g x = true → exec (.provingSegmentEnd die m sig dm f) s = .next s) ∧
    (∀ sig dm, s.suspended g x = false → (x.oven = 0 ∨ r.ovenReady = true) → ok sig dm →
      ∃ t r', exec (.provingSegmentEnd die m sig dm none) s = .next t ∧ (t.ptileAt g).run = some r' ∧ r.segment < r'.segment ∧
        r'.ratedFail = r.ratedFail ∧ r'.marginFail = r.marginFail ∧ (t.ptileAt g).state = (s.ptileAt g).state ∧ t.mem = s.mem) ∧
    (∀ sig dm, s.suspended g x = false → (x.oven = 0 ∨ r.ovenReady = true) → ¬ok sig dm → x.kind = 0 → r.repeated = true →
      ∃ t r', exec (.provingSegmentEnd die m sig dm none) s = .next t ∧ (t.ptileAt g).run = some r' ∧ r'.ratedFail = true ∧ r'.done = true) ∧
    (∀ sig dm, s.suspended g x = false → (x.oven = 0 ∨ r.ovenReady = true) → ¬ok sig dm → x.kind ≠ 0 →
      ∃ t r', exec (.provingSegmentEnd die m sig dm none) s = .next t ∧ (t.ptileAt g).run = some r' ∧ r'.marginFail = true ∧ r.segment < r'.segment) ∧
    (∀ sig dm f, 0 < x.oven → r.ovenReady = false → exec (.provingSegmentEnd die m sig dm f) s = .next s) ∧
    (∀ dt, 0 < x.oven → r.ovenReady = false → min x.oven (s.dieAt die).ovenMax ≤ dt + 2 → dt ≤ min x.oven (s.dieAt die).ovenMax + 2 →
      ∃ t, exec (.ovenTargetReached die m dt) s = .next t ∧ (t.ptileAt g).run = some { r with ovenReady := true } ∧
        (t.ptileAt g).vtrim = x.trim ∧ (t.ptileAt g).ovenDt = dt ∧ t.mem = s.mem)

/-- PROVING_RUN_END and WINDOW_PROVE (R346, R348): a run that is done counts, and its outcome is recorded: a rated failure fences the tile, a clean run is
a pass; a window of the tile in turn whose signatures all match is recorded as passed and NEXT goes on. -/
def Claim.ProvingOutcomes : Prop :=
  (∀ die m s r, die < nDies → m < nPhys →
    let g := nPhys * die + m
    (s.ptileAt g).run = some r → r.done = true →
    ∃ t, exec (.provingRunEnd die m) s = .next t ∧ (t.ptileAt g).runs = satAdd 65535 (s.ptileAt g).runs ∧
      (r.ratedFail = true → (t.ptileAt g).state = .fenced ∧ (t.ptileAt g).lastRun = 4 ∧ (t.ptileAt g).run = none) ∧
      (r.ratedFail = false → r.patternFault = false → r.marginFail = false →
        (t.ptileAt g).lastRun = 1 ∧ ((t.ptileAt g).state = .bench ∨ (t.ptileAt g).state = .proving)) ∧
      t.mem = s.mem) ∧
  (∀ die s n g sigs, die < nDies → (s.dieAt die).released = true → (s.dieAt die).rotStopped = true → (s.dieAt die).windowEn = true → s.fw.handoff = false →
    s.safeState = false → (s.fromNext die).head? = some n → s.mayMigrate n = true → s.physOf n = some g →
    (∀ w ∈ s.fw.pack.window.zip sigs, s.fw.skipPat.contains w.1.pattern = false → w.2 =
      if s.fw.pack.ver = 0 then Config.factorySig w.1.pattern
      else ((s.fw.pack.sigs.find? fun e => decide (e.1 = w.1.pattern)).map (·.2)).getD 0) →
    ∃ t, exec (.windowProve die sigs none) s = .next t ∧ (t.ptileAt g).lastRun = 7 ∧ (t.ptileAt g).state = (s.ptileAt g).state ∧
      t.tile = s.tile ∧ t.tmap = s.tmap ∧ Map.get 0 (t.dieAt die).prvCnt 7 = satAdd max48 (Map.get 0 (s.dieAt die).prvCnt 7) ∧
      (t.dieAt die).next = ((s.advanceNext die n).dieAt die).next)

/-- Proving runs: segments and outcomes. The whole of what its parts say.
Model's choices it rests on: log 22, 49, 58, 76, 77, 78, 97. -/
def Obligations.Proving : Prop :=
  Claim.ProvingSegments ∧ Claim.ProvingOutcomes

/-- LOCALISATION_RUN and FUSE_WRITTEN (R65–R67): a localisation clears PENDING and counts its line; the third of a row, with a skip of the row side and a
fuse record free, starts the programming of a row skip; a record that is written is VALID, a retirement makes a fenced tile RETIRED_FIELD. -/
def Claim.Repairs : Prop :=
  (∀ die m s row, die < nDies → m < nPhys →
    let g := nPhys * die + m
    let p := s.ptileAt g
    p.state = .bench ∨ p.state = .proving ∨ p.state = .fenced → p.pending = true → row ≤ 130 →
    ∃ t, exec (.localisationRun die m (some row) none) s = .next t ∧
      (Map.get 0 p.lineCount row + 1 < 3 → (t.ptileAt g).pending = false ∧
        Map.get 0 (t.ptileAt g).lineCount row = Map.get 0 p.lineCount row + 1 ∧ t.die = s.die ∧ (t.ptileAt g).state = p.state) ∧
      (∀ i, 3 ≤ Map.get 0 p.lineCount row + 1 → 0 < p.rowsFree → (s.dieAt die).freeFuse = some i →
        (t.ptileAt g).pending = false ∧ (t.ptileAt g).mustProve = true ∧ Map.get 0 (t.dieAt die).ffuse i = fuseWord 2 row m) ∧ t.mem = s.mem) ∧
  (∀ die i s, die < nDies → i < 64 →
    let w := Map.get (0 : BitVec 32) (s.dieAt die).ffuse i
    let g := nPhys * die + (bits w.toNat 15 8 * 13 + bits w.toNat 7 0)
    (s.dieAt die).fusing.contains i = true → ∃ t, exec (.fuseWritten die i) s = .next t ∧
      Map.get 0 (t.dieAt die).ffuse i = w ||| 0x80000000#32 ∧ (∀ j, j ≠ i → Map.get 0 (t.dieAt die).ffuse j = Map.get 0 (s.dieAt die).ffuse j) ∧
      (bits w.toNat 30 28 = 1 → (s.ptileAt g).state = .fenced → (t.ptileAt g).state = .retiredField) ∧
      (bits w.toNat 30 28 = 2 → (s.ptileAt g).state = .fenced →
        (t.ptileAt g).rowSkip0 = ((s.ptileAt g).loadSkip 2 (BitVec.ofNat 8 (bits w.toNat 23 16))).rowSkip0 ∧
        (t.ptileAt g).rowSkip1 = ((s.ptileAt g).loadSkip 2 (BitVec.ofNat 8 (bits w.toNat 23 16))).rowSkip1 ∧
        (t.ptileAt g).run.isSome = true) ∧ t.mem = s.mem)

/-- TILE_SELF_TEST, TILE_RELEASE, LINK_MARGIN_CHECK (R41, R68, R349): after the test every tile retired at wafer test is RETIRED_FACTORY and a failing tile
that nothing retires is FENCED; at release logical tile n is served by the n-th healthy tile without a new geometry to prove, now ACTIVE, and the bench loaf stands; an eye below
60 % of its value at training is reported, any other changes nothing. -/
def Claim.DiesStart : Prop :=
  (∀ die failing s, die < nDies → (s.dieAt die).released = false → (s.dieAt die).tested = false → (s.dieAt die).heldReset = false →
    (s.dieAt die).pllLock = true → s.fw.rcOnly = false → s.fw.stage = 2 →
    ∃ t, exec (.tileSelfTest die failing) s = .next t ∧ (t.dieAt die).tested = true ∧ (∀ d, d ≠ die → t.dieAt d = s.dieAt d) ∧ t.mem = s.mem ∧
      ∀ m, m < nPhys → (Config.factoryRetired die m = true → (t.ptileAt (nPhys * die + m)).state = .retiredFactory) ∧
        (Config.factoryRetired die m = false → (s.dieAt die).retires m = false → m ∈ failing → (t.ptileAt (nPhys * die + m)).state = .fenced)) ∧
  (∀ die s, die < nDies → (s.dieAt die).tested = true → (s.dieAt die).released = false →
    ∃ t, exec (.tileRelease die) s = .next t ∧ (t.dieAt die).released = true ∧ (t.dieAt die).next = 0 ∧ (t.loafAt (1020 + die)).valid = true ∧
      (t.loafAt (1020 + die)).kind = 2 ∧ t.mem = s.mem ∧
      ∀ k m, k < 144 → ((s.physIn die .untested).filter fun m => !(s.ptileAt m).mustProve)[k]? = some m →
        t.physOf (144 * die + k) = some m ∧ (t.ptileAt m).state = .active ∧ (t.ptileAt m).logical = k) ∧
  (∀ u eye trainEye s, (trainEye * 60 ≤ eye * 100 → exec (.linkMarginCheck u eye trainEye) s = .next s) ∧
    (eye * 100 < trainEye * 60 → exec (.linkMarginCheck u eye trainEye) s = .next (s.crumbOut 0 0x0018 u [(10, .u eye)])))

/-- Repairs, and dies taken into service. The whole of what its parts say.
Model's choices it rests on: log 3, 58, 76, 79, 97. -/
def Obligations.RepairsAndDies : Prop :=
  Claim.Repairs ∧ Claim.DiesStart

/-- SCRUB_LINE and ROW_REPAIR (R203–R206): the scrub goes to the next line and, after the last, begins another pass, PASSES saturating; one bad symbol
counts a corrected read, two or more poison the line. A repair of a row that is due takes its bank while a resource is left; its end consumes the
resource, frees the bank and poisons the lines of the row it could not read; with no resource left the row is no longer due and stays as it is. No
byte of memory changes. -/
def Claim.StacksMaintained : Prop :=
  (∀ k bad s, k < nStacks →
    let x := s.stackAt k
    let line := k * stackBytes + 64 * x.pos
    x.pos < stackLines → x.selfRefresh = false → x.fenced = false → x.maint = false → s.bankHeld line = false →
    ∃ t, exec (.scrubLine k bad) s = .next t ∧ t.mem = s.mem ∧
      (x.pos + 1 ≠ stackLines → (t.stackAt k).pos = x.pos + 1 ∧ (t.stackAt k).passes = x.passes) ∧
      (x.pos + 1 = stackLines → (t.stackAt k).pos = 0 ∧
        (t.stackAt k).passes = if x.passes = BitVec.allOnes 32 then x.passes else x.passes + 1) ∧
      (bad = 0 → s.poisoned line = false → t.poison = s.poison ∧ (t.stackAt k).ce = x.ce ∧ (t.stackAt k).ue = x.ue) ∧
      (bad = 1 → s.poisoned line = false → t.poison = s.poison ∧ (t.stackAt k).ce = satAdd (2 ^ 32 - 1) x.ce) ∧
      (2 ≤ bad → t.poisoned line = true ∧ (t.stackAt k).ue = satAdd 65535 x.ue)) ∧
  (∀ k row uncorr s, k < nStacks →
    let x := s.stackAt k
    x.fenced = false →
    (x.repair = none → x.rowsDue.contains row = false → exec (.rowRepair k row uncorr) s = .next s) ∧
    (x.repair = none → x.rowsDue.contains row = true → 0 < x.pprLeft →
      exec (.rowRepair k row uncorr) s = .next (s.modStack k fun y => { y with repair := some row })) ∧
    (x.repair = none → x.rowsDue.contains row = true → x.pprLeft = 0 → ∃ t, exec (.rowRepair k row uncorr) s = .next t ∧
      t.stackAt k = x.settleRow row ∧ t.poison = s.poison ∧ t.mem = s.mem) ∧
    (x.repair = some row → ∃ t, exec (.rowRepair k row uncorr) s = .next t ∧ (t.stackAt k).repair = none ∧ (t.stackAt k).pprLeft = x.pprLeft - 1 ∧
      (t.stackAt k).pprDone = satAdd 255 x.pprDone ∧ (t.stackAt k).rowsDue.contains row = false ∧
      (∀ l ∈ uncorr, l < stackLines → rowOf (64 * l) = row → t.poisoned (k * stackBytes + 64 * l) = true) ∧ t.mem = s.mem)) ∧
  (∀ (s : State) line r, (s.stackAt (stackOf line)).repair = some r → Config.dramBank r = Config.dramBank (rowOf line) → s.lineHeld line = true)

/-- PITCH_APPLY (R190, R191): with no access to the granule in flight its new pitch is in force and no longer pending, its owner stands, and no data moves
but by its address: the byte that stood at a stands where the new pitch reaches the same cell, and nothing is lost. -/
def Claim.PitchApplied : Prop :=
  ∀ k g s e, k < nStacks → g < 80 → (s.stackAt k).pitchPend.find? (fun e => decide (e.1 = g)) = some e → s.granBusy k g = false → s.memoryWf →
    ∃ t, exec (.pitchApply k g) s = .next t ∧
      let w := Map.get 0 (s.stackAt k).gran g
      let w' := Map.get 0 (t.stackAt k).gran g
      granPitch w' = e.2 ∧ granOwned w' = granOwned w ∧ granPart w' = granPart w ∧ (∀ y ∈ (t.stackAt k).pitchPend, y.1 ≠ g) ∧
      (∀ j, j ≠ g → Map.get 0 (t.stackAt k).gran j = Map.get 0 (s.stackAt k).gran j) ∧
      ∀ a, Map.get 0 t.mem (repitch k g (granPitch w).toNat e.2.toNat a) = Map.get 0 s.mem a

/-- Stacks: scrub, row repair, maintenance, pitch. The whole of what its parts say.
Model's choices it rests on: log 37, 67, 89. -/
def Obligations.StackUpkeep : Prop :=
  Claim.StacksMaintained ∧ Claim.PitchApplied

/-- Completions of host reads (R195): with the length asked for the data is the copy's, and the read is no longer outstanding; an error status, and 10 ms
without a completion, end the copy with MEM_UNCORR at the address read. -/
def Claim.HostReads : Prop :=
  ∀ p tag s x n id a len c, s.readOf p tag = some (x, n, id, a, len) → (s.tileAt n).copyQ.find? (fun c => decide (c.id = id)) = some c →
    (∀ data, data.length = len → ∃ t, exec (.hostCompletionReceive p tag true data) s = .next t ∧ t.mem = s.mem ∧
      ∃ c' ∈ (t.tileAt n).copyQ, c'.id = id ∧ ∀ k, k < len → Map.get none c'.arrived (a + k) = data[k]?) ∧
    (∀ data, ∃ t, exec (.hostCompletionReceive p tag false data) s = .next t ∧ t.mem = s.mem ∧
      (∀ c' ∈ (t.tileAt n).copyQ, c'.id ≠ id) ∧
      ∃ d, (t.tileAt n).deferred = (s.tileAt n).deferred ++ [d] ∧ d.pc = c.pc ∧ d.code = 0x22 ∧ d.detail = BitVec.ofNat 64 a) ∧
    (∃ t, exec (.hostDmaTimeout p tag) s = .next t ∧ t.mem = s.mem ∧ (∀ c' ∈ (t.tileAt n).copyQ, c'.id ≠ id) ∧
      ∃ d, (t.tileAt n).deferred = (s.tileAt n).deferred ++ [d] ∧ d.pc = c.pc ∧ d.code = 0x22 ∧ d.detail = BitVec.ofNat 64 a)

/-- Board requests and responses (R193, R266, R267, R290), each first on its VC: a request of a job of this package for a line its partition owns, neither
locked nor held, writes or reads that line and is answered on its port, a poisoned one with a refusal; any other is counted against the port and
refused. A line answered is the copy's; a refusal, or no port of the route for 300 ms, ends the copy with MEM_UNCORR at the line. A request or response
that does not stand first on its VC is not taken; one that comes on a port fenced for the partition is discarded (R306, the model's reading, log 99). -/
def Claim.BoardLines : Prop :=
  (∀ port r s, port < nPorts → (s.portAt port).front 3 ≠ some (Config.boardPayload r.tag r.addr r.write) →
    exec (.boardRequestReceive port r) s = .next s) ∧
  (∀ port tag refused data s, (s.portAt port).front 4 ≠ some (Config.boardReply refused data) →
    exec (.boardResponseReceive port tag refused data) s = .next s) ∧
  (∀ port r s, port < nPorts → (s.portAt port).front 3 = some (Config.boardPayload r.tag r.addr r.write) → s.boardPart r = none → ∃ t, exec (.boardRequestReceive port r) s = .next t ∧ t.mem = s.mem ∧
    (t.portAt port).refused = (s.portAt port).refused + 1 ∧ t.outbox = s.outbox ++ [.boardResp port true []]) ∧
  (∀ port r s p, port < nPorts → (s.portAt port).front 3 = some (Config.boardPayload r.tag r.addr r.write) → s.boardPart r = some p →
    let line := r.addr.toNat / 64 * 64
    (s.fencedAt p port = true → ∃ t, exec (.boardRequestReceive port r) s = .next t ∧ t.mem = s.mem ∧ t.outbox = s.outbox ∧
      Map.get 0 (t.partAt p).clxCnt 10 = satAdd max48 (Map.get 0 (s.partAt p).clxCnt 10)) ∧
    (s.fencedAt p port = false → s.lockOf line = none → s.lineHeld line = false →
    (∀ bs, r.write = some bs → bs.length = 64 → ∃ t, exec (.boardRequestReceive port r) s = .next t ∧ t.memRead line 64 = bs ∧
      (∀ a, a / 64 * 64 ≠ line → Map.get 0 t.mem a = Map.get 0 s.mem a) ∧ t.poisoned line = false ∧
      t.outbox = s.outbox ++ [.boardResp port false []]) ∧
    (r.write = none → s.poisoned line = false → ∃ t, exec (.boardRequestReceive port r) s = .next t ∧ t.mem = s.mem ∧
      t.outbox = s.outbox ++ [.boardResp port false (s.memRead line 64)]) ∧
    (r.write = none → s.poisoned line = true → ∃ t, exec (.boardRequestReceive port r) s = .next t ∧ t.mem = s.mem ∧
      t.outbox = s.outbox ++ [.boardResp port true []]))) ∧
  (∀ port tag refused data s o c, s.board.find? (fun o => decide (o.tag = tag ∧ o.index = port) && !o.waiting) = some o →
    (s.tileAt o.tile).copyQ.find? (fun c => decide (c.id = o.copy)) = some c → (s.portAt port).front 4 = some (Config.boardReply refused data) →
    (s.boardFenced port o = true → ∃ t, exec (.boardResponseReceive port tag refused data) s = .next t ∧ t.mem = s.mem ∧ t.board = s.board ∧ t.tile = s.tile) ∧
    (s.boardFenced port o = false → ∃ t, exec (.boardResponseReceive port tag refused data) s = .next t ∧ t.mem = s.mem ∧ (∀ x ∈ t.board, x.tag ≠ tag) ∧
      (refused = false → o.write = none → data.length = 64 → ∃ c' ∈ (t.tileAt o.tile).copyQ, c'.id = o.copy ∧ tag ∉ c'.await ∧
        ∀ k, k < 64 → Map.get none c'.arrived (o.addr + k) = data[k]?) ∧
      (refused = true → (∀ c' ∈ (t.tileAt o.tile).copyQ, c'.id ≠ o.copy) ∧
        ∃ d, (t.tileAt o.tile).deferred = (s.tileAt o.tile).deferred ++ [d] ∧ d.pc = c.pc ∧ d.code = 0x22 ∧ d.detail = BitVec.ofNat 64 o.addr))) ∧
  (∀ tag s o c, s.board.find? (fun o => decide (o.tag = tag) && o.waiting) = some o →
    (s.tileAt o.tile).copyQ.find? (fun c => decide (c.id = o.copy)) = some c →
    ∃ t, exec (.boardNoRoute tag) s = .next t ∧ t.mem = s.mem ∧ (∀ c' ∈ (t.tileAt o.tile).copyQ, c'.id ≠ o.copy) ∧
      ∃ d, (t.tileAt o.tile).deferred = (s.tileAt o.tile).deferred ++ [d] ∧ d.pc = c.pc ∧ d.code = 0x22 ∧ d.detail = BitVec.ofNat 64 o.addr)

/-- Host reads and board lines. The whole of what its parts say.
Model's choices it rests on: log 5, 15, 67, 99. -/
def Obligations.RemoteLines : Prop :=
  Claim.HostReads ∧ Claim.BoardLines

/-- FLIT_TRANSMIT on an ACTIVE port (R264, R269, R271): one flit leaves in each slot, with its CRC and the cumulative acknowledgement; a rewound flit
goes first with its own SEQ, then a NAK, then a HELLO that is due, then DATA of the VC served next, which takes a credit and the next SEQ and is
held for replay; with nothing to send the flit is IDLE. A port that is not trained, in any state but DISABLED and DOWN, sends a HELLO that is due, and
nothing else (R262, R277). -/
def Claim.FlitSlots : Prop :=
  (∀ n s, n < nPorts →
    let q := s.portAt n
    q.trained = false → s.pwr.state ≠ .deep →
    (q.helloDue = true → q.greets = true → ∃ t f, exec (.flitTransmit n) s = .next t ∧
      t.outbox = s.outbox ++ [.flit n f (flitStriped f (lanesFor q.lanesOk))] ∧ hdrType f.hdr = 2 ∧ Hello.decode f.payload = s.helloOf n ∧
      (t.portAt n).helloDue = false ∧ (t.portAt n).hseq = q.hseq + 1 ∧ (t.portAt n).held = q.held) ∧
    (q.helloDue = false ∨ q.greets = false → exec (.flitTransmit n) s = .next s)) ∧
  ∀ n s, n < nPorts →
    let q := s.portAt n
    q.state = .active → q.discovered = true → s.safeState = false → q.txSeq < 4096 →
    (∀ h ∈ q.held, h.1 < 4096 ∧ h.2.vc ≤ 8 ∧ h.2.len ≤ 240) → (∀ f ∈ q.queue, f.vc < 8 ∧ f.len ≤ 240) → q.darkReq = false →
    ∃ t f, exec (.flitTransmit n) s = .next t ∧ t.outbox = s.outbox ++ [.flit n f (flitStriped f q.lanes)] ∧ t.mem = s.mem ∧ (∀ m, m ≠ n → t.portAt m = s.portAt m) ∧
      f.crc = crc32c (flitCovered f) ∧ hdrAckv f.hdr = q.rxAny ∧ (q.rxAny = true → hdrAck f.hdr = (q.rxNext + 4095) % 4096) ∧
      (∀ r rest x, q.resend = r :: rest → q.held.find? (fun h => decide (h.1 = r)) = some x →
        hdrSeq f.hdr = x.1 ∧ (x.2.vc = 8 → hdrType f.hdr = 4) ∧
          (x.2.vc ≠ 8 → hdrType f.hdr = 1 ∧ hdrVc f.hdr = x.2.vc ∧ hdrSom f.hdr = x.2.som ∧ hdrEom f.hdr = x.2.eom ∧ hdrLen f.hdr = x.2.len ∧
            f.payload = slice x.2.data 0 240) ∧ (t.portAt n).resend = rest ∧ (t.portAt n).held = q.held ∧ (t.portAt n).txSeq = q.txSeq) ∧
      (q.resend = [] → q.nakDue = true → hdrType f.hdr = 3 ∧ (t.portAt n).nakDue = false ∧ (t.portAt n).nakSent = satAdd max48 q.nakSent ∧
        (t.portAt n).held = q.held) ∧
      (q.resend = [] → q.nakDue = false → q.helloDue = true → hdrType f.hdr = 2 ∧ Hello.decode f.payload = s.helloOf n ∧
        (t.portAt n).helloDue = false ∧ (t.portAt n).hseq = q.hseq + 1 ∧ (t.portAt n).held = q.held) ∧
      (∀ v x, q.resend = [] → q.nakDue = false → q.helloDue = false → q.held.length < 3072 → q.nextVc = some v → q.ready v = some x →
        hdrType f.hdr = 1 ∧ hdrVc f.hdr = v ∧ hdrSeq f.hdr = q.txSeq ∧ hdrSom f.hdr = x.som ∧ hdrEom f.hdr = x.eom ∧ hdrLen f.hdr = x.len ∧
          f.payload = slice x.data 0 240 ∧ (t.portAt n).held = q.held ++ [(q.txSeq, x)] ∧ (t.portAt n).txSeq = (q.txSeq + 1) % 4096 ∧
          Map.get 0 (t.portAt n).credits v = Map.get 0 q.credits v - 1 ∧ 0 < Map.get 0 q.credits v ∧ (t.portAt n).queue = q.queue.erase x) ∧
      (q.resend = [] → q.nakDue = false → q.helloDue = false → (∀ v, v < 8 → (q.ready v).isSome = true → Map.get 0 q.credits v = 0) →
        hdrType f.hdr = 0 ∧ (t.portAt n).held = q.held ∧ (t.portAt n).txSeq = q.txSeq ∧ (t.portAt n).queue = q.queue)

/-- Arrivals at a trained port (R262, R264–R266, R271, R272, R288): a flit that fails a check changes nothing but the count of failures and the NAK it
brings; an IDLE flit is its acknowledgement and credits; DATA is taken only with the next SEQ, its message growing and with EOM standing whole in the
receive buffer, and any other SEQ brings a NAK; a NAK has every flit still held sent again, and the sixteenth without progress retrains the port, or,
within 1 s of its return from such a retraining, takes it DOWN; a DARK flit in order starts the dark procedure. Of the rest of the package nothing
changes but for what those two outcomes of a storm report. -/
def Claim.FlitArrivals : Prop :=
  ∀ n f s, n < nPorts →
    let q := s.portAt n
    q.trained = true →
    (q.fails f = true → ∀ ls cws, ∀ c ∈ [Instr.flitDataReceive n f, .flitIdleReceive n f, .flitHelloReceive n f, .flitNakReceive n f ls cws, .flitDarkReceive n f],
      ∃ t, exec c s = .next t ∧ OnlyPort n s t ∧
        t.portAt n = { q with crcFail := satAdd max48 q.crcFail, discard := true, nakDue := q.nakDue || !q.discard }) ∧
    (q.fails f = false →
      (hdrType f.hdr = 0 → ∃ t, exec (.flitIdleReceive n f) s = .next t ∧ OnlyPort n s t ∧ AckTaken q (t.portAt n) f.hdr ∧
        (t.portAt n).rxNext = q.rxNext ∧ (t.portAt n).state = q.state) ∧
      (hdrType f.hdr = 1 → q.state = .active → hdrSeq f.hdr = q.rxNext →
        ∃ t, exec (.flitDataReceive n f) s = .next t ∧ t.mem = s.mem ∧ (∀ m, m ≠ n → t.portAt m = s.portAt m) ∧ AckTaken q (t.portAt n) f.hdr ∧
          (t.portAt n).rxNext = (q.rxNext + 1) % 4096 ∧ (t.portAt n).rxAny = true ∧ (t.portAt n).discard = false ∧ (t.portAt n).ackDue = true ∧
          (t.portAt n).rxFlits = satAdd max64 q.rxFlits ∧
          (hdrEom f.hdr = true → hdrVc f.hdr ≠ 6 → (t.portAt n).inbox = q.inbox ++ [(hdrVc f.hdr,
            ((q.openMsg.find? fun o => decide (o.1 = hdrVc f.hdr)).map (·.2)).getD [] ++ slice f.payload 0 (hdrLen f.hdr))]) ∧
          (hdrEom f.hdr = true → ∀ o ∈ (t.portAt n).openMsg, o.1 ≠ hdrVc f.hdr) ∧
          (hdrEom f.hdr = false → (t.portAt n).openMsg.find? (fun o => decide (o.1 = hdrVc f.hdr)) =
            some (hdrVc f.hdr, ((q.openMsg.find? fun o => decide (o.1 = hdrVc f.hdr)).map (·.2)).getD [] ++ slice f.payload 0 (hdrLen f.hdr))) ∧
          (s.pwr.state ≠ .sleep → t.noPorts = s.noPorts) ∧
          (s.pwr.state = .sleep → hdrVc f.hdr < 3 ∨ hdrVc f.hdr = 5 → t.pwr.state = .run)) ∧
      (hdrType f.hdr = 1 → q.state = .active → hdrSeq f.hdr ≠ q.rxNext →
        ∃ t, exec (.flitDataReceive n f) s = .next t ∧ OnlyPort n s t ∧ AckTaken q (t.portAt n) f.hdr ∧ (t.portAt n).rxNext = q.rxNext ∧
          (t.portAt n).discard = true ∧ (q.discard = false → (t.portAt n).nakDue = true) ∧ (t.portAt n).openMsg = q.openMsg ∧
          (t.portAt n).rxFlits = q.rxFlits) ∧
      (hdrType f.hdr = 3 → q.rewinds < 15 ∨ (hdrAckv f.hdr = true ∧ ∃ y ∈ q.held, y.1 = hdrAck f.hdr) →
        ∀ ls cws, ∃ t, exec (.flitNakReceive n f ls cws) s = .next t ∧ OnlyPort n s t ∧ AckTaken q (t.portAt n) f.hdr ∧
          (t.portAt n).resend = (t.portAt n).held.map (·.1) ∧ (t.portAt n).retry = satAdd max48 q.retry ∧ (t.portAt n).state = q.state) ∧
      (hdrType f.hdr = 3 → hdrAckv f.hdr = false → q.rewinds = 15 → (∀ a, q.stormAt = some a → secondTicks < (s.refTick - a).toNat) →
        ∀ ls cws, ∃ t, exec (.flitNakReceive n f ls cws) s = .next t ∧ (t.portAt n).state = .retrain ∧ (t.portAt n).stormed = true ∧
          (t.portAt n).lanesOk = q.lanesOk &&& ~~~unhealthy ls cws ∧ (t.portAt n).held = q.held ∧ t.mem = s.mem) ∧
      (∀ a, hdrType f.hdr = 3 → hdrAckv f.hdr = false → q.rewinds = 15 → q.stormAt = some a → (s.refTick - a).toNat ≤ secondTicks →
        ∀ ls cws, ∃ t, exec (.flitNakReceive n f ls cws) s = .next t ∧ (t.portAt n).state = .down ∧ (t.portAt n).reason = 7 ∧
          (t.portAt n).held = [] ∧ t.mem = s.mem) ∧
      (hdrType f.hdr = 4 → hdrSeq f.hdr = q.rxNext →
        ∃ t, exec (.flitDarkReceive n f) s = .next t ∧ OnlyPort n s t ∧ AckTaken q (t.portAt n) f.hdr ∧ (t.portAt n).darkRcvd = true ∧
          (t.portAt n).darkReq = true ∧ (t.portAt n).rxNext = (q.rxNext + 1) % 4096))

/-- Flits sent and received by a fabric port. The whole of what its parts say.
Model's choices it rests on: log 24, 56. -/
def Obligations.Flits : Prop :=
  Claim.FlitSlots ∧ Claim.FlitArrivals

/-- Discovery (R277, R279, R280): a HELLO in state HELLO is recorded; with SEEN in it and one sent, discovery completes with the outcome of Table 11-14. -/
def Claim.Discovery : Prop :=
  ∀ n f s, n < nPorts →
    let q := s.portAt n
    let h := Hello.decode f.payload
    q.state = .hello → q.discovered = false → q.darkKept = false → q.fails f = false → hdrType f.hdr = 2 →
    ∃ t, exec (.flitHelloReceive n f) s = .next t ∧ t.mem = s.mem ∧ t.tmap = s.tmap ∧
      (t.portAt n).peerSerial = h.serial ∧ (t.portAt n).peerPort = h.port.toNat % 64 ∧ (t.portAt n).peerAqpMaj = h.aqpMaj.toNat ∧
      (t.portAt n).peerFwMaj = h.fwMaj.toNat ∧ (t.portAt n).peerTag = h.tag ∧
      (q.seenSent = false ∨ h.flags.getLsbD 0 = false → OnlyPort n s t ∧ (t.portAt n).state = .hello ∧ (t.portAt n).discovered = false) ∧
      (q.seenSent = true → h.flags.getLsbD 0 = true → (t.portAt n).discovered = true ∧
        (h.aqpMaj ≠ 1 → (t.portAt n).state = .quarantine ∧ (t.portAt n).reason = 10 ∧ (t.portAt n).quar = satAdd max48 q.quar) ∧
        (h.aqpMaj = 1 → (t.portAt n).aqpMin = min 2 h.aqpMin.toNat ∧
          (h.fwMaj.toNat ≠ bits s.fw.version.toNat 31 16 → (t.portAt n).state = .quarantine ∧ (t.portAt n).reason = 11) ∧
          (h.fwMaj.toNat = bits s.fw.version.toNat 31 16 →
            (s.pairPart n = none → (t.portAt n).state = .standby) ∧
            ∀ p, s.pairPart n = some p →
              ((s.partAt p).planValid = false → (t.portAt n).state = .standby) ∧
              ((s.partAt p).planValid = true →
                (q.planned h.serial (h.port.toNat % 64) = true → (∀ m, m < nPorts → m ≠ n → (s.portAt m).state = .active → (s.portAt m).lport ≠ n) →
                  (t.portAt n).state = .active ∧ (t.portAt n).lport = n) ∧
                (∀ m, q.planned h.serial (h.port.toNat % 64) = true → m < n → (s.portAt m).state = .active → (s.portAt m).lport = n →
                  (t.portAt n).state = .quarantine ∧ (t.portAt n).reason = 12) ∧
                (q.planned h.serial (h.port.toNat % 64) = false →
                  (∀ m, m < nPorts → m ≠ n → (s.portAt m).dir = q.dir → (s.portAt m).planned h.serial (h.port.toNat % 64) = false) →
                  (t.portAt n).state = .quarantine ∧ (t.portAt n).reason = 12) ∧
                (∀ m, q.planned h.serial (h.port.toNat % 64) = false → m < nPorts → m ≠ n → (s.portAt m).dir = q.dir →
                  (s.portAt m).planned h.serial (h.port.toNat % 64) = true → (s.partAt p).relabel.getLsbD q.dir = false →
                  (t.portAt n).state = .quarantine ∧ (t.portAt n).reason = 13) ∧
                (∀ m, q.planned h.serial (h.port.toNat % 64) = false → m < nPorts → m ≠ n → (s.portAt m).dir = q.dir →
                  (s.portAt m).planned h.serial (h.port.toNat % 64) = true → (s.partAt p).relabel.getLsbD q.dir = true →
                  (∀ k, k < nPorts → k ≠ n → (s.portAt k).state ≠ .active) →
                  (t.portAt n).state = .active ∧ (s.portAt (t.portAt n).lport).planned h.serial (h.port.toNat % 64) = true ∧
                    (s.portAt (t.portAt n).lport).dir = q.dir)))))

/-- Resumption (R279, R280, R286): a HELLO with RESUME from the same package and port, once one was sent, returns a held port to the state it left with
nothing lost: every flit from the peer's RX_NEXT on is held and sent again. A port that was ACTIVE is ACTIVE again, unless another port has come to serve
its logical port in the meantime. -/
def Claim.LinkResumes : Prop :=
  ∀ n f s a b x, n < nPorts →
    let q := s.portAt n
    let h := Hello.decode f.payload
    q.state = .retrain → q.resume = true → q.fails f = false → hdrType f.hdr = 2 → hdrAckv f.hdr = false → h.flags.getLsbD 1 = true →
    q.seenSent = true → q.peerSerial = h.serial → q.peerPort = h.port.toNat % 64 → q.held = a ++ (h.rxNext.toNat % 4096, x) :: b →
    (∀ y ∈ a, y.1 ≠ h.rxNext.toNat % 4096) →
    ∃ t, exec (.flitHelloReceive n f) s = .next t ∧ t.mem = s.mem ∧
      (q.before = .active → (∀ m, m < nPorts → m ≠ n → (s.portAt m).state = .active → (s.portAt m).lport ≠ q.lport) →
        (t.portAt n).state = .active ∧ (t.portAt n).lport = q.lport) ∧
      (q.before = .active → ∀ m, m < n → (s.portAt m).state = .active → (s.portAt m).lport = q.lport → (t.portAt n).state = .quarantine ∧ (t.portAt n).reason = 12) ∧
      (q.before ≠ .active → (t.portAt n).state = q.before ∧ (t.portAt n).reason = q.beforeReason) ∧ (t.portAt n).holding = false ∧
      (t.portAt n).held = (h.rxNext.toNat % 4096, x) :: b ∧ (t.portAt n).resend = ((h.rxNext.toNat % 4096, x) :: b).map (·.1) ∧
      (t.portAt n).msgLost = q.msgLost ∧ (q.holding = true → s.crumb.errQ.length < t.crumb.errQ.length ∨ 64 ≤ s.crumb.errQ.length)

/-- Discovery, and the return of a link. The whole of what its parts say.
Model's choices it rests on: log 24, 56. -/
def Obligations.PortDiscovery : Prop :=
  Claim.Discovery ∧ Claim.LinkResumes

/-- Port timers (R271, R276, R277): an acknowledgement, a repeated NAK, a HELLO fall due and are sent by the slots that follow; a port without a HELLO
for 100 ms trains again and after its third attempt is DOWN, NO_HELLO; a DOWN port with light trains again, but for FENCED and DARK_TIMEOUT. -/
def Claim.PortTimers : Prop :=
  ∀ n s, n < nPorts →
    let q := s.portAt n
    (∃ t, exec (.ackTimer n) s = .next t ∧ OnlyPort n s t ∧ t.portAt n = { q with ackDue := q.ackDue || (q.trained && q.rxAny) }) ∧
    (∃ t, exec (.nakRepeat n) s = .next t ∧ OnlyPort n s t ∧ t.portAt n = { q with nakDue := q.nakDue || q.discard }) ∧
    (∃ t, exec (.helloTimer n) s = .next t ∧ OnlyPort n s t ∧ t.portAt n = { q with helloDue := q.helloDue || q.greets }) ∧
    (q.state = .hello → q.discovered = false →
      (q.attempts < 2 → ∃ t, exec (.helloTimeout n) s = .next t ∧ OnlyPort n s t ∧ (t.portAt n).state = .train ∧ (t.portAt n).fullTrain = true ∧
        (t.portAt n).attempts = q.attempts + 1) ∧
      (2 ≤ q.attempts → ∃ t, exec (.helloTimeout n) s = .next t ∧ (t.portAt n).state = .down ∧ (t.portAt n).reason = 4 ∧ t.mem = s.mem)) ∧
    (q.state ≠ .hello ∨ q.discovered = true → exec (.helloTimeout n) s = .next s) ∧
    (q.state = .down → q.reason ≠ 8 → q.reason ≠ 9 → s.fw.handoff = false → s.litAt n = true →
      ∃ t, exec (.downRetryTimer n) s = .next t ∧ OnlyPort n s t ∧ (t.portAt n).state = .train ∧ (t.portAt n).fullTrain = true) ∧
    (q.state = .down → q.reason = 8 ∨ q.reason = 9 ∨ s.litAt n = false → exec (.downRetryTimer n) s = .next s)

/-- TRAINING_COMPLETE (R262, R263, R276, Tables 11-3 and 11-16): a training that leaves lanes brings the port to HELLO at the widest width its lanes allow,
SEQ at 0 and 128 credits due to every VC, a loss of lanes being reported; one that leaves none fails the attempt, the third taking the port DOWN with its
reason, NO_SIGNAL, TRAIN_FAIL or LANES_EXHAUSTED; a stored-equalisation training that fails is followed by a full one. In a handoff window training waits,
and after it for the ports under a hold (R294). -/
def Claim.PortTraining : Prop :=
  ∀ n signal ok (lanes : BitVec 4) s, n < nPorts →
    let q := s.portAt n
    (q.state ≠ .train ∨ s.trainTurn n = false → exec (.trainingComplete n signal ok lanes) s = .next s) ∧
    (q.state = .train → s.trainTurn n = true →
      let have_ := if q.fullTrain then lanes else q.lanesOk &&& lanes
      (signal = true → ok = true → have_ ≠ 0 → q.darkKept = false → ∃ t, exec (.trainingComplete n signal ok lanes) s = .next t ∧ t.mem = s.mem ∧
        (∀ m, m ≠ n → t.portAt m = s.portAt m) ∧ (have_ = 15 ∨ have_ = q.lanesOk → OnlyPort n s t) ∧
        (have_ ≠ 15 → have_ ≠ q.lanesOk → s.crumb.errQ.length < t.crumb.errQ.length ∨ 64 ≤ s.crumb.errQ.length) ∧
        (t.portAt n).state = .hello ∧ (t.portAt n).lanesOk = have_ ∧ (t.portAt n).lanes = lanesFor have_ ∧ (t.portAt n).width = widthOf have_ ∧
        (t.portAt n).txSeq = 0 ∧ (t.portAt n).rxNext = 0 ∧ (t.portAt n).held = [] ∧
        (∀ v, v < 8 → Map.get 0 (t.portAt n).creditDue v = 128 ∧ Map.get 0 (t.portAt n).credits v = 0) ∧ (t.portAt n).helloDue = true) ∧
      (signal = false ∨ ok = false ∨ have_ = 0 →
        (q.fullTrain = false → ∃ t, exec (.trainingComplete n signal ok lanes) s = .next t ∧ OnlyPort n s t ∧ t.portAt n = { q with fullTrain := true }) ∧
        (q.fullTrain = true → q.attempts < 2 → ∃ t, exec (.trainingComplete n signal ok lanes) s = .next t ∧ OnlyPort n s t ∧
          (t.portAt n).state = .train ∧ (t.portAt n).fullTrain = true ∧ (t.portAt n).attempts = q.attempts + 1) ∧
        (q.fullTrain = true → 2 ≤ q.attempts → ∃ t, exec (.trainingComplete n signal ok lanes) s = .next t ∧ (t.portAt n).state = .down ∧ t.mem = s.mem ∧
          (signal = false → (t.portAt n).reason = 2) ∧ (signal = true → ok = false → (t.portAt n).reason = 3) ∧
          (signal = true → ok = true → (t.portAt n).reason = 5))))

/-- RETRAIN_COMPLETE (R272, R280, R283, R284, R286, R287): a degraded port comes back ACTIVE at the width its lanes leave and sends its held flits again; a
retrain that fails is a link loss. Within the hold a training that leaves lanes brings the RESUME exchange, with lanes regained by full training alone;
one that fails is followed by a full one, and a full one that fails leaves its reason for the hold's expiry. -/
def Claim.PortRetraining : Prop :=
  ∀ n signal ok (lanes : BitVec 4) s, n < nPorts →
    let q := s.portAt n
    let have_ := if q.holding && q.fullTrain then lanes else q.lanesOk &&& lanes
    (q.state ≠ .retrain ∨ q.resume = true ∨ s.trainTurn n = false → exec (.retrainComplete n signal ok lanes) s = .next s) ∧
    (q.state = .retrain → q.resume = false → s.trainTurn n = true →
      (signal = true → ok = true → have_ ≠ 0 → ∃ t, exec (.retrainComplete n signal ok lanes) s = .next t ∧ t.mem = s.mem ∧
        (t.portAt n).lanesOk = have_ ∧ (t.portAt n).lanes = lanesFor have_ ∧ (t.portAt n).width = widthOf have_ ∧ (t.portAt n).held = q.held ∧
        (t.portAt n).rxNext = q.rxNext ∧ (t.portAt n).txSeq = q.txSeq ∧
        (q.holding = false → (t.portAt n).resend = q.held.map (·.1) ∧ (q.stormed = true → (t.portAt n).stormAt = some s.refTick) ∧
          ((∀ m, m < nPorts → m ≠ n → (s.portAt m).state = .active → (s.portAt m).lport ≠ q.lport) →
            (t.portAt n).state = .active ∧ (t.portAt n).lport = q.lport) ∧
          ∀ m, m < n → (s.portAt m).state = .active → (s.portAt m).lport = q.lport → (t.portAt n).state = .quarantine ∧ (t.portAt n).reason = 12) ∧
        (q.holding = true → (t.portAt n).state = .retrain ∧ (t.portAt n).resume = true ∧ (t.portAt n).helloDue = true ∧
          ∀ m, m ≠ n → t.portAt m = s.portAt m)) ∧
      (signal = false ∨ ok = false ∨ have_ = 0 →
        (q.holding = false → ∃ t, exec (.retrainComplete n signal ok lanes) s = .next t ∧ (q.anchor = false → OnlyPort n s t) ∧ t.mem = s.mem ∧ (t.portAt n).state = .retrain ∧
          (t.portAt n).holding = true ∧ (t.portAt n).holdReason = 6 ∧ (t.portAt n).linkDown = satAdd max48 q.linkDown ∧ (t.portAt n).held = q.held) ∧
        (q.holding = true → q.fullTrain = false → ∃ t, exec (.retrainComplete n signal ok lanes) s = .next t ∧ OnlyPort n s t ∧
          t.portAt n = { q with fullTrain := true }) ∧
        (q.holding = true → q.fullTrain = true → ∃ t, exec (.retrainComplete n signal ok lanes) s = .next t ∧ OnlyPort n s t ∧
          (t.portAt n).state = .retrain ∧ (t.portAt n).held = q.held ∧
          (signal = false → (t.portAt n).holdReason = 2) ∧ (signal = true → ok = false → (t.portAt n).holdReason = 3) ∧
          (signal = true → ok = true → (t.portAt n).holdReason = 5))))

/-- Widths (R263): every lane gives 4; without all four, both lanes of a pair give 2; one lane or two of different pairs give 1. -/
def Claim.PortWidths : Prop :=
  ∀ l : BitVec 4, (widthOf l = 4 ↔ l = 15) ∧ (widthOf l = 0 ↔ l = 0) ∧
    (widthOf l = 2 ↔ l ≠ 15 ∧ ((l.getLsbD 0 = true ∧ l.getLsbD 1 = true) ∨ (l.getLsbD 2 = true ∧ l.getLsbD 3 = true)))

/-- A port's timers, training, retraining and width. The whole of what its parts say.
Model's choices it rests on: log 24, 56. -/
def Obligations.PortStates : Prop :=
  Claim.PortTimers ∧ Claim.PortTraining ∧ Claim.PortRetraining ∧ Claim.PortWidths

/-- Lanes and losses (R274, R282, R283, R286, R287, R291, R331): a window's counters gain what it showed, and a healthy window brings nothing else; a lane
found unhealthy or lost retrains the port to the widest width left, and the last lane lost is a link loss, either counted in DEGRADE and reported; a
link loss counts once and holds the port with its replay buffer; the hold's expiry takes it DOWN, every message not wholly acknowledged or left open
counted lost, those left open reported to their receivers; the anchor port's loss of lock returns the reference to local. -/
def Claim.LanesAndLosses : Prop :=
  ∀ n s, n < nPorts →
    let q := s.portAt n
    (∀ lanes cws, q.state = .active → s.fw.handoff = false →
      ∃ t, exec (.laneEvalWindow n lanes cws) s = .next t ∧ t.mem = s.mem ∧ (∀ m, m ≠ n → t.portAt m = s.portAt m) ∧ (t.portAt n).held = q.held ∧
        (t.portAt n).retryAt = q.retry ∧
        (∀ k x, k < 17 → cws[k]? = some x → Map.get 0 (t.portAt n).cwHist k = satAdd max48 (Map.get 0 q.cwHist k) x) ∧
        (∀ l x, l < 4 → lanes[l]? = some x → Map.get 0 (t.portAt n).laneErr l = satAdd max48 (Map.get 0 q.laneErr l) x.bitErrs ∧
          Map.get 0 (t.portAt n).laneSym l = satAdd max64 (Map.get 0 q.laneSym l) x.symbols) ∧
        (lanes.length = 4 → (∀ l ∈ lanes, LaneStat_bad l = false) → cws.getD 16 0 ≤ 16 →
          (t.portAt n).state = .active ∧ (t.portAt n).lanesOk = q.lanesOk ∧ (t.portAt n).width = q.width ∧
            (q.retry - q.retryAt ≤ 64 → OnlyPort n s t)) ∧
        (q.lanesOk &&& unhealthy lanes cws ≠ 0 → (t.portAt n).state = .retrain ∧ (t.portAt n).lanesOk = q.lanesOk &&& ~~~unhealthy lanes cws ∧
          (t.portAt n).degrade = satAdd max48 q.degrade)) ∧
    (∀ lanes cws, q.state ≠ .active ∨ s.fw.handoff = true → exec (.laneEvalWindow n lanes cws) s = .next s) ∧
    (∀ lane, lane < 4 → q.state = .active → q.lanesOk.getLsbD lane = true →
      let left := q.lanesOk &&& ~~~(1#4 <<< lane)
      ∃ t, exec (.laneLossOfLock n lane) s = .next t ∧ t.mem = s.mem ∧ (∀ m, m ≠ n → t.portAt m = s.portAt m) ∧ (t.portAt n).state = .retrain ∧
        (t.portAt n).lanesOk = left ∧ (t.portAt n).degrade = satAdd max48 q.degrade ∧ (t.portAt n).held = q.held ∧
        (s.crumb.errQ.length < t.crumb.errQ.length ∨ 64 ≤ s.crumb.errQ.length) ∧
        (left ≠ 0 → (t.portAt n).holding = q.holding ∧ (t.portAt n).linkDown = q.linkDown) ∧
        (left = 0 → (t.portAt n).holding = true ∧ (t.portAt n).holdReason = 5 ∧
          (q.holding = false → (t.portAt n).linkDown = satAdd max48 q.linkDown))) ∧
    (∀ lane, lane < 4 → q.state ≠ .active ∨ q.lanesOk.getLsbD lane = false → exec (.laneLossOfLock n lane) s = .next s) ∧
    (q.trained = true → q.holding = false → ∃ t, exec (.linkLoss n) s = .next t ∧ (∀ m, m ≠ n → t.portAt m = s.portAt m) ∧ t.mem = s.mem ∧
      (q.anchor = false → OnlyPort n s t) ∧ (q.anchor = true → t.clk.fabref = 0 ∧ t.clk.anchorWait = true) ∧
      t.portAt n = { q.toRetrain with fullTrain := false, holding := true, holdReason := 6, resume := false, anchor := false, linkDown := satAdd max48 q.linkDown }) ∧
    (q.trained = false → q.state ≠ .retrain → exec (.linkLoss n) s = .next s) ∧
    (q.state = .retrain → q.holding = true → ∃ t, exec (.linkHoldExpiry n) s = .next t ∧ t.mem = s.mem ∧ (t.portAt n).state = .down ∧
      (t.portAt n).reason = q.holdReason ∧ (t.portAt n).held = [] ∧ (t.portAt n).queue = [] ∧ (t.portAt n).openMsg = [] ∧
      (t.portAt n).msgLost = satAdd max48 q.msgLost (q.unacked.length + q.openMsg.length) ∧ t.outbox = s.outbox ++ q.openMsg.map (fun o => .openLost n o.1) ∧
      ∀ m, m ≠ n → t.portAt m = s.portAt m) ∧
    (q.state ≠ .retrain ∨ q.holding = false → exec (.linkHoldExpiry n) s = .next s) ∧
    (q.anchor = true → ∃ t, exec (.anchorLossOfLock n) s = .next t ∧ t.mem = s.mem ∧ t.clk.fabref = 0 ∧ t.clk.anchorWait = true ∧
      (t.portAt n).state = .retrain ∧ (t.portAt n).holding = true ∧ (t.portAt n).anchor = false) ∧
    (let x := q.hour
     let u := s.modPort n fun q => { q with crcHour := q.crcFail, rxHour := q.rxFlits }
     (x.2 < x.1 * 10 ^ 12 → exec (.linkQuality n) s = .next (u.crumbOut 0 0x0407 (uPort n) [(10, .u x.1)])) ∧
     (x.1 * 10 ^ 12 ≤ x.2 → exec (.linkQuality n) s = .next u))

/-- Dark periods (R288, R289): the message starts the procedure on every port it names, one in RETRAIN going dark at once with its replay buffer kept; both
DARK flits exchanged, and this side's acknowledged, bring DARK; the message or the peer's training relights, with full training below width 4; a
port dark beyond DARK_MAX is DOWN, DARK_TIMEOUT. -/
def Claim.DarkPeriods : Prop :=
  (∀ h mask s, Passes h 0x0086 .owner s →
    let u := s.taken h
    h.part.toNat < nParts → (u.partAt h.part.toNat).valid = true → (∀ n ∈ maskPorts mask, (u.partAt h.part.toNat).pairs.getLsbD (n / 2) = true) →
    ∃ t, Answers (.dark h mask) h 0x0086 0 [] s t ∧ t.mem = s.mem ∧ (∀ n, n ∉ maskPorts mask → t.portAt n = u.portAt n) ∧
      ∀ n ∈ maskPorts mask,
        ((u.portAt n).state ≠ .retrain → (u.portAt n).trained = true → t.portAt n = { u.portAt n with darkReq := true }) ∧
        ((u.portAt n).state = .retrain → (t.portAt n).state = .dark ∧ (t.portAt n).darkKept = true ∧ (t.portAt n).held = (u.portAt n).held)) ∧
  (∀ h mask s n, Passes h 0x0086 .owner s →
    let u := s.taken h
    h.part.toNat < nParts → (u.partAt h.part.toNat).valid = true → n ∈ maskPorts mask → (u.partAt h.part.toNat).pairs.getLsbD (n / 2) = false →
    exec (.dark h mask) s = .next (u.respond h 0x0086 stForeign []) ∧
      (Passes h 0x0087 .owner s → exec (.relight h mask) s = .next (u.respond h 0x0087 stForeign []))) ∧
  (∀ n s, n < nPorts →
    let q := s.portAt n
    (q.trained = true → q.darkReq = true → q.darkSent = true → q.darkRcvd = true → (∀ x ∈ q.held, x.2.vc ≠ 8) →
      ∃ t, exec (.darkEntered n) s = .next t ∧ t.mem = s.mem ∧ (t.portAt n).state = .dark ∧ (t.portAt n).fullTrain = decide (q.width < 4) ∧ (t.portAt n).width = 0 ∧
        (t.portAt n).lanes = 0 ∧ (t.portAt n).held = q.held) ∧
    (q.state = .dark → s.litAt n = true → ∃ t, exec (.peerTrainingSignal n) s = .next t ∧ OnlyPort n s t ∧ (t.portAt n).state = .train ∧
      (t.portAt n).fullTrain = q.fullTrain ∧ (t.portAt n).held = q.held) ∧
    (q.state = .dark → s.litAt n = false → ∃ t, exec (.peerTrainingSignal n) s = .next t ∧ t.mem = s.mem ∧ (t.portAt n).state = .down ∧
      (t.portAt n).reason = 1) ∧
    (q.state ≠ .dark → exec (.peerTrainingSignal n) s = .next s ∧ exec (.darkTimeout n) s = .next s) ∧
    (q.state = .dark → ∃ t, exec (.darkTimeout n) s = .next t ∧ t.mem = s.mem ∧ (t.portAt n).state = .down ∧ (t.portAt n).reason = 8 ∧ (t.portAt n).held = [])) ∧
  (∀ h mask s, Passes h 0x0087 .owner s →
    let u := s.taken h
    h.part.toNat < nParts → (u.partAt h.part.toNat).valid = true → (∀ n ∈ maskPorts mask, (u.partAt h.part.toNat).pairs.getLsbD (n / 2) = true) →
    ∃ t, Answers (.relight h mask) h 0x0087 0 [] s t ∧ t.mem = s.mem ∧ (∀ n, n ∉ maskPorts mask → t.portAt n = u.portAt n) ∧
      ∀ n ∈ maskPorts mask,
        ((u.portAt n).state ≠ .dark → t.portAt n = u.portAt n) ∧
        ((u.portAt n).state = .dark → u.litAt n = true → (t.portAt n).state = .train ∧ (t.portAt n).fullTrain = (u.portAt n).fullTrain) ∧
        ((u.portAt n).state = .dark → u.litAt n = false → (t.portAt n).state = .down ∧ (t.portAt n).reason = 1))

/-- Lanes lost, dark periods, ports down. The whole of what its parts say.
Model's choices it rests on: log 51, 56. -/
def Obligations.PortLosses : Prop :=
  Claim.LanesAndLosses ∧ Claim.DarkPeriods

/-- D2D_FRAME_RECEIVE and D2D_NAK_RECEIVE (R414, R415): a frame in sequence is accepted, releases what it acknowledges, and is delivered once its stream
has come so far, a frame that waited for it following at once; any other is NAKed with the sequence expected, its stream and the next sequence
standing. A NAK sends again every frame after the last one acknowledged. -/
def Claim.ModuleFrames : Prop :=
  (∀ die k f s, die < nDies → k < 24 →
    let i := 24 * die + k
    let j := 2 * die + linkOf k
    let m := s.moduleAt i
    m.carries = true → (s.dieAt die).heldReset = false →
    (f.crcOk = true → f.modSeq = m.rxNext → ∃ t, exec (.d2dFrameReceive die k f) s = .next t ∧ (t.moduleAt i).rxNext = m.rxNext + 1 ∧
      (t.moduleAt i).replay = m.replay.filter (fun x => decide (f.ack < x.modSeq)) ∧ (∀ x, x ≠ i → t.moduleAt x = s.moduleAt x) ∧ t.mem = s.mem ∧
      ((s.dlinkAt j).waiting = [] → f.streamSeq = Map.get 0 (s.dlinkAt j).next f.stream →
        t.outbox = s.outbox ++ [.frame die k f] ∧ Map.get 0 (t.dlinkAt j).next f.stream = f.streamSeq + 1) ∧
      ((s.dlinkAt j).waiting = [] → f.streamSeq ≠ Map.get 0 (s.dlinkAt j).next f.stream →
        t.outbox = s.outbox ∧ (t.dlinkAt j).waiting = [f] ∧ (t.dlinkAt j).next = (s.dlinkAt j).next) ∧
      (∀ g, (s.dlinkAt j).waiting = [g] → g.stream = f.stream → f.streamSeq = Map.get 0 (s.dlinkAt j).next f.stream → g.streamSeq = f.streamSeq + 1 →
        t.outbox = s.outbox ++ [.frame die k f, .frame die k g] ∧ (t.dlinkAt j).waiting = [])) ∧
    (f.crcOk = false ∨ f.modSeq ≠ m.rxNext → (f.crcOk = false → (recent s.refTick m.crcAt).length < 16) → (f.crcOk = true → m.crcAt.length < 16) →
      ∃ t, exec (.d2dFrameReceive die k f) s = .next t ∧ t.outbox = s.outbox ++ [.d2dNak die k m.rxNext] ∧ (t.moduleAt i).rxNext = m.rxNext ∧
        (t.moduleAt i).replay = m.replay ∧ (f.crcOk = false → (t.moduleAt i).crcFail = satAdd max48 m.crcFail) ∧ (t.moduleAt i).retraining = false ∧
        t.dlink = s.dlink ∧ t.mem = s.mem) ∧
    (f.crcOk = false → 16 ≤ (recent s.refTick m.crcAt).length →
      ∃ t, exec (.d2dFrameReceive die k f) s = .next t ∧ (t.moduleAt i).retraining = true ∧ t.dlink = s.dlink)) ∧
  (∀ die k ack s, die < nDies → k < 24 →
    let i := 24 * die + k
    let m := s.moduleAt i
    let left := m.replay.filter fun x => decide (ack ≤ x.modSeq)
    m.carries = true → (s.dieAt die).heldReset = false →
    ∃ t, exec (.d2dNakReceive die k ack) s = .next t ∧ (t.moduleAt i).replay = left ∧ t.outbox = s.outbox ++ left.map (fun f => .frame die k f) ∧
      (t.moduleAt i).retry = satAdd max48 m.retry ∧ (∀ x, x ≠ i → t.moduleAt x = s.moduleAt x) ∧ t.mem = s.mem)

/-- D2D_RETRAIN (R416–R419): up to four failing lanes a direction are repaired at full width; beyond that the half with fewer failures carries the module
where it has at most four a direction, and otherwise the module is retired; the fifth degraded module of a die's IOD link holds the die in reset, that of
a neighbour link fences the link at both of its dies. -/
def Claim.ModulesRetrain : Prop :=
  ∀ die k (tx rx : List Nat) s, die < nDies → k < 24 →
    let i := 24 * die + k
    let m := s.moduleAt i
    let h := decide (inHalf true tx + inHalf true rx < inHalf false tx + inHalf false rx)
    m.retired = false → m.off = false → (s.dieAt die).heldReset = false →
    ∃ t, exec (.d2dRetrain die k tx rx) s = .next t ∧ (t.moduleAt i).retraining = false ∧ (t.moduleAt i).retrains = satAdd 65535 m.retrains ∧
      (t.moduleAt i).rxNext = m.rxNext ∧ t.dlink = s.dlink ∧ (t.linkDegraded die (linkOf k) < 5 → t.mem = s.mem) ∧
      (tx.length ≤ 4 → rx.length ≤ 4 → (t.moduleAt i).x32 = false ∧ (t.moduleAt i).retired = false ∧ (t.moduleAt i).txRepair = tx.length ∧
        (t.moduleAt i).rxRepair = rx.length) ∧
      (4 < tx.length ∨ 4 < rx.length → inHalf h tx ≤ 4 → inHalf h rx ≤ 4 → (t.moduleAt i).x32 = true ∧ (t.moduleAt i).half = h ∧
        (t.moduleAt i).retired = false ∧ (t.moduleAt i).txRepair = inHalf h tx ∧ (t.moduleAt i).rxRepair = inHalf h rx) ∧
      (4 < tx.length ∨ 4 < rx.length → 4 < inHalf h tx ∨ 4 < inHalf h rx → (t.moduleAt i).retired = true) ∧
      (k < 16 → s.linkDegraded die 0 < 5 → 5 ≤ t.linkDegraded die 0 → (t.dieAt die).heldReset = true) ∧
      (16 ≤ k → s.linkDegraded die 1 < 5 → 5 ≤ t.linkDegraded die 1 → (t.dieAt die).nbrFenced = true ∧ (t.dieAt (neighbour die)).nbrFenced = true)

/-- Modules between dies: frames, retraining. The whole of what its parts say.
Model's choices it rests on: log 15, 57, 103. -/
def Obligations.DieLinks : Prop :=
  Claim.ModuleFrames ∧ Claim.ModulesRetrain

/-- LEASE (R379, R381): a renewal reloads the countdown of each partition named and returns an orphan to RUN, the stops of its policy cancelled; a
release orphans each; a mask with a partition of another owner is refused DENIED. -/
def Claim.LeaseMessages : Prop :=
  ∀ h (mask : Byte) s, Passes h 0x0001 .owner s →
    let u := s.taken h
    h.part.toNat < nParts → (u.partAt h.part.toNat).valid = true →
    ((∀ p, p < nParts → mask.getLsbD p = true → u.permits { h with part := BitVec.ofNat 8 p } .owner = true ∧ (u.partAt p).valid = true) →
      (∃ t, Answers (.leaseRenew h mask) h 0x0001 0 [] s t ∧ t.mem = s.mem ∧
        ∀ p, p < nParts →
          (mask.getLsbD p = false → t.partAt p = u.partAt p) ∧
          (mask.getLsbD p = true → (t.partAt p).leaseLeft = BitVec.ofNat 32 (100 * (u.partAt p).lease.toNat) ∧ (t.partAt p).leaseOn = true ∧
            ((u.partAt p).state ≠ .orphan → (t.partAt p).state = (u.partAt p).state) ∧
            ((u.partAt p).state = .orphan → (t.partAt p).state = .run ∧
              ∀ n st x, (u.streamAt n st).run = true → (u.streamAt n st).part = p → (u.streamAt n st).halt = some x → x.reason = 3 →
                (t.streamAt n st).halt = none ∧ (t.streamAt n st).run = true))) ∧
      ∃ t, Answers (.leaseRelease h mask) h 0x0001 0 [] s t ∧
        ∀ p, p < nParts → mask.getLsbD p = true → (u.partAt p).state ≠ .orphan → Orphaned p u t) ∧
    (∀ p, p < nParts → mask.getLsbD p = true → u.permits { h with part := BitVec.ofNat 8 p } .owner = false →
      exec (.leaseRenew h mask) s = .next (u.respond h 0x0001 5 []) ∧ exec (.leaseRelease h mask) s = .next (u.respond h 0x0001 5 []))

/-- LEASE_EXPIRY and ORPHAN_STALL_TIMEOUT (R379, R382): a countdown at 0 orphans its partition, but not in a handoff window; a stream of an orphan that
completes no STEP stops at its next safe point. -/
def Claim.LeasesExpire : Prop :=
  (∀ p s, p < nParts →
    ((s.partAt p).valid = true → (s.partAt p).leaseOn = true → (s.partAt p).leaseLeft = 0 → s.fw.handoff = false → (s.partAt p).state ≠ .orphan →
      ∃ t, exec (.leaseExpiry p) s = .next t ∧ Orphaned p s t ∧
        ∀ x, s.stewardPort = some x → x ≠ (s.partAt p).owner → s.runningOf p = [] → Told x (8 + p) (.orphan p (s.partAt p).owner 0) s t) ∧
    ((s.partAt p).leaseLeft ≠ 0 ∨ s.fw.handoff = true → exec (.leaseExpiry p) s = .next s)) ∧
  (∀ n st s, n < nTiles →
    let x := s.streamAt n st
    x.run = true → (s.partAt x.part).state = .orphan → (s.partAt x.part).orphan ≠ 1 →
    ∃ t, exec (.orphanStallTimeout n st) s = .next t ∧ t.mem = s.mem ∧
      (x.brew.phase = .idle → (t.streamAt n st).run = false) ∧
      (x.brew.phase ≠ .idle → (t.streamAt n st).run = true ∧ (t.streamAt n st).halt = some { reason := 3, safe := true }))

/-- PART_SET (R375, Table 14-11): the partition is defined with the values given, a new owner beginning a full lease; a change of owner while it owns a unit is
BUSY, an illegal value RANGE; no ownership changes. -/
def Claim.PartitionsSet : Prop :=
  ∀ h a s, Passes h 0x0020 .steward s →
    let u := s.taken h
    let p := h.part.toNat
    let q := u.partAt p
    (p < nParts → (q.valid = false ∨ q.owner = a.owner ∨ u.ownsAny p = false) → a.orphan ≠ 3 → (a.orphan = 2 → a.orphanN ≠ 0) → a.lease ≠ 0 → a.quota.toNat ≤ 4096 →
      (∀ e, e < 12 → u.entriesUsed p e ≤ a.quota.toNat) →
      ∃ t, Answers (.partSet h a) h 0x0020 0 [] s t ∧ t.mem = s.mem ∧ t.ptTile = u.ptTile ∧ t.stack = u.stack ∧ (∀ k, k ≠ p → t.partAt k = u.partAt k) ∧
        (t.partAt p).valid = true ∧ (t.partAt p).owner = a.owner ∧ (t.partAt p).orphan = a.orphan ∧ (t.partAt p).orphanN = a.orphanN ∧
        (t.partAt p).lease = a.lease ∧ (t.partAt p).boardMask = a.boardMask ∧ (t.partAt p).quota = a.quota ∧ (t.partAt p).pairs = q.pairs ∧
        (q.state = .free → (t.partAt p).state = .idle) ∧ (q.state ≠ .free → (t.partAt p).state = q.state) ∧
        (q.valid = false ∨ q.owner ≠ a.owner → (t.partAt p).leaseLeft = BitVec.ofNat 32 (100 * a.lease.toNat) ∧ (t.partAt p).leaseOn = true)) ∧
    (p < nParts → q.valid = true → q.owner ≠ a.owner → u.ownsAny p = true → exec (.partSet h a) s = .next (u.respond h 0x0020 stBusy [])) ∧
    ((q.valid = false ∨ q.owner = a.owner) → a.orphan = 3 ∨ (a.orphan = 2 ∧ a.orphanN = 0) ∨ a.lease = 0 ∨ 4096 < a.quota.toNat →
      exec (.partSet h a) s = .next (u.respond h 0x0020 stRange []))

/-- PITCH_SET, PROVING_CTRL, MAINTENANCE (R191, R349): a new pitch waits for the memory controller; the settings of a die's proving are those given; an
unowned stack enters maintenance, and on leaving it every byte of it reads 0, every other byte standing; an owned stack is BUSY. -/
def Claim.StewardSettings : Prop :=
  (∀ h k g code s, Passes h 0x0023 .steward s →
    let u := s.taken h
    k < nStacks → g < 80 → pitchOk code = true →
    ∃ t, Answers (.pitchSet h k g code) h 0x0023 0 [] s t ∧ t.mem = s.mem ∧ (t.stackAt k).gran = (u.stackAt k).gran ∧
      (code ≠ granPitch (Map.get 0 (u.stackAt k).gran g) → (g, code) ∈ (t.stackAt k).pitchPend) ∧ (∀ y ∈ (t.stackAt k).pitchPend, y.1 = g → y.2 = code) ∧
      ∀ j, j ≠ k → t.stackAt j = u.stackAt j) ∧
  (∀ h d rot win (oven : BitVec 8) s, Passes h 0x0090 .steward s →
    let u := s.taken h
    (d < nDies → oven.toNat ≤ 15 → ∃ t, Answers (.provingCtrl h d rot win oven) h 0x0090 0 [] s t ∧ t.mem = s.mem ∧
      t.dieAt d = { u.dieAt d with rotEn := rot, windowEn := win, ovenMax := oven.toNat } ∧ ∀ j, j ≠ d → t.dieAt j = u.dieAt j) ∧
    (nDies ≤ d ∨ 15 < oven.toNat → exec (.provingCtrl h d rot win oven) s = .next (u.respond h 0x0090 stRange []))) ∧
  (∀ h k s, Passes h 0x0091 .steward s →
    let u := s.taken h
    k < nStacks →
    ((∀ g ∈ (u.stackAt k).gran, granOwned g.2 = false) → (u.stackAt k).fenced = false →
      ∃ t, Answers (.maintenanceEnter h k) h 0x0091 0 [] s t ∧ t.mem = s.mem ∧ t.stackAt k = { u.stackAt k with maint := true }) ∧
    ((∃ g ∈ (u.stackAt k).gran, granOwned g.2 = true) → exec (.maintenanceEnter h k) s = .next (u.respond h 0x0091 stBusy [])) ∧
    ((u.stackAt k).maint = true → ∃ t, Answers (.maintenanceLeave h k) h 0x0091 0 [] s t ∧ t.stackAt k = { u.stackAt k with maint := false } ∧
      (∀ a, stackOf a = k → Map.get 0 t.mem a = 0 ∧ Map.get false t.poison a = false) ∧ ∀ a, stackOf a ≠ k → Map.get 0 t.mem a = Map.get 0 s.mem a))

/-- Leases, partitions, steward settings. The whole of what its parts say.
Model's choices it rests on: log 29, 33, 35. -/
def Obligations.LeasesAndPartitions : Prop :=
  Claim.LeaseMessages ∧ Claim.LeasesExpire ∧ Claim.PartitionsSet ∧ Claim.StewardSettings

/-- START (R37, R40, R120, R144, R180, R372): the stream of every member tile runs from the entry address at the step named, with its rank, size and loaf in
s13 to s15, its other registers standing, and what an earlier program of the loaf left in the combining table is gone; no other stream, and no other tile,
changes. In order, a loaf the partition does not own is FOREIGN, an absent member DEGRADED, a die not released or a running stream BUSY, an entry address
outside the partition or not of 16 bytes RANGE, and nothing changes. -/
def Claim.ProgramsStart : Prop :=
  ∀ h loaf st entry step s, Passes h 0x0010 .owner s →
    let u := s.taken h
    let p := h.part.toNat
    let tiles := u.loafTiles loaf
    let busy := !u.allReleased tiles || tiles.any fun n => (u.streamAt n st).run
    p < nParts → (u.partAt p).valid = true → u.deepAsleep = false →
    (u.ownsLoaf p loaf = true → u.refDegraded loaf = false → busy = false → entry.toNat % 16 = 0 → u.ownsRegion p entry.toNat 16 = true → tiles.Nodup →
      ∃ t, Answers (.start h loaf st entry step) h 0x0010 0 [] s t ∧ t.mem = s.mem ∧
        (∀ r n, tiles[r]? = some n →
          let x := t.streamAt n st
          x.run = true ∧ x.step = step ∧ x.pc = entry ∧ x.part = p ∧ x.loaf = loaf ∧ x.fault = {} ∧ x.fetchBuf = [] ∧ x.fetchBad = [] ∧ x.brew.phase = .idle ∧
            x.readS 13 = BitVec.ofNat 64 r ∧ x.readS 14 = BitVec.ofNat 64 tiles.length ∧ x.readS 15 = BitVec.ofNat 64 loaf.toNat ∧
            (∀ q, q < 12 → x.readS q = (u.streamAt n st).readS q) ∧ (∀ q, x.readP q = (u.streamAt n st).readP q)) ∧
        (∀ n st', st' ≠ st → t.streamAt n st' = u.streamAt n st') ∧
        (∀ n, n ∉ tiles → (∀ c ∈ u.comb, c.loaf = loaf → ∀ x ∈ c.ids, x.1 ≠ n) → t.tileAt n = u.tileAt n) ∧
        (∀ c ∈ t.comb, c.loaf = loaf → c.stream ≠ some st) ∧ (∀ c ∈ u.comb, c.loaf ≠ loaf → c ∈ t.comb) ∧
        ((u.partAt p).state ≠ .orphan → (u.partAt p).state ≠ .parking → (t.partAt p).state = .run) ∧
        t.runs = u.runs ++ [{ loaf := loaf, stream := st, part := p, members := tiles, left := tiles }]) ∧
    (u.ownsLoaf p loaf = false → exec (.start h loaf st entry step) s = .next (u.respond h 0x0010 stForeign [])) ∧
    (u.ownsLoaf p loaf = true → u.refDegraded loaf = true → exec (.start h loaf st entry step) s = .next (u.respond h 0x0010 stDegraded [])) ∧
    (u.ownsLoaf p loaf = true → u.refDegraded loaf = false → busy = true → exec (.start h loaf st entry step) s = .next (u.respond h 0x0010 stBusy [])) ∧
    (u.ownsLoaf p loaf = true → u.refDegraded loaf = false → busy = false → entry.toNat % 16 ≠ 0 ∨ u.ownsRegion p entry.toNat 16 = false →
      exec (.start h loaf st entry step) s = .next (u.respond h 0x0010 stRange []))

/-- STOP and PARK (R373): STOP ends each named stream of every member at once, its open brew spilled with code 6 and USER 0xFE, TILE_FAULT and the step
number standing, one whose record is written once its pour completes; PARK ends every stream outside a brew and marks the others to end after theirs; no byte of memory changes. -/
def Claim.ProgramsStop : Prop :=
  (∀ h loaf (mask : BitVec 3) s, Passes h 0x0011 .owner s →
    let u := s.taken h
    h.part.toNat < nParts → (u.partAt h.part.toNat).valid = true → u.ownsLoaf h.part.toNat loaf = true →
    ∃ t, Answers (.stop h loaf mask) h 0x0011 0 [] s t ∧ t.mem = s.mem ∧
      (∀ n st, n ∈ u.loafTiles loaf → mask.getLsbD st.code = true → (u.streamAt n st).run = true → (u.streamAt n st).brew.phase ≠ .poured →
        let x := u.streamAt n st
        let y := t.streamAt n st
        y.run = false ∧ y.fault = x.fault ∧ y.step = x.step ∧ y.brew.phase = .idle ∧
          (x.brew.phase = .open_ → 1 ≤ x.brew.statusReg → x.brew.statusReg ≤ 11 → y.readS x.brew.statusReg = BitVec.ofNat 64 (256 * 0xFE + 6))) ∧
      (∀ n st, n ∈ u.loafTiles loaf → mask.getLsbD st.code = true → (u.streamAt n st).run = true → (u.streamAt n st).brew.phase = .poured →
        (t.streamAt n st).run = true ∧ (t.streamAt n st).halt = some { reason := 1, safe := true }) ∧
      (∀ n st, n ∉ u.loafTiles loaf ∨ mask.getLsbD st.code = false → (t.streamAt n st).run = (u.streamAt n st).run)) ∧
  (∀ h s, Passes h 0x0012 .owner s →
    let u := s.taken h
    let p := h.part.toNat
    p < nParts → (u.partAt p).valid = true → (u.partAt p).state ≠ .parked →
    ∃ t, Answers (.park h) h 0x0012 0 [] s t ∧ t.mem = s.mem ∧
      (u.runningOf p = [] → (t.partAt p).state = .parked) ∧
      (∀ n st, (u.streamAt n st).run = true → (u.streamAt n st).part = p →
        ((u.streamAt n st).brew.phase = .idle → (t.streamAt n st).run = false) ∧
        ((u.streamAt n st).brew.phase ≠ .idle → (t.streamAt n st).run = true ∧ (t.streamAt n st).halt = some { reason := 3, safe := true } ∧
          ((t.partAt p).state = .parking ∨ (u.partAt p).state = .orphan ∧ (t.partAt p).state = .orphan))) ∧
      ∀ n st, (u.streamAt n st).part ≠ p → (t.streamAt n st).run = (u.streamAt n st).run)

/-- IDLE_CLEAR and PIN_CLEAR (R142, R162): the idle counters of a member whose step boundary has passed are 0, otherwise the clear waits for it; PINS of the
shards named is 0; every other entry stands. -/
def Claim.CountersClear : Prop :=
  (∀ h loaf step s, Passes h 0x0013 .owner s →
    let u := s.taken h
    h.part.toNat < nParts → (u.partAt h.part.toNat).valid = true → u.ownsLoaf h.part.toNat loaf = true → (u.loafTiles loaf).Nodup →
    ∃ t, Answers (.idleClear h loaf step) h 0x0013 0 [] s t ∧ t.mem = s.mem ∧ (∀ n, n ∉ u.loafTiles loaf → t.tileAt n = u.tileAt n) ∧
      ∀ n, n ∈ u.loafTiles loaf → (u.tileAt n).idleClear = [] →
        ((∀ m, (u.tileAt n).minStep = some m → step.toNat < m) → t.tileAt n = (u.tileAt n).clearIdle) ∧
        (∀ m, (u.tileAt n).minStep = some m → m ≤ step.toNat → t.tileAt n = { u.tileAt n with idleClear := [step] })) ∧
  (∀ h tensor first count s, Passes h 0x0014 .owner s →
    let u := s.taken h
    let p := h.part.toNat
    p < nParts → (u.partAt p).valid = true →
    ∃ t, Answers (.pinClear h tensor first count) h 0x0014 0 [] s t ∧ t.mem = s.mem ∧ t.tile = u.tile ∧
      ∀ e i, let d := u.dirAt e i
        t.dirAt e i = if d.valid = true ∧ d.part = p ∧ d.tensor = tensor ∧ first.toNat ≤ d.shard.toNat ∧ d.shard.toNat < first.toNat + count
          then { d with pins := 0 } else d)

/-- START, STOP and the clearing of counters. The whole of what its parts say.
Model's choices it rests on: log 12, 33, 34, 86, 88. -/
def Obligations.Programs : Prop :=
  Claim.ProgramsStart ∧ Claim.ProgramsStop ∧ Claim.CountersClear

/-- PART_ADD (R375, R377, R191): free units join the partition at once, a new pitch waiting for the memory controller, and EV_PART_DONE reports them; nothing
of their contents changes; a unit of another partition, or with a switch pending, is BUSY. -/
def Claim.UnitsJoin : Prop :=
  ∀ h change tiles grans (pairs : BitVec 32) s, Passes h 0x0021 .steward s →
    let u := s.taken h
    let p := h.part.toNat
    let us := unitsOf tiles grans pairs
    u.deepAsleep = false →
    ((∀ x ∈ us, u.unitPending x = false ∧ (u.unitOwner x = none ∨ u.unitOwner x = some p)) → (∀ g ∈ grans, (u.stackAt g.stack).maint = false) →
      p < nParts → (u.partAt p).valid = true → u.unitsExist tiles grans = true →
      ∃ t, Answers (.partAdd h change tiles grans pairs) h 0x0021 0 [] s t ∧ t.mem = s.mem ∧ t.tile = u.tile ∧ (t.partAt p).changeId = change ∧
        (∀ n, t.ptTileAt n = if n ∈ tiles then { owned := true, part := p } else u.ptTileAt n) ∧
        (∀ k g, let w := Map.get 0 (u.stackAt k).gran g
          let w' := Map.get 0 (t.stackAt k).gran g
          ((∃ x ∈ grans, x.stack = k ∧ x.g = g) → granOwned w' = true ∧ granPart w' = p ∧ granPitch w' = granPitch w) ∧
          ((∀ x ∈ grans, x.stack = k → x.g ≠ g) → w' = w)) ∧
        (∀ x ∈ grans, (∀ y ∈ grans, y.stack = x.stack → y.g = x.g → y.pitch = x.pitch) →
          x.pitch ≠ granPitch (Map.get 0 (u.stackAt x.stack).gran x.g) → (x.g, x.pitch) ∈ (t.stackAt x.stack).pitchPend) ∧
        (t.partAt p).pairs = (u.partAt p).pairs ||| pairs ∧
        Told (u.partAt p).owner (8 + p) (.partDone change us.length 0 0) u t) ∧
    ((∃ x ∈ us, u.unitPending x = true ∨ ∃ o, u.unitOwner x = some o ∧ o ≠ p) →
      exec (.partAdd h change tiles grans pairs) s = .next (u.respond h 0x0021 stBusy []))

/-- PART_REMOVE (R376, R377): each unit closes to new work of its partition and keeps its owner until it switches; a unit whose switch is pending, or a granule
with a journal or a health region in use, is BUSY, a unit the partition does not own RANGE. -/
def Claim.UnitsClose : Prop :=
  ∀ h change tiles grans (pairs : BitVec 32) s, Passes h 0x0022 .steward s →
    let u := s.taken h
    let p := h.part.toNat
    let q := u.partAt p
    let us := unitsOf tiles grans pairs
    u.deepAsleep = false →
    let held := (q.jvalid && u.regionIn q.jregion journalBytes grans) || (q.hvalid && u.regionIn q.hregion healthBytes grans)
    ((∀ x ∈ us, u.unitPending x = false ∧ u.unitOwner x = some p) → held = false → p < nParts → q.valid = true → us ≠ [] →
      ∃ t, Answers (.partRemove h change tiles grans pairs) h 0x0022 0 [] s t ∧ t.mem = s.mem ∧ (t.partAt p).changeId = change ∧
        (t.partAt p).changes = q.changes ++ [{ id := change, units := us }] ∧ (t.partAt p).pairs = q.pairs ∧
        (∀ n, (t.ptTileAt n).owned = (u.ptTileAt n).owned ∧ (t.ptTileAt n).part = (u.ptTileAt n).part) ∧
        (∀ n, n ∈ tiles → (t.ptTileAt n).pending = true ∧ (t.tileAt n).noOpen = true ∧ (t.tileAt n).str = (u.tileAt n).str) ∧
        (∀ n, n ∉ tiles → t.tileAt n = u.tileAt n) ∧
        (∀ x ∈ grans, Map.get false (t.stackAt x.stack).granPend x.g = true) ∧ (∀ k g, Map.get 0 (t.stackAt k).gran g = Map.get 0 (u.stackAt k).gran g) ∧
        (∀ n, n < 32 → pairs.getLsbD n = true → (t.partAt p).pairPend.getLsbD n = true)) ∧
    ((∃ x ∈ us, u.unitPending x = true) ∨ held = true → exec (.partRemove h change tiles grans pairs) s = .next (u.respond h 0x0022 stBusy [])) ∧
    ((∀ x ∈ us, u.unitPending x = false) → held = false → (∃ x ∈ us, u.unitOwner x ≠ some p) →
      exec (.partRemove h change tiles grans pairs) s = .next (u.respond h 0x0022 stRange []))

/-- PART_UNIT_SWITCH (R376, R378, Table 14-13): a unit at its safe point leaves its partition: a tile's programs end, a granule's shards become invalid,
a pair's messages are lost; contents stand; the last unit of the change reports EV_PART_DONE. A unit not at its safe point stays. -/
def Claim.UnitsSwitch : Prop :=
  ∀ p x s c, p < nParts → (s.partAt p).changes.find? (fun c => c.units.contains x && !c.switched.contains x) = some c → s.replayDue = false →
    (s.maySwitch x = false → exec (.partUnitSwitch p x) s = .next s) ∧
    (s.maySwitch x = true → ∃ t, exec (.partUnitSwitch p x) s = .next t ∧ t.mem = s.mem ∧ t.poison = s.poison ∧
      (∀ n, x = .tile n → (t.ptTileAt n).owned = false ∧ (t.ptTileAt n).pending = false ∧ (t.tileAt n).noOpen = false ∧
        (∀ st, (t.streamAt n st).run = false) ∧ (t.tileAt n).ls = (s.tileAt n).ls ∧ (t.tileAt n).sc = (s.tileAt n).sc ∧ ∀ m, m ≠ n → t.ptTileAt m = s.ptTileAt m) ∧
      (∀ k g, x = .granule k g →
        let w := Map.get 0 (s.stackAt k).gran g
        let w' := Map.get 0 (t.stackAt k).gran g
        granOwned w' = false ∧ granPitch w' = granPitch w ∧ Map.get false (t.stackAt k).granPend g = false ∧
          (∀ i, (t.dirAt k i).valid = true → (t.dirAt k i).inGranule g = false) ∧ t.tile = s.tile) ∧
      (∀ k, x = .pair k → k < 32 → (∀ o, o < nParts → o ≠ p → (s.partAt o).pairs.getLsbD k = false) → (t.partAt p).pairs.getLsbD k = false ∧ (t.partAt p).pairPend.getLsbD k = false ∧
        (t.portAt (2 * k)).queue = [] ∧ (t.portAt (2 * k + 1)).queue = []) ∧
      (c.units.eraseDups.length ≤ c.switched.length + 1 → (t.partAt p).changes = (s.partAt p).changes.erase c))

/-- Units join, close and switch partitions. The whole of what its parts say.
Model's choices it rests on: log 36. -/
def Obligations.UnitMoves : Prop :=
  Claim.UnitsJoin ∧ Claim.UnitsClose ∧ Claim.UnitsSwitch

/-- LOAF_WRITE (R35, R36): a RECT of the partition's tiles takes its place, its SIZE that of its tiles in rank order by die, row, column; a LIST of up to 27 tiles keeps them in the order
given; in order, a writer without right is DENIED, a tile named twice DUP_TILE, a tile of another partition FOREIGN, and the table stands. -/
def Claim.LoavesWritten : Prop :=
  ∀ h a s, Passes h 0x0030 .owner s →
    let u := s.taken h
    let p := laPart a
    let d := u.loafAt a.index
    h.part.toNat < nParts → (u.partAt h.part.toNat).valid = true →
    (u.loafDenied h a = true → exec (.loafWrite h [a]) s = .next (u.respond h 0x0030 stDenied [])) ∧
    (u.loafDenied h a = false → laOutOfRange a = true → exec (.loafWrite h [a]) s = .next (u.respond h 0x0030 stRange [])) ∧
    (u.loafDenied h a = false → laOutOfRange a = false → a.index < 1020 → d.isCont = false → d.contV = false → d.busy = false →
      (∀ i, ∀ r ∈ (u.loafAt i).members, refIsTile r = true ∨ refIndex r ≠ a.index) →
      (laValid a = false → ∃ t, Answers (.loafWrite h [a]) h 0x0030 0 [] s t ∧ t.mem = s.mem ∧ (t.loafAt a.index).valid = false ∧
        ∀ i, i ≠ a.index → (t.loafAt i).members = (u.loafAt i).members ∧ (t.loafAt i).size = (u.loafAt i).size) ∧
      (laValid a = true → laKind a = 1 →
        ((∀ n ∈ rectTiles (laDesc a), u.tilePart n = some p) →
          ∃ t, Answers (.loafWrite h [a]) h 0x0030 0 [] s t ∧ t.mem = s.mem ∧ t.loafTiles (BitVec.ofNat 16 a.index) = rectTiles (laDesc a) ∧
            (t.loafAt a.index).valid = true ∧ (t.loafAt a.index).kind = 1 ∧ (t.loafAt a.index).part = p ∧
            (t.loafAt a.index).size = (rectTiles (laDesc a)).length ∧ (∀ i, i ≠ a.index → (t.loafAt i).members = (u.loafAt i).members ∧ (t.loafAt i).size = (u.loafAt i).size)) ∧
        ((∃ n ∈ rectTiles (laDesc a), u.tilePart n ≠ some p) → exec (.loafWrite h [a]) s = .next (u.respond h 0x0030 stForeign []))) ∧
      (laValid a = true → laKind a = 0 → laCount a ≤ 27 → (∀ r ∈ laRefs a, refIsTile r = true) →
        let ns := (laRefs a).map refTile
        (ns.Nodup → (∀ n ∈ ns, u.tilePart n = some p) →
          ∃ t, Answers (.loafWrite h [a]) h 0x0030 0 [] s t ∧ t.mem = s.mem ∧ t.loafTiles (BitVec.ofNat 16 a.index) = ns ∧ (t.loafAt a.index).size = ns.length ∧
            (t.loafAt a.index).members = laRefs a) ∧
        (¬ns.Nodup → exec (.loafWrite h [a]) s = .next (u.respond h 0x0030 stDupTile [])) ∧
        (ns.Nodup → (∃ n ∈ ns, u.tilePart n ≠ some p) → exec (.loafWrite h [a]) s = .next (u.respond h 0x0030 stForeign []))))

/-- LOAF_DELETE (R35, Table 14-10): the descriptor is free, every other stands; one in use, by a program or in another loaf, is BUSY. -/
def Claim.LoavesDeleted : Prop :=
  ∀ h i s, Passes h 0x0031 .owner s →
    let u := s.taken h
    let d := u.loafAt i
    h.part.toNat < nParts → (u.partAt h.part.toNat).valid = true → i < 1020 → (d.valid = true → u.permits { h with part := BitVec.ofNat 8 d.part } .owner = true) →
    (d.busy = true → exec (.loafDelete h i) s = .next (u.respond h 0x0031 stBusy [])) ∧
    (d.isCont = false → d.contV = false → u.loafHeld i = false → (∀ e ∈ u.loaf, e.2.valid = true → ∀ r ∈ e.2.members, refIsTile r = true ∨ refIndex r ≠ i) →
      ∃ t, Answers (.loafDelete h i) h 0x0031 0 [] s t ∧ t.loafAt i = {} ∧ (∀ k, k ≠ i → t.loafAt k = u.loafAt k) ∧ t.mem = s.mem ∧ t.tile = u.tile)

/-- Loaf descriptors written and deleted. The whole of what its parts say.
Model's choices it rests on: log 38, 82. -/
def Obligations.Loaves : Prop :=
  Claim.LoavesWritten ∧ Claim.LoavesDeleted

/-- HWIN_WRITE, BAR2_MAP, JBASE_WRITE (R194, R224, R363): the register named holds the value written and no other changes; a reserved bit, a register
that does not exist, a journal outside the partition's granules are RANGE; a journal base under an open brew is BUSY. -/
def Claim.BasesWritten : Prop :=
  (∀ h w w0 w1 s, Passes h 0x0040 .owner s →
    let u := s.taken h
    let p := h.part.toNat
    p < nParts → (u.partAt p).valid = true →
    let bad := 16 ≤ w ∨ bits w0.toNat 11 0 ≠ 0 ∨ bits w1.toNat 63 41 ≠ 0 ∨ bits w1.toNat 15 4 ≠ 0 ∨ 16777216 < bits w1.toNat 40 16
    (bad → exec (.hwinWrite h w w0 w1) s = .next (u.respond h 0x0040 stRange [])) ∧
    (¬bad → ∃ t, Answers (.hwinWrite h w w0 w1) h 0x0040 0 [] s t ∧ t.mem = s.mem ∧ (∀ k, k ≠ p → t.partAt k = u.partAt k) ∧
      ∀ j, Map.get (0, 0) (t.partAt p).hwin j = if j = w then (w0, w1) else Map.get (0, 0) (u.partAt p).hwin j)) ∧
  (∀ h k word s, Passes h 0x0041 .owner s →
    let u := s.taken h
    let p := h.part.toNat
    p < nParts → (u.partAt p).valid = true →
    let bad := 8 ≤ k ∨ bits word.toNat 59 48 ≠ 0 ∨ bits word.toNat 29 0 ≠ 0
    (bad → exec (.bar2Map h k word) s = .next (u.respond h 0x0041 stRange [])) ∧
    (¬bad → ∃ t, Answers (.bar2Map h k word) h 0x0041 0 [] s t ∧ t.mem = s.mem ∧ t.part = u.part ∧
      ∀ j, Map.get 0 (t.hostAt (u.partAt p).owner.idx).bar2 j = if j = k then word else Map.get 0 (u.hostAt (u.partAt p).owner.idx).bar2 j)) ∧
  (∀ h word s, Passes h 0x0042 .owner s →
    let u := s.taken h
    let p := h.part.toNat
    let q : Part := { u.partAt p with jbase := word }
    p < nParts → (u.partAt p).valid = true →
    ((∃ e ∈ u.tile, u.tilePart e.1 = some p ∧ ∃ st, (e.2.streamAt st).brew.phase ≠ .idle ∨ (e.2.streamAt st).wb ≠ none) → exec (.jbaseWrite h word) s = .next (u.respond h 0x0042 stBusy [])) ∧
    ((∀ e ∈ u.tile, u.tilePart e.1 = some p → ∀ st, (e.2.streamAt st).brew.phase = .idle ∧ (e.2.streamAt st).wb = none) →
      (bits word.toNat 63 48 ≠ 0 ∨ bits word.toNat 25 1 ≠ 0 → exec (.jbaseWrite h word) s = .next (u.respond h 0x0042 stRange [])) ∧
      (bits word.toNat 63 48 = 0 → bits word.toNat 25 1 = 0 → (word.getLsbD 0 = true → u.ownsRegion p q.jregion journalBytes = true) →
        ∃ t, Answers (.jbaseWrite h word) h 0x0042 0 [] s t ∧ t.partAt p = q ∧ (∀ k, k ≠ p → t.partAt k = u.partAt k) ∧ t.mem = s.mem)))

/-- Staged writes (R103, R108, R109, R115, R254, R300, R301, R371), E in bytes 0 to 3 of the payload: an accepted write waits for the close before its step, or is in force at once while no step is open; at or below
the oldest open step it is LATE; an illegal index or value is RANGE, a tensor that two slots would name at some step DUP_TENSOR, and nothing changes. -/
def Claim.TablesStaged : Prop :=
  (∀ h es s, Passes h 0x0050 .owner s →
    let u := s.taken h
    let p := h.part.toNat
    let dup := (u.partAt p).dupTensor h.eff es
    p < nParts → (u.partAt p).valid = true →
    ((∃ e ∈ es, 4095 ≤ e.1 ∨ (slotValid e.2 = true ∧ slotTensor e.2 = 0)) → exec (.slotWrite h es) s = .next (u.respond h 0x0050 stRange [])) ∧
    ((∀ e ∈ es, e.1 < 4095 ∧ (slotValid e.2 = true → slotTensor e.2 ≠ 0)) →
      (dup = true → exec (.slotWrite h es) s = .next (u.respond h 0x0050 stDupTensor [])) ∧
      (∀ e j, es = [e] → (u.partAt p).stepOpen = false → (u.partAt p).staged = [] → j ≠ e.1 → slotValid e.2 = true →
        slotValid (Map.get 0 (u.partAt p).slot j) = true → slotTensor (Map.get 0 (u.partAt p).slot j) = slotTensor e.2 →
        exec (.slotWrite h es) s = .next (u.respond h 0x0050 stDupTensor [])) ∧
      (dup = false → LateAt p h.eff u → exec (.slotWrite h es) s = .next (u.respond h 0x0050 stLate [])) ∧
      (dup = false → ¬LateAt p h.eff u → ∃ t, Answers (.slotWrite h es) h 0x0050 0 [] s t ∧ StagedIn p h.eff (es.map fun e => .slot e.1 e.2) u t ∧
        ∀ e, es = [e] → (u.partAt p).stepOpen = false → ∀ i, Map.get 0 (t.partAt p).slot i = if i = e.1 then e.2 else Map.get 0 (u.partAt p).slot i))) ∧
  (∀ h es s, Passes h 0x0051 .owner s →
    let u := s.taken h
    let p := h.part.toNat
    p < nParts → (u.partAt p).valid = true →
    ((∃ e ∈ es, 1024 ≤ e.1 ∨ rowBad e.2 = true) → exec (.rowWrite h es) s = .next (u.respond h 0x0051 stRange [])) ∧
    ((∀ e ∈ es, e.1 < 1024 ∧ rowBad e.2 = false) →
      (LateAt p h.eff u → exec (.rowWrite h es) s = .next (u.respond h 0x0051 stLate [])) ∧
      (¬LateAt p h.eff u → ∃ t, Answers (.rowWrite h es) h 0x0051 0 [] s t ∧ StagedIn p h.eff (es.map fun e => .row e.1 e.2) u t ∧
        ∀ e, es = [e] → (u.partAt p).stepOpen = false →
          let r := ((t.partAt p).rowAt e.1).word
          let old := ((u.partAt p).rowAt e.1).word
          r &&& rowThreshMask = e.2 ∧
            (rowValid e.2 = true → rowValid old = false → rowCur r = rowInit e.2 ∧ rowPend r = rowInit e.2 ∧ rowHoldCnt r = 0 ∧ rowPendStep r = h.eff.toNat) ∧
            (rowValid e.2 = true → rowValid old = true → rowCur old < rowFloor e.2 → rowCur r = rowFloor e.2 ∧ rowPendStep r = h.eff.toNat) ∧
            (rowValid e.2 = true → rowValid old = true → rowFloor e.2 ≤ rowCur old → rowCeil e.2 < rowCur old → rowCur r = rowCeil e.2 ∧ rowPendStep r = h.eff.toNat) ∧
            (rowValid e.2 = true → rowValid old = true → rowFloor e.2 ≤ rowCur old → rowCur old ≤ rowCeil e.2 →
              rowCur r = rowCur old ∧ rowPend r = rowPend old ∧ rowPendStep r = rowPendStep old)))) ∧
  (∀ h word s, Passes h 0x0052 .owner s →
    let u := s.taken h
    let p := h.part.toNat
    let q : Part := { u.partAt p with pctrl := word }
    p < nParts → (u.partAt p).valid = true →
    let bad := bits word.toNat 63 41 ≠ 0 ∨ bits word.toNat 16 16 ≠ 0 ∨ bits word.toNat 7 2 ≠ 0 ∨ q.lag = 0 ∨ q.lag = 3 ∨
      (q.hvalid = true ∧ u.ownsRegion p q.hregion healthBytes = false)
    (bad → exec (.pctrlWrite h word) s = .next (u.respond h 0x0052 stRange [])) ∧
    (¬bad → LateAt p h.eff u → exec (.pctrlWrite h word) s = .next (u.respond h 0x0052 stLate [])) ∧
    (¬bad → ¬LateAt p h.eff u → ∃ t, Answers (.pctrlWrite h word) h 0x0052 0 [] s t ∧ StagedIn p h.eff [.pctrl word] u t ∧
      ((u.partAt p).stepOpen = false → (t.partAt p).pctrl = word))) ∧
  (∀ h (d : BitVec 16) act s, Passes h 0x0063 .owner s →
    let u := s.taken h
    let p := h.part.toNat
    p < nParts → (u.partAt p).valid = true →
    (d = 0 ∨ 256 < d.toNat → exec (.digctrlWrite h d act) s = .next (u.respond h 0x0063 stRange [])) ∧
    (d ≠ 0 → d.toNat ≤ 256 → LateAt p h.eff u → exec (.digctrlWrite h d act) s = .next (u.respond h 0x0063 stLate [])) ∧
    (d ≠ 0 → d.toNat ≤ 256 → ¬LateAt p h.eff u → ∃ t, Answers (.digctrlWrite h d act) h 0x0063 0 [] s t ∧ StagedIn p h.eff [.digctrl (d.setWidth 9) act] u t ∧
      ((u.partAt p).stepOpen = false → (t.partAt p).dint.toNat = d.toNat ∧ (t.partAt p).action = act))) ∧
  (∀ h g v (cuts : BitVec 5) s, Passes h 0x0073 .owner s →
    let u := s.taken h
    let p := h.part.toNat
    p < nParts → (u.partAt p).valid = true →
    (g = 0 ∨ 1024 ≤ g → exec (.groupWrite h g v cuts) s = .next (u.respond h 0x0073 stRange [])) ∧
    (0 < g → g < 1024 → LateAt p h.eff u → exec (.groupWrite h g v cuts) s = .next (u.respond h 0x0073 stLate [])) ∧
    (0 < g → g < 1024 → ¬LateAt p h.eff u → ∃ t, Answers (.groupWrite h g v cuts) h 0x0073 0 [] s t ∧ StagedIn p h.eff [.group g v cuts] u t ∧
      ((u.partAt p).stepOpen = false → Map.get 0 (t.partAt p).group g = BitVec.ofNat 6 (b2n v * 32 + cuts.toNat))))

/-- Partition bases and the tables staged for a step. The whole of what its parts say.
Model's choices it rests on: log 19, 33. -/
def Obligations.PartitionTables : Prop :=
  Claim.BasesWritten ∧ Claim.TablesStaged

/-- SHARD_DEFINE, SHARD_DELETE (R236, R375): an entry takes the words given, every other standing; an entry that is not IDLE or is pinned is BUSY, a shard
the partition already has elsewhere DUP_SHARD, an illegal word RANGE; a deletion clears the entry alone. -/
def Claim.ShardEntries : Prop :=
  (∀ h die l i w0 w1 w2 w3 w4 w7 s, Passes h 0x0060 .owner s →
    let u := s.taken h
    let p := h.part.toNat
    let e := 3 * die + l
    let old := u.dirAt e i
    let d := dirWords w0 w1 w2 w3 w4 w7
    let c := Instr.shardDefine h die l i w0 w1 w2 w3 w4 w7
    p < nParts → (u.partAt p).valid = true → u.deepAsleep = false → die < nDies → l < 3 → i < 4096 →
    (old.valid = true → u.permits { h with part := BitVec.ofNat 8 old.part } .owner = true) →
    (old.valid = true → old.state ≠ .idle ∨ old.pins ≠ 0 → exec c s = .next (u.respond h 0x0060 stBusy [])) ∧
    ((old.valid = true → old.state = .idle ∧ old.pins = 0) →
      (w0.getLsbD 63 = false ∨ d.kind = 3 ∨ d.vfmt = 3 ∨ (d.vfmt = 1 ∧ d.kind ≠ 0) ∨ d.part ≠ p ∨ d.target ≠ d.version ∨ d.tensor = 0 ∨ d.nslice = 0 ∨ 786432 < d.nslice.toNat ∨
        1023 < d.dgrp.toNat ∨ bits w0.toNat 56 54 ≠ 0 ∨ w0.getLsbD 50 = true ∨ bits w4.toNat 63 48 ≠ 0 ∨ bits w4.toNat 31 0 ≠ 0 →
        exec c s = .next (u.respond h 0x0060 stRange [])) ∧
      (u.shardBad p e w0 w1 w2 w4 w7 d = false → (old.valid = false → u.entriesUsed p e < (u.partAt p).quota.toNat) → (old.valid = true → old.part = p) →
        (∀ x, u.findShard p d.tensor.toNat d.shard.toNat = some x → x ≠ (e, i) → exec c s = .next (u.respond h 0x0060 stDupShard [])) ∧
        ((∀ x, u.findShard p d.tensor.toNat d.shard.toNat = some x → x = (e, i)) → ∃ t, Answers c h 0x0060 0 [] s t ∧ t.dirAt e i = d ∧ t.mem = s.mem ∧
          (∀ f j, f ≠ e ∨ j ≠ i → t.dirAt f j = u.dirAt f j) ∧ t.part = u.part)))) ∧
  (∀ h die l i s, Passes h 0x0061 .owner s →
    let u := s.taken h
    let e := 3 * die + l
    let old := u.dirAt e i
    h.part.toNat < nParts → (u.partAt h.part.toNat).valid = true → die < nDies → l < 3 → i < 4096 →
    (old.valid = true → u.permits { h with part := BitVec.ofNat 8 old.part } .owner = true) →
    (old.valid = true → old.state ≠ .idle ∨ old.pins ≠ 0 → exec (.shardDelete h die l i) s = .next (u.respond h 0x0061 stBusy [])) ∧
    ((old.valid = true → old.state = .idle ∧ old.pins = 0) → ∃ t, Answers (.shardDelete h die l i) h 0x0061 0 [] s t ∧ (t.dirAt e i).valid = false ∧ t.mem = s.mem ∧
      ∀ f j, f ≠ e ∨ j ≠ i → t.dirAt f j = u.dirAt f j))

/-- ROLLBACK (R227, R255): each slice's weights are its crust and its META VERSION its CRUST_VER, the shard's VERSION is CRUST_VER and CRUST_OK is 0; a shard
that is not IDLE or is pinned, or one of whose lines is locked or held (the model's choice, log 62), is BUSY, one without a crust NO_CRUST. -/
def Claim.Rollbacks : Prop :=
  ∀ h tensor k s e i, Passes h 0x0062 .owner s →
    let u := s.taken h
    let p := h.part.toNat
    let d := u.dirAt e i
    p < nParts → (u.partAt p).valid = true → u.deepAsleep = false → u.findShard p tensor.toNat k.toNat = some (e, i) →
    (d.state ≠ .idle ∨ d.pins ≠ 0 ∨ u.rollWaits (e, i) = true → exec (.rollback h tensor [k]) s = .next (u.respond h 0x0062 stBusy [])) ∧
    (d.state = .idle → d.pins = 0 → u.rollWaits (e, i) = false → d.crustOk = false → exec (.rollback h tensor [k]) s = .next (u.respond h 0x0062 stNoCrust [])) ∧
    (d.state = .idle → d.pins = 0 → u.rollWaits (e, i) = false → d.crustOk = true → d.crust = true → e < 12 → d.base.toNat % 256 = 0 →
      d.base.toNat + d.blockSize ≤ stackBytes → (∀ a, stackOf a = e → u.poisoned a = false) → (u.partAt d.part).jvalid = true →
      (∀ x b, (u.partAt d.part).firmwareSlot 0 ≤ x → x < (u.partAt d.part).firmwareSlot 0 + 0x50000 → place u.pkg x = .mem b →
        b < d.at_ e ∨ d.at_ e + d.blockSize ≤ b) →
      ∃ t, Answers (.rollback h tensor [k]) h 0x0062 0 [] s t ∧ (t.dirAt e i).version = d.crustVer ∧ (t.dirAt e i).crustOk = false ∧
        (t.dirAt e i).state = .idle ∧ (∀ f j, f ≠ e ∨ j ≠ i → t.dirAt f j = u.dirAt f j) ∧
        ∀ n, n < d.n → t.memRead (d.wAt e n) 32768 = s.memRead (d.crustAt e n) 32768 ∧ t.metaVersion d e n = u.metaCrust d e n ∧ t.memRead (d.mAt e n) 16896 = s.memRead (d.mAt e n) 16896)

/-- Shard definitions, deletions, rollbacks. The whole of what its parts say.
Model's choices it rests on: log 39, 62. -/
def Obligations.ShardDirectory : Prop :=
  Claim.ShardEntries ∧ Claim.Rollbacks

/-- JOB_START, JOB_END, MAP_STAGE (R281, R295–R300, R303, R374): an accepted job is loaded with its map, seed, rank and tag, the partition in RUN and no port fenced; in order, a map outside the
partition's memory is RANGE, an unreached planned peer NEIGHBOUR_MISSING, an illegal map MAP_INVALID, a map without this package NOT_IN_MAP, a
port whose peer is not the neighbour MAP_MISMATCH, an unknown program PROG_DIGEST. An ended job leaves no tag; a partition with running streams is BUSY.
Model's choices it rests on: log 40. -/
def Obligations.Jobs : Prop :=
  (∀ h map seed regions s, Passes h 0x0070 .owner s →
    let u := s.taken h
    let p := h.part.toNat
    let a := map.toNat
    let m := u.readMap a
    let c := Instr.jobStart h map seed regions
    let reached := ∀ n ∈ u.plannedPorts p, u.reaches n = true ∨ (u.partAt p).degrade.getLsbD ((u.portAt n).dir / 2) = true
    let mine := u.ownsRegion p a 64 = true ∧ u.ownsRegion p a (u.mapLen a) = true
    p < nParts → (u.partAt p).valid = true → u.deepAsleep = false →
    (¬mine → exec c s = .next (u.respond h 0x0070 stRange [])) ∧
    (mine → ¬reached → exec c s = .next (u.respond h 0x0070 stNeighbour [])) ∧
    (mine → reached → m.invalid = true → exec c s = .next (u.respond h 0x0070 stMapInvalid [])) ∧
    (mine → reached → m.invalid = false → Config.serial ∉ m.serials → exec c s = .next (u.respond h 0x0070 stNotInMap [])) ∧
    (∀ n, mine → reached → m.invalid = false → Config.serial ∈ m.serials → u.mismatch p m = some n →
      ∃ t, Answers c h 0x0070 stMapMismatch [] s t ∧ t.part = u.part ∧ t.mem = s.mem) ∧
    (mine → reached → m.invalid = false → Config.serial ∈ m.serials → u.mismatch p m = none → (∃ r ∈ regions, u.regionKnown p m r = false) →
      exec c s = .next (u.respond h 0x0070 stProgDigest [])) ∧
    (mine → reached → m.invalid = false → Config.serial ∈ m.serials → u.mismatch p m = none → (∀ r ∈ regions, u.regionKnown p m r = true) →
      ∃ t mask, Answers c h 0x0070 0 (natLe 8 mask) s t ∧ t.mem = s.mem ∧ (u.missingPorts p = [] → mask = 0) ∧ (∀ k, k ≠ p → t.partAt k = u.partAt k) ∧
        (t.partAt p).job = true ∧ (t.partAt p).seed = seed ∧ (t.partAt p).mapAddr = map ∧ (t.partAt p).map = m ∧ (t.partAt p).jrank = m.rankOf ∧
        (t.partAt p).state = .run ∧ (t.partAt p).fence = 0 ∧ (t.partAt p).tag = (t.partAt p).computeTag ∧ (t.partAt p).chain = 0 ∧
        (t.partAt p).stepOpen = false)) ∧
  (∀ h s, Passes h 0x0071 .owner s →
    let u := s.taken h
    let p := h.part.toNat
    p < nParts → (u.partAt p).valid = true →
    (u.runningOf p ≠ [] → exec (.jobEnd h) s = .next (u.respond h 0x0071 stBusy [])) ∧
    (u.runningOf p = [] → (u.partAt p).job = false → exec (.jobEnd h) s = .next (u.respond h 0x0071 stNoJob [])) ∧
    (u.runningOf p = [] → (u.partAt p).job = true → ∃ t, Answers (.jobEnd h) h 0x0071 0 [] s t ∧ (t.partAt p).job = false ∧ (t.partAt p).tag = 0 ∧
      (t.partAt p).stepOpen = false ∧ (t.partAt p).seed = (u.partAt p).seed ∧ t.mem = s.mem ∧ ∀ k, k ≠ p → t.partAt k = u.partAt k)) ∧
  (∀ h map s, Passes h 0x0072 .owner s →
    let u := s.taken h
    let p := h.part.toNat
    let m := u.readMap map.toNat
    p < nParts → (u.partAt p).valid = true → u.ownsRegion p map.toNat 64 = true → u.ownsRegion p map.toNat (u.mapLen map.toNat) = true →
    ((u.partAt p).job = false → exec (.mapStage h map) s = .next (u.respond h 0x0072 stNoJob [])) ∧
    ((u.partAt p).job = true → LateAt p h.eff u → exec (.mapStage h map) s = .next (u.respond h 0x0072 stLate [])) ∧
    ((u.partAt p).job = true → ¬LateAt p h.eff u → m.invalid = true → exec (.mapStage h map) s = .next (u.respond h 0x0072 stMapInvalid [])) ∧
    ((u.partAt p).job = true → ¬LateAt p h.eff u → m.invalid = false → Config.serial ∉ m.serials →
      exec (.mapStage h map) s = .next (u.respond h 0x0072 stNotInMap [])) ∧
    ((u.partAt p).job = true → ¬LateAt p h.eff u → m.invalid = false → Config.serial ∈ m.serials →
      ∃ t, Answers (.mapStage h map) h 0x0072 0 [] s t ∧ StagedIn p h.eff [.map map m] u t ∧
        ((u.partAt p).stepOpen = false → (t.partAt p).map = m ∧ (t.partAt p).mapAddr = map)))

/-- PLAN_WRITE, PLANCTL_WRITE, BROUTE_WRITE, PORT_CNT_CLEAR, PORT_RESET, PORT_UNFENCE (R274, R276, R278, R290, R306): a plan is written to a port outside ACTIVE and RETRAIN, which
is BUSY otherwise; a DARK_MAX of 0 is RANGE; cleared counters read 0 and the rest of the port stands; a reset port with light trains in full
with nothing left to resend, one without is DOWN; the ports named are unfenced. A port of another pair is FOREIGN.
Model's choices it rests on: log 24, 33, 56. -/
def Obligations.PortMessages : Prop :=
  (∀ h n w0 w1 s, Passes h 0x0080 .owner s →
    let u := s.taken h
    let p := h.part.toNat
    let q := u.portAt n
    let free := q.state ≠ .active ∧ q.state ≠ .retrain
    p < nParts → (u.partAt p).valid = true → n < nPorts →
    (q.state = .active ∨ q.state = .retrain → exec (.planWrite h n w0 w1) s = .next (u.respond h 0x0080 stBusy [])) ∧
    (free → bits w1.toNat 62 56 ≠ 0 ∨ bits w1.toNat 47 0 ≠ 0 ∨ 63 < bits w1.toNat 55 48 →
      exec (.planWrite h n w0 w1) s = .next (u.respond h 0x0080 stRange [])) ∧
    (free → bits w1.toNat 62 56 = 0 → bits w1.toNat 47 0 = 0 → bits w1.toNat 55 48 ≤ 63 → (u.partAt p).pairs.getLsbD (n / 2) = false → exec (.planWrite h n w0 w1) s = .next (u.respond h 0x0080 stForeign [])) ∧
    (free → bits w1.toNat 62 56 = 0 → bits w1.toNat 47 0 = 0 → bits w1.toNat 55 48 ≤ 63 → (u.partAt p).pairs.getLsbD (n / 2) = true →
      ∃ t, Answers (.planWrite h n w0 w1) h 0x0080 0 [] s t ∧ (t.portAt n).plan0 = w0 ∧ (t.portAt n).plan1 = w1 ∧
        t.mem = s.mem ∧ (q.discovered = false → OnlyPort n u t ∧ (t.portAt n).state = q.state))) ∧
  (∀ h (word : Word) s, Passes h 0x0081 .owner s →
    let u := s.taken h
    let p := h.part.toNat
    p < nParts → (u.partAt p).valid = true →
    (bits word.toNat 27 20 = 0 → exec (.planctlWrite h word) s = .next (u.respond h 0x0081 stRange [])) ∧
    (bits word.toNat 27 20 ≠ 0 → bits word.toNat 63 32 = 0 → bits word.toNat 30 28 = 0 → bits word.toNat 19 18 = 0 →
      ∃ t, Answers (.planctlWrite h word) h 0x0081 0 [] s t ∧ (t.partAt p).planValid = word.getLsbD 31 ∧ (t.partAt p).darkMax.toNat = bits word.toNat 27 20 ∧
        (t.partAt p).degrade.toNat = bits word.toNat 17 12 ∧ (t.partAt p).relabel.toNat = bits word.toNat 11 0 ∧ t.mem = s.mem)) ∧
  (∀ h i mask s, Passes h 0x0082 .owner s →
    let u := s.taken h
    let p := h.part.toNat
    p < nParts → (u.partAt p).valid = true → i < 8 → (∀ n ∈ maskPorts mask, (u.partAt p).pairs.getLsbD (n / 2) = true) →
    ∃ t, Answers (.brouteWrite h i mask) h 0x0082 0 [] s t ∧ t.mem = s.mem ∧
      ∀ j, Map.get 0 (t.partAt p).broute j = if j = i then mask else Map.get 0 (u.partAt p).broute j) ∧
  (∀ h mask s, let u := s.taken h
    let p := h.part.toNat
    p < nParts → (u.partAt p).valid = true → (∀ n ∈ maskPorts mask, (u.partAt p).pairs.getLsbD (n / 2) = true) →
    (Passes h 0x0083 .owner s → ∃ t, Answers (.portCntClear h mask) h 0x0083 0 [] s t ∧ t.noPorts = u.noPorts ∧
      ∀ n, t.portAt n = if n ∈ maskPorts mask then (u.portAt n).clearCounters else u.portAt n) ∧
    (Passes h 0x0084 .owner s → ∃ t, Answers (.portReset h mask) h 0x0084 0 [] s t ∧ t.mem = s.mem ∧
      ∀ n ∈ maskPorts mask, (u.portAt n).state ≠ .disabled → (t.portAt n).held = [] ∧ (t.portAt n).queue = [] ∧
        (u.litAt n = true → (t.portAt n).state = .train ∧ (t.portAt n).fullTrain = true) ∧
        (u.litAt n = false → (t.portAt n).state = .down ∧ (t.portAt n).reason = 1)) ∧
    (Passes h 0x0085 .owner s → ∃ t, Answers (.portUnfence h mask) h 0x0085 0 [] s t ∧ t.partAt p = { u.partAt p with fence := (u.partAt p).fence &&& ~~~mask } ∧
      (∀ k, k ≠ p → t.partAt k = u.partAt k) ∧ t.port = u.port ∧ t.mem = s.mem)) ∧
  (∀ h mask n s, let u := s.taken h
    let p := h.part.toNat
    p < nParts → (u.partAt p).valid = true → n ∈ maskPorts mask → (u.partAt p).pairs.getLsbD (n / 2) = false →
    (Passes h 0x0083 .owner s → exec (.portCntClear h mask) s = .next (u.respond h 0x0083 stForeign [])) ∧
    (Passes h 0x0084 .owner s → exec (.portReset h mask) s = .next (u.respond h 0x0084 stForeign [])) ∧
    (Passes h 0x0085 .owner s → exec (.portUnfence h mask) s = .next (u.respond h 0x0085 stForeign [])))

/-- PACK_OFFER, PACK_CHUNK, PACK_DONE (R355–R358): an offer opens the one transfer, and during one is answered RESULT BUSY; a chunk at the next byte expected
grows it, any other is dropped, every eighth is acknowledged; at its end a pack that passes every check of Table 13-19 is in force and measured
into MR4, and a pack that fails one leaves the pack in force; either way the transfer is over. -/
def Claim.PackTransfers : Prop :=
  (∀ h xfer len hash s, TakesXfer h 0x00B1 s →
    let u := s.xferTaken h
    (u.fw.transferring = false → ∃ t, AnswersXfer (.packOffer h xfer len hash) h 0x00B1 [] s t ∧ t.mem = s.mem ∧
      t.fw = { u.fw with packXfer := some { xfer := xfer, len := len.toNat, hash := hash, src := h.src } }) ∧
    (u.fw.transferring = true → ∃ t, AnswersXfer (.packOffer h xfer len hash) h 0x00B1 (xferHdr 5 xfer 9) s t ∧ t.fw.packXfer = u.fw.packXfer ∧
      t.fw.pack = u.fw.pack ∧ t.mem = s.mem)) ∧
  (∀ h xfer off bytes s x, TakesXfer h 0x00B2 s →
    let u := s.xferTaken h
    u.fw.packXfer = some x → x.xfer = xfer →
    ∃ t y, AnswersXfer (.packChunk h xfer off bytes) h 0x00B2 (if (x.chunks + 1) % 8 = 0 then xferHdr 3 xfer y.bytes.length else []) s t ∧
      t.fw = { u.fw with packXfer := some y } ∧ y.chunks = x.chunks + 1 ∧ y.len = x.len ∧ y.hash = x.hash ∧ t.mem = s.mem ∧
      (off.toNat = x.bytes.length → bytes.length ≤ 1024 → y.bytes = x.bytes ++ bytes) ∧
      (off.toNat ≠ x.bytes.length ∨ 1024 < bytes.length → y.bytes = x.bytes)) ∧
  (∀ h xfer s x, TakesXfer h 0x00B4 s →
    let u := s.xferTaken h
    u.fw.packXfer = some x → x.xfer = xfer →
    (PackSound x u → ∃ t, AnswersXfer (.packDone h xfer) h 0x00B4 (xferHdr 5 xfer 0) s t ∧ t.fw.packXfer = none ∧ t.fw.pack = decodePack x.bytes ∧
      t.fw.skipPat = [] ∧ t.mem = s.mem ∧
      Map.get 0 t.fw.mr 4 = sha256 (hashBytes (Map.get 0 u.fw.mr 4) ++ hashBytes (sha256 x.bytes)) ∧ ∀ r, r ≠ 4 → Map.get 0 t.fw.mr r = Map.get 0 u.fw.mr r) ∧
    (¬PackSound x u → ∃ t code, code ≠ 0 ∧ AnswersXfer (.packDone h xfer) h 0x00B4 (xferHdr 5 xfer code) s t ∧ t.fw.packXfer = none ∧ t.fw.pack = u.fw.pack ∧
      t.fw.mr = u.fw.mr ∧ t.mem = s.mem))

/-- PACK_ACK_TIMER and PACK_TRANSFER_TIMEOUT (R356, R358): the byte expected next goes to the sender; a transfer without a chunk for 10 s is over, and the pack in
force stays. -/
def Claim.PackTimers : Prop :=
  (∀ s x, s.fw.packXfer = some x → exec .packAckTimer s = .next (s.tell x.src 0x00B3 (xferHdr 3 x.xfer x.bytes.length))) ∧
  (∀ s x, s.fw.packXfer = some x → ∃ t, exec .packTransferTimeout s = .next t ∧ t.fw.packXfer = none ∧ t.fw.imgXfer = s.fw.imgXfer ∧ t.fw.pack = s.fw.pack ∧
    t.mem = s.mem ∧ t.tile = s.tile) ∧
  (∀ s x, s.fw.packXfer = none → s.fw.imgXfer = some x → ∃ t, exec .packTransferTimeout s = .next t ∧ t.fw.imgXfer = none ∧ t.fw.imgA = s.fw.imgA ∧ t.fw.imgB = s.fw.imgB)

/-- Proving packs received. The whole of what its parts say.
Model's choices it rests on: log 25, 41, 101. -/
def Obligations.Packs : Prop :=
  Claim.PackTransfers ∧ Claim.PackTimers

/-- CHALLENGE and NONCE_EXPIRY (R401): the management port receives a nonce, outstanding from then on; of four outstanding the oldest becomes invalid; no
other sender receives one; an expired nonce is outstanding no more. -/
def Claim.Nonces : Prop :=
  (∀ h s, Passes h 0x0A00 .mgmtOnly s →
    let u := s.taken h
    ∃ t n, Answers (.challenge h) h 0x0A00 0 (natLe 16 n) s t ∧ t.fw.nonces = (if 4 ≤ u.fw.nonces.length then u.fw.nonces.tail else u.fw.nonces) ++ [BitVec.ofNat 128 n] ∧
      t.mem = s.mem ∧ t.fw.mr = u.fw.mr) ∧
  (∀ k s, ∃ t, exec (.nonceExpiry k) s = .next t ∧ t.fw = { s.fw with nonces := s.fw.nonces.eraseIdx k } ∧ t.mem = s.mem) ∧
  (∀ h p s, h.src = .port p → s.fw.ready = true → s.fw.handoff = false → h.major = 1 → h.crc = crc32c (crcBytes h 0x0A00) →
    h.length.toNat ≤ s.payloadLimit h.src → h.length.toNat = h.payload.length → exec (.challenge h) s = .next ((s.taken h).respond h 0x0A00 5 []))

/-- IDENTITY, MR_READ, MR_EXTEND, CERT_READ (R396–R398, R402): the answers are the fused values and the registers as they stand; an extension replaces
register 6 or 7 by the SHA-256 of its value and the digest, any other register is RANGE. -/
def Claim.Measurements : Prop :=
  (∀ h s, Passes h 0x0A01 .any s → ∃ d, Answers (.identity h) h 0x0A01 0 d s (s.taken h) ∧ slice d 40 8 = natLe 8 Config.serial.toNat) ∧
  (∀ h log ctr s, Passes h 0x0A02 .any s → ∃ d, Answers (.mrRead h log ctr) h 0x0A02 0 d s (s.taken h) ∧
    (∀ r, r < 8 → slice d (32 * r) 32 = hashBytes (Map.get 0 (s.taken h).fw.mr r)) ∧ (log = false → d.length = 256)) ∧
  (∀ h r digest s, Passes h 0x0A03 .steward s →
    let u := s.taken h
    (r = 6 ∨ r = 7 → ∃ t, Answers (.mrExtend h r digest) h 0x0A03 0 [] s t ∧ Map.get 0 t.fw.mr r = sha256 (hashBytes (Map.get 0 u.fw.mr r) ++ hashBytes digest) ∧
      (∀ k, k ≠ r → Map.get 0 t.fw.mr k = Map.get 0 u.fw.mr k) ∧ t.mem = s.mem) ∧
    (r ≠ 6 → r ≠ 7 → exec (.mrExtend h r digest) s = .next (u.respond h 0x0A03 stRange []))) ∧
  (∀ h e s, Passes h 0x0A05 .any s → (s.taken h).tooNarrow h = false → e < 16 →
    Answers (.certRead h e) h 0x0A05 0 (Config.certificate e) s (s.taken h))

/-- ATTEST (R399, R400): each quote is signed with the next leaf of its epoch, whose block is reserved in both copies of the signature state before; a second
within a second is BUSY; in emulated mode the answer has no room. -/
def Claim.Quotes : Prop :=
  ∀ h nonce mask s, Passes h 0x0A04 .any s →
    let u := s.taken h
    (u.tooNarrow h = true → exec (.attest h nonce mask) s = .next (u.respond h 0x0A04 4 [])) ∧
    (∀ k, u.tooNarrow h = false → u.fw.lastSign = some k → (u.refTick - k).toNat < secondTicks → exec (.attest h nonce mask) s = .next (u.respond h 0x0A04 stBusy [])) ∧
    (u.tooNarrow h = false → (∀ k, u.fw.lastSign = some k → secondTicks ≤ (u.refTick - k).toNat) → u.fw.epoch < 16 → u.fw.leafQ < epochLeaves →
      ∃ t, Answers (.attest h nonce mask) h 0x0A04 0 (u.quote nonce mask ++ Config.hssSign u.fw.epoch u.fw.leafQ (u.quote nonce mask)) s t ∧
        t.fw.leafQ = u.fw.leafQ + 1 ∧ t.fw.epoch = u.fw.epoch ∧ t.fw.lastSign = some u.refTick ∧ t.mem = s.mem ∧
        ∃ r, t.fw.sig0 = some (u.fw.epoch, r) ∧ t.fw.sig1 = some (u.fw.epoch, r) ∧ t.fw.leafQ ≤ r ∧ r % 1024 = 0)

/-- CONFIG_WRITE, ENROLL_OWNER, KEY_REVOKE (R390, R391, R393, R394): a sound block replaces the copy of lower SEQ and the block in force stands; the owner key is enrolled
once; a key slot is revoked by a statement of another slot's key, a revoked slot never returns, and a statement that does not verify changes
nothing. -/
def Claim.Keys : Prop :=
  (∀ h block s, Passes h 0x0A06 .steward s →
    let u := s.taken h
    let lo := fun (x : Option ConfBlock) => match x with | some y => y.seq.toNat + 1 | none => 0
    (u.confError block ≠ 0 → exec (.configWrite h block) s = .next (u.respond h 0x0A06 (u.confError block) [])) ∧
    (u.confError block = 0 → lo u.fw.copy0 ≤ (confOf block).seq.toNat → lo u.fw.copy1 ≤ (confOf block).seq.toNat →
      ∃ t c, Answers (.configWrite h block) h 0x0A06 0 [] s t ∧ t.fw.config = u.fw.config ∧ t.mem = s.mem ∧ c.seq = (confOf block).seq ∧ c.bytes = block ∧
        (lo u.fw.copy1 < lo u.fw.copy0 → t.fw.copy1 = some c ∧ t.fw.copy0 = u.fw.copy0) ∧
        (lo u.fw.copy0 ≤ lo u.fw.copy1 → t.fw.copy0 = some c ∧ t.fw.copy1 = u.fw.copy1))) ∧
  (∀ h s, Passes h 0x0A07 .steward s →
    let u := s.taken h
    let o := u.fw.config.ownerOff.toNat
    (o ≠ 0 → u.fw.owner = none → ∃ t, Answers (.enrollOwner h) h 0x0A07 0 [] s t ∧ t.fw.owner = some (sha256 (slice u.fw.config.bytes o 60)) ∧ t.mem = s.mem) ∧
    (o ≠ 0 → u.fw.owner.isSome = true → exec (.enrollOwner h) s = .next (u.respond h 0x0A07 36 []))) ∧
  (∀ h k g pub stmt sig s, Passes h 0x0A08 .steward s →
    let u := s.taken h
    k < 4 → g < 4 →
    (u.fw.revoked.getLsbD k = false → u.fw.revoked ||| (1#4 <<< k) ≠ 15 → u.fw.revoked.getLsbD g = false → g ≠ k → sha256 pub = vendorHash g →
      (hssVerify pub stmt sig = true → ∃ t, Answers (.keyRevoke h k g pub stmt sig) h 0x0A08 0 [] s t ∧ t.fw.revoked = u.fw.revoked ||| (1#4 <<< k) ∧
        t.fw.owner = u.fw.owner ∧ t.mem = s.mem) ∧
      (hssVerify pub stmt sig = false → exec (.keyRevoke h k g pub stmt sig) s = .next (u.respond h 0x0A08 32 []))) ∧
    (u.fw.revoked.getLsbD k = true ∨ u.fw.revoked ||| (1#4 <<< k) = 15 ∨ u.fw.revoked.getLsbD g = true →
      exec (.keyRevoke h k g pub stmt sig) s = .next (u.respond h 0x0A08 34 [])))

/-- Nonces, measurements, quotes, keys. The whole of what its parts say.
Model's choices it rests on: log 25, 42, 101. -/
def Obligations.Trust : Prop :=
  Claim.Nonces ∧ Claim.Measurements ∧ Claim.Quotes ∧ Claim.Keys

/-- IMAGE_OFFER, IMAGE_CHUNK, IMAGE_DONE (R389, R403): an image of at most 20 MiB is taken in one transfer; whole, with its hash, and sound it stands verified in the slot
that does not run, the running slot standing; any other leaves both slots. -/
def Claim.ImageTransfers : Prop :=
  (∀ h xfer len hash s, Passes h 0x0A10 .image s →
    let u := s.taken h
    (u.fw.transferring = false → len.toNat ≤ 20971520 → ∃ t, Answers (.imageOffer h xfer len hash) h 0x0A10 0 [] s t ∧ t.mem = s.mem ∧
      t.fw = { u.fw with imgXfer := some { xfer := xfer, len := len.toNat, hash := hash, src := h.src } }) ∧
    (u.fw.transferring = true → Answers (.imageOffer h xfer len hash) h 0x0A10 stBusy (xferHdr 5 xfer 9) s u)) ∧
  (∀ h xfer off bytes s x, Passes h 0x0A11 .image s →
    let u := s.taken h
    u.fw.imgXfer = some x → x.xfer = xfer →
    ∃ t y d, Answers (.imageChunk h xfer off bytes) h 0x0A11 0 d s t ∧ t.fw = { u.fw with imgXfer := some y } ∧ y.len = x.len ∧ y.hash = x.hash ∧
      (off.toNat = x.bytes.length → bytes.length ≤ 1024 → y.bytes = x.bytes ++ bytes) ∧ (off.toNat ≠ x.bytes.length → y.bytes = x.bytes)) ∧
  (∀ h xfer s x, Passes h 0x0A13 .image s →
    let u := s.taken h
    let i := imageOf x.bytes
    u.fw.imgXfer = some x → x.xfer = xfer → u.fw.stage ≠ 4 →
    (x.bytes.length = x.len → sha256 x.bytes = x.hash → ImageSound i u → ∃ t, Answers (.imageDone h xfer) h 0x0A13 0 (xferHdr 5 xfer 0) s t ∧ t.fw.imgXfer = none ∧
      (u.fw.slot = false → t.fw.imgB = { image := some i, verified := true } ∧ t.fw.imgA = u.fw.imgA) ∧
      (u.fw.slot = true → t.fw.imgA = { image := some i, verified := true } ∧ t.fw.imgB = u.fw.imgB) ∧ t.mem = s.mem ∧ t.tile = u.tile) ∧
    (x.bytes.length ≠ x.len ∨ sha256 x.bytes ≠ x.hash ∨ ¬ImageSound i u → ∃ t st d, st ≠ 0 ∧ Answers (.imageDone h xfer) h 0x0A13 st d s t ∧
      t.fw = { u.fw with imgXfer := none } ∧ t.mem = s.mem))

/-- HANDOFF, HANDOFF_ACCEPT, HANDOFF_TIMEOUT (R404–R406): with a verified image of the same major version staged the window opens and nonces become invalid; a new
image whose hash holds and that accepts the record runs from then on, preferred, with three tries; one that refuses, or is silent for 150 ms,
leaves the old image running and the boot record as it was; memory, tiles, partitions stand throughout. -/
def Claim.LiveUpdates : Prop :=
  (∀ h s n o, Passes h 0x0A20 .steward s →
    let u := s.taken h
    u.fw.image (!u.fw.slot) = some n → u.fw.image u.fw.slot = some o → (if u.fw.slot then u.fw.imgA else u.fw.imgB).verified = true →
    (n.fwMajor = o.fwMajor → u.fw.imgXfer = none → u.safeState = false → ∃ t, Answers (.handoff h) h 0x0A20 0 [] s t ∧
      t.fw = { u.fw with handoff := true, handoffAt := u.refTick, packXfer := none, nonces := [] } ∧ t.mem = s.mem ∧ t.tile = u.tile) ∧
    (n.fwMajor ≠ o.fwMajor → exec (.handoff h) s = .next (u.respond h 0x0A20 39 []))) ∧
  (∀ known crcOk s n o, s.fw.handoff = true → s.fw.image (!s.fw.slot) = some n → s.fw.image s.fw.slot = some o →
    (s.imageError n false = 0 → sha256 n.firmware = n.mfHash → s.recordAccepted n o known crcOk = true →
      ∃ t, exec (.handoffAccept known crcOk) s = .next t ∧ t.fw.handoff = false ∧ t.fw.slot = !s.fw.slot ∧ t.fw.boot.preferred = !s.fw.slot ∧ t.fw.boot.tries = 3 ∧
        t.mem = s.mem ∧ t.tile = s.tile ∧ t.part = s.part ∧
        Map.get 0 t.fw.mr 5 = sha256 (hashBytes (Map.get 0 s.fw.mr 5) ++ hashBytes n.mfHash)) ∧
    (s.imageError n false ≠ 0 ∨ sha256 n.firmware ≠ n.mfHash ∨ s.recordAccepted n o known crcOk = false →
      ∃ t, exec (.handoffAccept known crcOk) s = .next t ∧ t.fw.handoff = false ∧ t.fw.slot = s.fw.slot ∧ t.fw.boot.preferred = s.fw.boot.preferred ∧
        t.mem = s.mem ∧ t.tile = s.tile ∧ t.part = s.part) ∧
    (∃ t, exec .handoffTimeout s = .next t ∧ t.fw.handoff = false ∧ t.fw.slot = s.fw.slot ∧ t.fw.boot.preferred = s.fw.boot.preferred ∧ t.mem = s.mem ∧
      t.tile = s.tile ∧ t.part = s.part)) ∧
  (∀ known crcOk s, s.fw.handoff = false → exec (.handoffAccept known crcOk) s = .next s ∧ exec .handoffTimeout s = .next s)

/-- Images received and live updates. The whole of what its parts say.
Model's choices it rests on: log 41, 42, 101, 104. -/
def Obligations.Firmware : Prop :=
  Claim.ImageTransfers ∧ Claim.LiveUpdates

/-- Every message of Tables 14-10 and 15-9 (R368, R371, R382, R401), and BAD_TYPE: before READY and in a handoff window a request waits; otherwise, in the order of Table
14-9, a version other than 1, a wrong CRC, a wrong length, a sender without right, and a management message whose trailer does not verify are refused with that status, a
TYPE of neither table with BAD_TYPE, and nothing but the answer, the wake from sleep and the spent nonce happens. -/
def Claim.MessageChecks : Prop :=
  (∀ c h ty r s, messageOf c = some (h, ty, r) → (h.src = .mgmt → r ≠ .pack) →
    let u := s.wakeFor h
    (s.requestsWait = true → h.src ≠ .i3c ∨ s.fw.stage ≠ 4 → exec c s = .next s) ∧
    (s.requestsWait = false →
      (h.major ≠ 1 → exec c s = .next (u.respond h ty 1 [])) ∧
      (h.major = 1 → h.crc ≠ crc32c (crcBytes h ty) → exec c s = .next (u.respond h ty 2 [])) ∧
      (h.major = 1 → h.crc = crc32c (crcBytes h ty) →
        (s.payloadLimit h.src < h.length.toNat ∨ h.length.toNat ≠ h.payload.length → exec c s = .next (u.respond h ty 4 [])) ∧
        (h.length.toNat ≤ s.payloadLimit h.src → h.length.toNat = h.payload.length →
          ((h.src = .mgmt → needsTrailer ty r = true → s.trailerOk h ty = true) → (s.taken h).permits h r = false →
            exec c s = .next ((s.taken h).respond h ty 5 [])) ∧
          (h.src = .mgmt → needsTrailer ty r = true → s.trailerOk h ty = false →
            ∃ t : State, exec c s = .next (t.respond h ty 5 []) ∧ t.part = s.part ∧ t.mem = s.mem ∧ t.tile = s.tile ∧ t.port = s.port ∧
              ∀ x, h.trailer = some x → x.nonce ∉ t.fw.nonces))))) ∧
  (∀ h (ty : BitVec 16) s, ty.toNat ∉ requestTypes → s.requestsWait = false → h.major = 1 → h.crc = crc32c (crcBytes h ty) →
    exec (.badType h ty) s = .next (s.respond h ty 3 []))

/-- DEVICE_SLOT_RETURN and EVT_NEXT (R365, R367, R369, R370): a returned slot is filled by the oldest event that waits, its vector sent or, masked, pending; in emulated mode the oldest
event moves into the event area; with none waiting nothing leaves. -/
def Claim.EventsDelivered : Prop :=
  (∀ p k s, k < 8 → s.mailbox p = true → (Map.get none (s.hostAt p.idx).d2h k).isSome = true →
    let h := s.hostAt p.idx
    ∃ t, exec (.deviceSlotReturn p k) s = .next t ∧ t.mem = s.mem ∧ t.part = s.part ∧
      (h.evtQ = [] → t.outbox = s.outbox ∧ (Map.get none (t.hostAt p.idx).d2h k) = none) ∧
      ∀ v e q, h.evtQ = (v, e) :: q → (t.hostAt p.idx).evtQ = q ∧
        (∃ j, j < 8 ∧ Map.get none (t.hostAt p.idx).d2h j = some (v, e)) ∧
        ((Map.get ((0, 0x100000000) : Word × Word) h.msix v).2.getLsbD 32 = false → t.outbox = s.outbox ++ [.event p v e, .msix p v]) ∧
        ((Map.get ((0, 0x100000000) : Word × Word) h.msix v).2.getLsbD 32 = true → t.outbox = s.outbox ++ [.event p v e] ∧
          (t.hostAt p.idx).msixPend = h.msixPend ||| (1#64 <<< v))) ∧
  (∀ p s v e q, s.mailbox p = false → s.fw.handoff = false → (s.hostAt p.idx).evtQ = (v, e) :: q →
    ∃ t, exec (.evtNext p) s = .next t ∧ t.outbox = s.outbox ++ [.event p v e] ∧ (t.hostAt p.idx).evtQ = q ∧ (t.hostAt p.idx).emuEvt = some e ∧
      (t.hostAt p.idx).evtValid = true ∧ t.mem = s.mem) ∧
  (∀ p s, s.mailbox p = false → (s.hostAt p.idx).evtQ = [] → exec (.evtNext p) s = .next s)

/-- Checks on every message; events delivered to a host. The whole of what its parts say.
Model's choices it rests on: log 26, 33, 69. -/
def Obligations.MessageChecks : Prop :=
  Claim.MessageChecks ∧ Claim.EventsDelivered

/-- APERTURE_READ and APERTURE_WRITE (R143, R361, R362): a read answers with the register at BASE × 8 MiB + offset of the die selected: among them map entries,
partition words, tile streams, port status; an offset of no register reads 0; nothing else changes. A read of a migrating tile waits. A write changes AP_WR alone. -/
def Claim.Apertures : Prop :=
  (∀ p (off : BitVec 23) s,
    let h := s.hostAt p.idx
    let a := h.apBase.toNat * 2 ^ 23 + off.toNat
    h.linkUp = true → h.d3hot = false →
    (∀ d n, h.apDie.toNat = d → d < nDies → n < 144 → a = 0x1000 + 4 * n →
      exec (.apertureRead p off 4) s = .next (s.emit (.cpl p true false (natLe 4 (s.mapReg d n))))) ∧
    (∀ q, h.apDie.toNat = 4 → q < nParts → a = 0x380000 + 0x20 * q →
      exec (.apertureRead p off 8) s = .next (s.emit (.cpl p true false (natLe 8 ((s.partAt q).tableWord 0))))) ∧
    (∀ q, h.apDie.toNat = 4 → q < nPorts → a = 0x1000000 + 0x1000 * q →
      exec (.apertureRead p off 8) s = .next (s.emit (.cpl p true false (natLe 8 (s.aqpStatus q))))) ∧
    (∀ d n k, h.apDie.toNat = d → d < nDies → n < 144 → k < 3 → a = 0x200000 + 0x1000 * n + 8 * k → (s.tmapAt (144 * d + n)).migrating = false →
      exec (.apertureRead p off 8) s = .next (s.emit (.cpl p true false (natLe 8 (s.streamWord (144 * d + n) (StreamId.ofCode k)).toNat)))) ∧
    (∀ d n o len, h.apDie.toNat = d → d < nDies → n < 144 → o < 0x1000 → a = 0x200000 + 0x1000 * n + o → (s.tmapAt (144 * d + n)).migrating = true →
      exec (.apertureRead p off len) s = .next s) ∧
    (∀ len, h.apDie.toNat = 4 → 0x1041000 ≤ a → exec (.apertureRead p off len) s = .next (s.emit (.cpl p true false (List.replicate len 0)))) ∧
    (∀ len, 5 ≤ h.apDie.toNat → exec (.apertureRead p off len) s = .next (s.emit (.cpl p true false (List.replicate len 0)))) ∧
    ∃ t, exec (.apertureWrite p off) s = .next t ∧ t.hostAt p.idx = { h with apWr := satAdd 65535 h.apWr } ∧ t.mem = s.mem ∧ t.part = s.part)

/-- BAR2_READ and BAR2_WRITE (R213, R216, R363): an access through a mapped segment of a partition of the port, all of it owned, reads or writes package memory there; any other is
refused, counted and reported, and a write of it lost; an access to a locked line waits; a read that meets a poisoned line completes poisoned. -/
def Claim.Bar2Accesses : Prop :=
  ∀ p (off : BitVec 39) s,
    let h := s.hostAt p.idx
    let a := h.bar2Addr off.toNat
    h.linkUp = true → h.d3hot = false → off.toNat < h.bar2Bytes → s.inDeep = false →
    (∀ len, s.bar2Ok p off.toNat len = true → s.bar2Waits a len = false →
      ((∀ l ∈ s.linesOf [(a, len)], s.poisoned l = false) → exec (.bar2Read p off len) s = .next (s.emit (.cpl p true false (s.pkgRead a len)))) ∧
      ((∃ l ∈ s.linesOf [(a, len)], s.poisoned l = true) → ∃ t, exec (.bar2Read p off len) s = .next t ∧ t.mem = s.mem ∧ t.part = s.part ∧
        t.outbox = s.outbox ++ [.cpl p true true (s.pkgRead a len)])) ∧
    (∀ len, s.bar2Ok p off.toNat len = true → s.bar2Waits a len = true → exec (.bar2Read p off len) s = .next s) ∧
    (∀ len, s.bar2Ok p off.toNat len = false → ∃ t, exec (.bar2Read p off len) s = .next t ∧ (t.hostAt p.idx).bar2Rej = satAdd 65535 h.bar2Rej ∧ t.mem = s.mem ∧
      t.part = s.part ∧ ∃ o, t.outbox = o ++ [.cpl p false false []]) ∧
    (∀ bs, s.bar2Ok p off.toNat bs.length = true → s.bar2Waits a bs.length = false → a + bs.length ≤ 0xF000000000 →
      ∃ t, exec (.bar2Write p off bs) s = .next t ∧ t.memRead a bs.length = bs ∧
        (∀ x, x < a ∨ a + bs.length ≤ x → Map.get 0 t.mem x = Map.get 0 s.mem x) ∧ t.part = s.part) ∧
    (∀ bs, s.bar2Ok p off.toNat bs.length = true → s.bar2Waits a bs.length = true → exec (.bar2Write p off bs) s = .next s) ∧
    (∀ bs, s.bar2Ok p off.toNat bs.length = false → ∃ t, exec (.bar2Write p off bs) s = .next t ∧ (t.hostAt p.idx).bar2Rej = satAdd 65535 h.bar2Rej ∧ t.mem = s.mem)

/-- Host accesses through the BARs. The whole of what its parts say.
Model's choices it rests on: log 43, 44, 45. -/
def Obligations.HostApertures : Prop :=
  Claim.Apertures ∧ Claim.Bar2Accesses

/-- PCIE_CONFIG_REQUEST (R359, R384): before READY a configuration request is answered with retry status and takes no effect; after it the identity reads as Table 14-2
gives it, a written register stands as written. -/
def Claim.ConfigSpace : Prop :=
  ∀ p w (reg : BitVec 12) s, (s.hostAt p.idx).linkUp = true →
    (s.fw.ready = false → s.fw.stage ≠ 4 → exec (.pcieConfigRequest p w reg) s = .next (s.emit (.retryStatus p))) ∧
    (s.fw.ready = true →
      (w = none → exec (.pcieConfigRequest p w reg) s = .next (s.emit (.cpl p true false (natLe 4 ((s.hostAt p.idx).configRead (reg.toNat / 4 * 4)).toNat)))) ∧
      (w = none → reg.toNat < 4 → exec (.pcieConfigRequest p w reg) s = .next (s.emit (.cpl p true false [0x5A, 0x1F, 0x34, 0x4B]))) ∧
      (∀ v, w = some v → ∃ t, exec (.pcieConfigRequest p w reg) s = .next t ∧ Map.get 0 (t.hostAt p.idx).cfg (reg.toNat / 4 * 4) = v ∧ t.mem = s.mem ∧
        t.part = s.part ∧ (∀ r, r ≠ reg.toNat / 4 * 4 → Map.get 0 (t.hostAt p.idx).cfg r = Map.get 0 (s.hostAt p.idx).cfg r) ∧
        t.outbox = s.outbox ++ [.cpl p true false []]))

/-- FLR, HOT_RESET, HOST_LINK_DOWN, PERST_ASSERT, PERST_DEASSERT, HOST_LINK_UP (R359, R379, R380, R384, R426): the owner of the port's partitions is lost, the function
returns to its reset values, its map of BAR2 and the partition table standing; all but the FLR take the link down. A port out of reset trains at x16, x8 or x4, with a
common clock where REFCLK is in range. -/
def Claim.PortResets : Prop :=
  (∀ p s c, c = Instr.flr p ∨ c = .hotReset p ∨ c = .hostLinkDown p → (s.hostAt p.idx).linkUp = true →
    (∀ q, q < nParts → (s.partAt q).owner = p → (s.partAt q).valid = true → s.runningOf q = [] ∧ (s.partAt q).state ≠ .orphan) →
    ∃ t, exec c s = .next t ∧ t.mem = s.mem ∧ (t.hostAt p.idx).msix = [] ∧ (t.hostAt p.idx).apDie = 4 ∧ (t.hostAt p.idx).apBase = 0 ∧
      (t.hostAt p.idx).bar2Size = 64 ∧ (t.hostAt p.idx).cfg = [] ∧ (t.hostAt p.idx).h2dResp = [] ∧ (t.hostAt p.idx).d3hot = false ∧
      (t.hostAt p.idx).bar2 = (s.hostAt p.idx).bar2 ∧ t.ptTile = s.ptTile ∧ (t.hostAt p.idx).linkUp = decide (c = .flr p) ∧
      (∀ q, q < nParts → (s.partAt q).owner ≠ p ∨ (s.partAt q).valid = false → t.partAt q = s.partAt q) ∧
      ∀ q, q < nParts → (s.partAt q).owner = p → (s.partAt q).valid = true → (t.partAt q).state = .parked ∧ (t.partAt q).leaseOn = false ∧ (t.partAt q).leaseLeft = 0) ∧
  (∀ p s, ∃ t, exec (.perstAssert p) s = .next t ∧ (t.hostAt p.idx).inReset = true ∧ t.side.level.getLsbD (perstIn p).bit = true ∧ t.mem = s.mem ∧
    ((s.hostAt p.idx).inReset = false → (t.hostAt p.idx).linkUp = false ∧ (t.hostAt p.idx).bar2Size = 64 ∧ (t.hostAt p.idx).bar2 = (s.hostAt p.idx).bar2)) ∧
  (∀ p ref s, s.side.chatter.getLsbD (perstIn p).bit = false → (s.hostAt p.idx).inReset = true →
    ∃ t, exec (.perstDeassert p ref) s = .next t ∧ (t.hostAt p.idx).inReset = false ∧ t.side.level.getLsbD (perstIn p).bit = false ∧ t.mem = s.mem ∧
      (∀ f, ref = some f → 99350 ≤ f → f ≤ 100050 → (t.hostAt p.idx).sris = false) ∧ (ref = none → (t.hostAt p.idx).sris = true)) ∧
  (∀ p ref s, s.side.chatter.getLsbD (perstIn p).bit = true → ∃ t, exec (.perstDeassert p ref) s = .next t ∧ t.host = s.host) ∧
  (∀ p w s, (s.hostAt p.idx).inReset = false → (s.hostAt p.idx).linkUp = false → (s.fw.rcOnly = true → (s.hostAt p.idx).sris = false) → w = 16 ∨ w = 8 ∨ w = 4 →
    ∃ t, exec (.hostLinkUp p w) s = .next t ∧ t.hostAt p.idx = { s.hostAt p.idx with linkUp := true, width := w, clocking := if (s.hostAt p.idx).sris then 2 else 1 } ∧
      t.mem = s.mem ∧ (w = 16 → t.crumb = s.crumb) ∧ (w ≠ 16 → s.crumb.errQ.length < 64 → t.crumb.errQ.length = s.crumb.errQ.length + 1))

/-- REGISTER_WRITE (R5, R32, R63, R65, R361, R367, R370, R431, R455): a register the map names takes the value its field holds, and no other register changes: the aperture selection, a byte of the emulated request,
the slew, a trim within −16 to +8 or clamped, a D-margin while PROVING; a write to a reserved offset changes nothing. -/
def Claim.RegisterWrites : Prop :=
  (∀ p v s, ∃ t, exec (.registerWrite (.apsel p) v) s = .next t ∧ t.mem = s.mem ∧
    t.hostAt p.idx = { s.hostAt p.idx with apDie := v.extractLsb' 12 4, apBase := v.extractLsb' 0 9 } ∧ ∀ x, x ≠ p.idx → t.hostAt x = s.hostAt x) ∧
  (∀ p o v s, exec (.registerWrite (.bar0Rsv p o) v) s = .next s ∧ exec (.registerWrite (.emuCtrl p) v) s = .next s) ∧
  (∀ p o v s, s.mailbox p = false → o < 1344 → ∃ t, exec (.registerWrite (.emuReq p o) v) s = .next t ∧ t.mem = s.mem ∧
    ∀ x, Map.get 0 (t.hostAt p.idx).emuReq x = if x = o then v.extractLsb' 0 8 else Map.get 0 (s.hostAt p.idx).emuReq x) ∧
  (∀ d m v s, d < nDies → m < nPhys →
    let g := nPhys * d + m
    (∃ t, exec (.registerWrite (.vtrim d m) v) s = .next t ∧ t.mem = s.mem ∧ -16 ≤ (t.ptileAt g).vtrim ∧ (t.ptileAt g).vtrim ≤ 8 ∧
      (-16 ≤ sext 8 (v.toNat % 256) → sext 8 (v.toNat % 256) ≤ 8 → (t.ptileAt g).vtrim = sext 8 (v.toNat % 256)) ∧
      (sext 8 (v.toNat % 256) < -16 ∨ 8 < sext 8 (v.toNat % 256) → (t.ptileAt g).clamped = true) ∧ ∀ x, x ≠ g → t.ptileAt x = s.ptileAt x) ∧
    ((s.ptileAt g).state = .proving → ∃ t, exec (.registerWrite (.arrCtrl d m) v) s = .next t ∧ t.ptileAt g = { s.ptileAt g with dmargin := min 16 (v.toNat % 32) }) ∧
    ((s.ptileAt g).state = .active → ∃ t, exec (.registerWrite (.arrRepair d m) v) s = .next t ∧ t.ptileAt g = s.ptileAt g)) ∧
  (∀ v s, ∃ t, exec (.registerWrite .slew v) s = .next t ∧ t.side = { s.side with slew := v.extractLsb' 0 2 } ∧ t.mem = s.mem)

/-- Configuration space, resets of a host port, register writes. The whole of what its parts say.
Model's choices it rests on: log 27, 28, 44. -/
def Obligations.HostPorts : Prop :=
  Claim.ConfigSpace ∧ Claim.PortResets ∧ Claim.RegisterWrites

/-- The order of the crumbs waiting for flash (R352, R353): a C2 or C3 crumb with room stands ahead of every waiting C0 and C1 crumb and behind every waiting C2 and C3 crumb before them, with the
next CTR; a C0 or C1 crumb equal in SYN and UNIT to one of the running second is not sent; CRUMB_COALESCE_WINDOW sends one more with REPEAT where there were further ones, and none
otherwise. -/
def Claim.CrumbsQueued : Prop :=
  (∀ (s : State) cls syn u keys, 2 ≤ cls → s.crumb.flashQ.length < 256 →
    ∃ c a b, (s.crumbOut cls syn u keys).crumb.flashQ = a ++ c :: b ∧ a ++ b = s.crumb.flashQ ∧ c.ctr = s.crumb.ctr ∧ c.cls = cls ∧ c.syn = syn ∧ c.unit = u ∧ c.tick = s.refTick ∧
      (∀ x ∈ a, 2 ≤ x.cls) ∧ (∀ x q, b = x :: q → x.cls < 2) ∧ (s.crumbOut cls syn u keys).crumb.ctr = s.crumb.ctr + 1) ∧
  (∀ (s : State) cls syn u keys, cls < 2 → (∃ x ∈ s.crumb.coalesce, x.1 = syn ∧ x.2.1 = u) →
    (s.crumbOut cls syn u keys).crumb.flashQ = s.crumb.flashQ ∧ (s.crumbOut cls syn u keys).crumb.ctr = s.crumb.ctr) ∧
  (∀ (s : State) syn u a b n c, s.crumb.coalesce = a ++ (syn, u, n, c) :: b → (∀ x ∈ a, ¬(x.1 = syn ∧ x.2.1 = u)) →
    ∃ t, exec (.crumbCoalesceWindow syn u) s = .next t ∧ t.crumb.coalesce = a ++ b ∧
      (n = 0 → t.crumb.flashQ = s.crumb.flashQ ∧ t.crumb.ctr = s.crumb.ctr) ∧
      (n ≠ 0 → s.crumb.flashQ.length < 256 → t.crumb.ctr = s.crumb.ctr + 1 ∧
        ∃ x y, t.crumb.flashQ = x ++ { c with ctr := s.crumb.ctr, keys := c.keys ++ [(18, .u n)] } :: y ∧ x ++ y = s.crumb.flashQ) ∧
      t.mem = s.mem ∧ t.tile = s.tile ∧ t.part = s.part ∧ t.outbox = s.outbox) ∧
  ∀ (s : State) syn u, (∀ x ∈ s.crumb.coalesce, ¬(x.1 = syn ∧ x.2.1 = u)) → exec (.crumbCoalesceWindow syn u) s = .next s

/-- CRUMB_FLASH_WRITE, CRUMB_FETCH, CRUMB_READ, IBI_REPEAT (R352, R354, R461, R462): while firmware runs the first waiting crumb goes into the ring of 16,384, over the oldest of a full one, then
to each collector and into the I3C FIFO of 32, whose oldest is dropped and counted when it is full and which raises an interrupt as it becomes non-empty; a held crumb takes the freed entry. A fetch
sends the crumbs of its range still in the ring in ascending CTR; on the RC oscillator alone no datagram leaves. A read answers length and head crumb, which leaves only with its last byte. -/
def Claim.CrumbsDelivered : Prop :=
  (∀ s c q, s.fw.stage = 2 ∨ s.fw.stage = 3 → s.crumb.flashQ = c :: q →
    ∃ t, exec .crumbFlashWrite s = .next t ∧
      t.crumb.ring = (if 16384 ≤ s.crumb.ring.length then s.crumb.ring.tail else s.crumb.ring) ++ [c] ∧
      (s.crumb.held = [] → t.crumb.flashQ = q ∧ t.crumb.held = []) ∧
      (∀ h l, s.crumb.held = h :: l → t.crumb.flashQ = placeCrumb h q ∧ t.crumb.held = l) ∧
      (s.crumb.fifo.length < 32 → t.crumb.fifo = s.crumb.fifo ++ [c] ∧ t.crumb.i3cLost = s.crumb.i3cLost) ∧
      (32 ≤ s.crumb.fifo.length → t.crumb.fifo = s.crumb.fifo.tail ++ [c] ∧ t.crumb.i3cLost = min 65535 (s.crumb.i3cLost + 1)) ∧
      t.outbox = s.outbox ++ List.replicate (if s.fw.rcOnly then 0 else s.collectors.length) (.crumbUdp c) ++
        (if s.crumb.fifo = [] ∧ s.i3c.ibiEn = true ∧ s.i3c.dyn ≠ none then [.ibi 1] else []) ∧
      t.mem = s.mem ∧ t.tile = s.tile ∧ t.part = s.part ∧ t.port = s.port ∧ t.fw = s.fw) ∧
  (∀ s, s.crumb.flashQ = [] ∨ s.fw.stage < 2 ∨ s.fw.stage = 4 → exec .crumbFlashWrite s = .next s) ∧
  (∀ (first : Word) count s, 1 ≤ count → count ≤ 256 → s.fw.rcOnly = false →
    ∃ xs : List Crumb, exec (.crumbFetch first count) s = .next { s with outbox := s.outbox ++ xs.map Out.crumbUdp } ∧
      xs.Pairwise (fun a b => a.ctr.toNat < b.ctr.toNat) ∧ (∀ c ∈ xs, c ∈ s.crumb.ring ∧ first.toNat ≤ c.ctr.toNat ∧ c.ctr.toNat < first.toNat + count) ∧
      ∀ c ∈ s.crumb.ring, first.toNat ≤ c.ctr.toNat → c.ctr.toNat < first.toNat + count → ∃ x ∈ xs, x.ctr = c.ctr) ∧
  (∀ first count s, s.fw.rcOnly = true → exec (.crumbFetch first count) s = .next s) ∧
  (∀ bytes s c q, s.crumb.fifo = c :: q →
    ∃ t, exec (.crumbRead bytes) s = .next t ∧ t.outbox = s.outbox ++ [.i3c ((natLe 2 c.encode.length ++ c.encode).take bytes)] ∧
      t.crumb = { s.crumb with fifo := if 2 + c.encode.length ≤ bytes then q else c :: q } ∧ t.mem = s.mem ∧ t.tile = s.tile ∧ t.part = s.part) ∧
  (∀ bytes s, s.crumb.fifo = [] → exec (.crumbRead bytes) s = .next (s.emit (.i3c ([0, 0].take bytes)))) ∧
  (∀ s, s.crumb.fifo ≠ [] → s.i3c.ibiEn = true → s.i3c.dyn ≠ none → exec .ibiRepeat s = .next (s.emit (.ibi s.crumb.fifo.length))) ∧
  ∀ s, s.crumb.fifo = [] ∨ s.i3c.ibiEn = false ∨ s.i3c.dyn = none → exec .ibiRepeat s = .next s

/-- Crumbs queued, coalesced, delivered. The whole of what its parts say.
Model's choices it rests on: log 46, 100. -/
def Obligations.Crumbs : Prop :=
  Claim.CrumbsQueued ∧ Claim.CrumbsDelivered

/-- ERROR_RECORD_HANDLE while firmware runs (R26, R336, R337, R338, R339, Table 13-4): the first record is taken (in a handoff window the first of C0 or C1: C2 and C3 stay latched) and its crumb
emitted; C2 fences the tile, stack or engine it names, and a serving tile freezes until its move; the engine of a fenced stack is disabled; C3, and a failure of R338, is the safe state:
no stream runs, every operation of the collectives engine has ended, no engine updates, FAULT_N is asserted, and every port keeps its state. -/
def Claim.RecordsHandled : Prop :=
  (∀ s r q, s.fw.stage = 2 ∨ s.fw.stage = 3 → s.fw.handoff = false → s.crumb.errQ = r :: q → s.crumb.queueFull = false →
    ∃ t, exec (.errorRecordHandle false) s = .next t ∧
      (r.cls < 2 → t.crumb.errQ = q ∧ t.mem = s.mem ∧ t.tile = s.tile ∧ t.ptile = s.ptile ∧ t.stack = s.stack ∧ t.part = s.part ∧ t.safeState = s.safeState) ∧
      (r.cls = 2 → ∀ d row col, r.unit = ⟨1, [d, row, col]⟩ → d < 4 → row < 12 → col < 13 →
        let g := 156 * d + 13 * row + col
        t.mem = s.mem ∧ ((s.ptileAt g).state = .active ∨ (s.ptileAt g).state = .bench → (t.ptileAt g).state = .fenced) ∧
        ((s.ptileAt g).state = .active → (t.tileAt (144 * d + (s.ptileAt g).logical)).frozen = true) ∧
        ((s.ptileAt g).state = .retiredFactory ∨ (s.ptileAt g).state = .retiredField → (t.ptileAt g).state = (s.ptileAt g).state)) ∧
      (r.cls = 2 → ∀ k, r.unit = ⟨5, [k]⟩ → (s.stackAt k).fenced = false → (t.stackAt k).fenced = true ∧ (t.engineAt k).disabled = true ∧ (t.engineAt k).cur = none) ∧
      (r.cls = 2 → ∀ d l, r.unit = ⟨6, [d, l]⟩ → (t.engineAt (3 * d + l)).fenced = true ∧
        ((s.engineAt (3 * d + l)).fenced = false → (t.engineAt (3 * d + l)).cur = none)) ∧
      (r.cls = 3 → t.safeState = true)) ∧
  (∀ s fatal, s.fw.stage = 2 ∨ s.fw.stage = 3 → s.safeState = false →
    fatal = true ∨ (s.fw.handoff = false ∧ ∃ r q, s.crumb.errQ = r :: q ∧ r.cls = 3) →
    ∃ t, exec (.errorRecordHandle fatal) s = .next t ∧ t.safeState = true ∧ t.pwr.state = .safe ∧ t.faultN = true ∧
      (∀ n st, (t.streamAt n st).run = false ∧ (t.streamAt n st).brew.phase ≠ .open_ ∨ (s.streamAt n st).run = false ∧ (t.streamAt n st).run = false) ∧
      (∀ o ∈ t.ops, o.kind < 16 → o.ended.isSome = true) ∧ (∀ e, e < 12 → (t.engineAt e).cur = none) ∧ ∀ n, (t.portAt n).state = (s.portAt n).state) ∧
  (∀ s a r b, s.fw.stage = 3 → s.fw.handoff = true → s.crumb.errQ = a ++ r :: b → (∀ x ∈ a, 2 ≤ x.cls) → r.cls < 2 → r ∉ a → s.crumb.queueFull = false →
    ∃ t, exec (.errorRecordHandle false) s = .next t ∧ t.crumb.errQ = a ++ b ∧ t.safeState = s.safeState) ∧
  (∀ s, s.fw.handoff = true → (∀ x ∈ s.crumb.errQ, 2 ≤ x.cls) → exec (.errorRecordHandle false) s = .next s) ∧
  (∀ s fatal, s.fw.stage ≠ 2 → s.fw.stage ≠ 3 → exec (.errorRecordHandle fatal) s = .next s)

/-- Error records handled by firmware. The whole of what its parts say.
Model's choices it rests on: log 46, 71. -/
def Obligations.ErrorRecords : Prop :=
  Claim.RecordsHandled

/-- The I3C target (R461): ENTDAA and SETDASA give a target without one its dynamic address, and the PID keeps the index of BOARD_SLOT from then on; RSTDAA takes it away; ENEC and DISEC with bit 0
set and clear the interrupt enable; GETPID, GETBCR, GETDCR, GETSTATUS and GETMXDS are answered by a target that holds an address; without one it answers the Alert Response Address with its static
address while it asserts SMBALERT_N. The bytes of GETSTATUS and GETMXDS are free (the model's choice, log 5). -/
def Claim.I3cTarget : Prop :=
  (∀ addr s, s.i3c.dyn = none →
    (∃ t, exec (.entdaa addr) s = .next t ∧ t.i3c = { s.i3c with dyn := some addr, pidSlot := s.i3cSlot } ∧
      t.outbox = s.outbox ++ [.i3c (natBe 6 (0x05A7 * 2 ^ 33 + 0x4B34 * 2 ^ 16 + s.i3cSlot.toNat * 2 ^ 12) ++ [0x06, 0x00])] ∧ t.mem = s.mem ∧ t.part = s.part) ∧
    ∃ t, exec (.setdasa addr) s = .next t ∧ t.i3c = { s.i3c with dyn := some addr, pidSlot := s.i3cSlot } ∧ t.outbox = s.outbox ∧ t.mem = s.mem ∧ t.part = s.part) ∧
  (∀ addr s, s.i3c.dyn ≠ none → exec (.entdaa addr) s = .next s ∧ exec (.setdasa addr) s = .next s) ∧
  (∀ s, ∃ t, exec .rstdaa s = .next t ∧ t = { s with i3c := { s.i3c with dyn := none } }) ∧
  (∀ (e : Byte) s,
    (∃ t, exec (.enec e) s = .next t ∧ t = { s with i3c := { s.i3c with ibiEn := s.i3c.ibiEn || e.getLsbD 0 } }) ∧
    ∃ t, exec (.disec e) s = .next t ∧ t = { s with i3c := { s.i3c with ibiEn := s.i3c.ibiEn && !e.getLsbD 0 } }) ∧
  (∀ s, s.i3c.dyn ≠ none →
    exec .getpid s = .next (s.emit (.i3c (natBe 6 (0x05A7 * 2 ^ 33 + 0x4B34 * 2 ^ 16 + s.i3c.pidSlot.toNat * 2 ^ 12)))) ∧
    exec .getbcr s = .next (s.emit (.i3c [0x06])) ∧ exec .getdcr s = .next (s.emit (.i3c [0x00])) ∧
    (∃ a b, exec .getstatus s = .next { s.emit (.i3c [a, b]) with freeCtr := s.freeCtr + 2 }) ∧
    ∃ a b, exec .getmxds s = .next { s.emit (.i3c [a, b]) with freeCtr := s.freeCtr + 2 }) ∧
  (∀ s, s.i3c.dyn = none →
    exec .getpid s = .next s ∧ exec .getbcr s = .next s ∧ exec .getdcr s = .next s ∧
    (s.crumb.fifo ≠ [] → exec .alertResponse s = .next (s.emit (.i3c [BitVec.ofNat 8 (2 * (0x58 + s.i3cSlot.toNat))]))) ∧
    (s.crumb.fifo = [] → exec .alertResponse s = .next s)) ∧
  (∀ s, s.i3c.dyn ≠ none → exec .alertResponse s = .next s) ∧
  ∀ s : State, s.i3cSlot = if s.side.sampled = true then s.side.slotIdx else s.side.level.extractLsb' 5 3

/-- The TAP (R457, R465): an edge of TCK does what the controller's state asks and moves it as TMS says; Test-Logic-Reset selects IDCODE, whose word is captured in Capture-DR; five edges with TMS
high reach Test-Logic-Reset from anywhere; an instruction is eight bits and takes effect in Update-IR; nothing but the TAP moves. TRST_N, or its chatter flag, holds Test-Logic-Reset. -/
def Claim.Tap : Prop :=
  (∀ tms tdi (s : State), s.side.chatter.getLsbD 4 = false →
    ∃ t, exec (.tck tms tdi) s = .next t ∧ t = { s with tap := t.tap, freeCtr := s.freeCtr + 1 } ∧ t.tap.st = s.tap.st.next tms ∧
      (s.tap.st = .tlr → t.tap.idcode = true) ∧
      (s.tap.st = .capDr → s.tap.idcode = true → t.tap.drSh = tapId) ∧
      (s.tap.st = .shDr → s.tap.idcode = true → t.tap.tdo = s.tap.drSh.getLsbD 0 ∧ t.tap.drSh.getLsbD 31 = tdi ∧
        ∀ i, i < 31 → t.tap.drSh.getLsbD i = s.tap.drSh.getLsbD (i + 1)) ∧
      (s.tap.st = .capIr → t.tap.irSh.getLsbD 0 = true ∧ t.tap.irSh.getLsbD 1 = false) ∧
      (s.tap.st = .shIr → t.tap.tdo = s.tap.irSh.getLsbD 0 ∧ t.tap.irSh.getLsbD 7 = tdi ∧ ∀ i, i < 7 → t.tap.irSh.getLsbD i = s.tap.irSh.getLsbD (i + 1)) ∧
      (s.tap.st = .upIr → t.tap.ir = s.tap.irSh ∧ (t.tap.idcode = true ↔ s.tap.irSh = Config.tapIdcode)) ∧
      (s.tap.st = .upDr → s.tap.boundary = true → t.tap.bsr = s.tap.bsrSh)) ∧
  (∀ x : TapSt, ((((x.next true).next true).next true).next true).next true = .tlr) ∧
  TapSt.tlr.next true = .tlr ∧
  tapId.extractLsb' 28 4 = BitVec.ofNat 4 (Config.idRev 4).1.toNat ∧ tapId.extractLsb' 12 16 = 0x4B34#16 ∧ tapId.extractLsb' 1 11 = 0x2F1#11 ∧ tapId.getLsbD 0 = true ∧
  (∀ tms tdi (s : State), s.side.chatter.getLsbD 4 = true → exec (.tck tms tdi) s = .next s) ∧
  ∀ s, ∃ t, exec .trstNAssert s = .next t ∧ t = { s with tap := { s.tap with st := .tlr, idcode := true } }

/-- AUTO_NEGOTIATION (R424, R460): the management Ethernet port comes up as 1000BASE-X or SGMII, except on the RC oscillator alone. -/
def Claim.EthernetUp : Prop :=
  (∀ b s, s.fw.rcOnly = false → ∃ t, exec (.autoNegotiation b) s = .next t ∧ t = { s with i3c := { s.i3c with ethUp := true, ethSgmii := b } }) ∧
  ∀ b s, s.fw.rcOnly = true → exec (.autoNegotiation b) s = .next s

/-- The I3C target, the test port, the Ethernet port. The whole of what its parts say.
Model's choices it rests on: log 5, 55. -/
def Obligations.Management : Prop :=
  Claim.I3cTarget ∧ Claim.Tap ∧ Claim.EthernetUp

/-- SLEEP, SLEEP_ENTRY, SLEEP_ABANDON (R433, R435): a SLEEP command in run opens the entry unless a handoff window, maintenance mode or the safe state refuses it; once write-backs, updates,
operations and arrays are done the running streams freeze and PWR_STATE is emitted; when the time has passed without that the streams go on with PWR_REQ_ABANDONED. -/
def Claim.SleepEntered : Prop :=
  (∀ s, s.pwr.state = .run → s.fw.handoff = false → s.safeState = false → (∀ k ∈ s.stack, k.2.maint = false) →
    ∃ t, exec .sleep s = .next t ∧ t = { s with pwr := { s.pwr with state := .sleepEntry } }) ∧
  (∀ s, s.pwr.state ≠ .run ∨ s.fw.handoff = true ∨ s.safeState = true ∨ (∃ k ∈ s.stack, k.2.maint = true) → exec .sleep s = .next s) ∧
  (∀ s, s.pwr.state = .sleepEntry →
    (s.quiet = true → ∃ t, exec .sleepEntry s = .next t ∧ t.pwr.state = .sleep ∧
      (∀ n st, (s.streamAt n st).run = true → (t.tileAt n).frozen = true) ∧ (∀ n, { t.tileAt n with frozen := false } = { s.tileAt n with frozen := false }) ∧
      t.mem = s.mem ∧ t.part = s.part ∧ t.ptile = s.ptile ∧ (s.crumb.coalesce = [] → t.crumb.ctr = s.crumb.ctr + 1)) ∧
    (s.quiet = false → exec .sleepEntry s = .next s) ∧
    (s.quiet = false → ∃ t, exec .sleepAbandon s = .next t ∧ t.pwr.state = .run ∧ t.tile = s.tile ∧ t.mem = s.mem ∧ t.part = s.part ∧
      (s.crumb.coalesce = [] → t.crumb.ctr = s.crumb.ctr + 1)) ∧
    (s.quiet = true → exec .sleepAbandon s = .next s)) ∧
  ∀ s, s.pwr.state ≠ .sleepEntry → exec .sleepEntry s = .next s ∧ exec .sleepAbandon s = .next s

/-- WAKE (R433–R435): it abandons an entry without PWR_REQ_ABANDONED, ends sleep with the streams going on (but for a tile whose move under R26 is due), begins the exit from deep sleep, and does
nothing in any other state. -/
def Claim.Wakes : Prop :=
  (∀ s, s.pwr.state = .sleepEntry → ∃ t, exec .wake s = .next t ∧ t = { s with pwr := { s.pwr with state := .run }, ptile := t.ptile } ∧ RunsGoOn s t) ∧
  (∀ s, s.pwr.state = .sleep → ∃ t, exec .wake s = .next t ∧ t.pwr.state = .run ∧
    (∀ n, (t.tileAt n).frozen = true ↔ ∃ m, s.physOf n = some m ∧ (s.ptileAt m).state = .fenced ∧ (s.tileAt n).frozen = true) ∧
    (∀ n, { t.tileAt n with frozen := false } = { s.tileAt n with frozen := false }) ∧ t.mem = s.mem ∧ t.part = s.part ∧ RunsGoOn s t) ∧
  (∀ s, s.pwr.state = .deepEntry → ∃ t, exec .wake s = .next t ∧ t.pwr.state = .run ∧ Relit s t ∧
    (s.deepLit → t.crumb = s.crumb ∧ t.tile = s.tile ∧ t.mem = s.mem ∧ t.part = s.part)) ∧
  (∀ s, s.pwr.state = .deep → ∃ t, exec .wake s = .next t ∧ t = { s with pwr := { s.pwr with state := .deepExit } }) ∧
  ∀ s, s.pwr.state = .run ∨ s.pwr.state = .deepExit ∨ s.pwr.state = .safe → exec .wake s = .next s

/-- DEEP, DEEP_ENTRY, DEEP_ABANDON, DEEP_EXIT_COMPLETE (R293, R350, R434, R435): DEEP parks every valid partition; with the conditions of R433 met every brew and stream ends, the health tables
reach the IOD, ACTIVE ports are asked to go dark, and with none ACTIVE the PLLs stop, the stacks go into self-refresh and the modules off; the exit undoes this, fences the tiles that fail their
self-test, zeroes the banks and lights the ports that were darkened, those whose laser input has light. A package in sleep wakes for DEEP (log 30). -/
def Claim.DeepSleep : Prop :=
  (∀ s, s.pwr.state = .run ∨ s.pwr.state = .sleepEntry ∨ s.pwr.state = .sleep → s.fw.handoff = false → s.safeState = false → (∀ k ∈ s.stack, k.2.maint = false) →
    ∃ t, exec .deep s = .next t ∧ t.pwr.state = .deepEntry ∧ t.mem = s.mem ∧
      ∀ p, p < 8 → ((s.partAt p).valid = false → t.partAt p = s.partAt p) ∧
        ((s.partAt p).valid = true → ((t.partAt p).state = .parking ∨ (t.partAt p).state = .orphan ∨ (t.partAt p).state = .parked) ∧
          (s.runningOf p = [] → (t.partAt p).state = .parked))) ∧
  (∀ s, s.fw.handoff = true ∨ s.safeState = true ∨ (∃ k ∈ s.stack, k.2.maint = true) → exec .deep s = .next s) ∧
  (∀ s, s.pwr.state = .deepEntry → s.quiet = true →
    ∃ t, exec .deepEntry s = .next t ∧ (∀ n st, (t.streamAt n st).run = false) ∧ (∀ n, (t.tileAt n).health = [] ∧ (t.tileAt n).flushQ = []) ∧
      (∀ n, n < 64 → (s.portAt n).state = .active → t.pwr.state = .deepEntry ∧ (t.portAt n).deepDark = true ∧ (t.portAt n).darkReq = true) ∧
      ((∀ n, n < 64 → (s.portAt n).state ≠ .active) → t.pwr.state = .deep ∧ (∀ d, (t.dieAt d).pllLock = false) ∧ (∀ k, k < 12 → (t.stackAt k).selfRefresh = true) ∧
        ∀ k, k < 96 → (t.moduleAt k).off = !(s.moduleAt k).retired)) ∧
  (∀ s, s.pwr.state = .deepEntry → s.quiet = false →
    exec .deepEntry s = .next s ∧
    ∃ t, exec .deepAbandon s = .next t ∧ t.pwr.state = .run ∧ Relit s t ∧
      (s.deepLit → t.part = s.part ∧ t.tile = s.tile ∧ t.mem = s.mem ∧ (s.crumb.coalesce = [] → t.crumb.ctr = s.crumb.ctr + 1))) ∧
  (∀ s, s.pwr.state ≠ .deepEntry → exec .deepEntry s = .next s ∧ exec .deepAbandon s = .next s) ∧
  (∀ failing s, s.pwr.state = .deepExit → s.pwr.warmPend = none →
    ∃ t, exec (.deepExitComplete failing) s = .next t ∧ t.pwr.state = .run ∧ Relit s t ∧ (s.deepLit → t.mem = s.mem ∧ t.part = s.part) ∧
      (∀ d, d < 4 → (t.dieAt d).pllLock = !(s.dieAt d).heldReset) ∧ (∀ k, (t.stackAt k).selfRefresh = false) ∧ (∀ k, (t.moduleAt k).off = false) ∧
      (s.deepLit → ∀ n, (t.tileAt n).bank = [] ∧ (t.tileAt n).ls = (s.tileAt n).ls) ∧
      (∀ d m, (d, m) ∈ failing → d < 4 → m < 156 →
        ((s.ptileAt (156 * d + m)).state = .active ∨ (s.ptileAt (156 * d + m)).state = .bench → (t.ptileAt (156 * d + m)).state = .fenced) ∧
        ((s.ptileAt (156 * d + m)).state = .active → (t.tileAt (144 * d + (s.ptileAt (156 * d + m)).logical)).frozen = true))) ∧
  (∀ failing s w, s.pwr.state = .deepExit → s.pwr.warmPend = some w →
    ∃ t, exec (.deepExitComplete failing) s = .next t ∧ t.pwr.state = .run ∧ t.pwr.warmPend = none ∧ (∀ n st, (t.streamAt n st).run = false) ∧ (t.fw.stage = 4 ∨ t.replayDue = true)) ∧
  ∀ failing s, s.pwr.state ≠ .deepExit → exec (.deepExitComplete failing) s = .next s

/-- CLOCK_GATE (R431): a unit with RUN_EN set and no work reads clock-gated in run, and nothing else changes; another stays as it is. -/
def Claim.ClockGates : Prop :=
  ∀ d u s, d ≤ 4 → u < nGates d →
    (s.pwr.state = .run → (s.gateEn d u).getLsbD 0 = true → s.unitBusy d u = false → ¬(d = 4 ∧ (u = 19 ∨ u = 20)) →
      ∃ t, exec (.clockGate d u) s = .next t ∧ t.gateNow d u = 1 ∧ t = { s with gate := t.gate } ∧ ∀ d' u', d' ≤ 4 → u' < 200 → u < 200 → (d', u') ≠ (d, u) → t.gateReg d' u' = s.gateReg d' u') ∧
    (s.pwr.state ≠ .run ∨ (s.gateEn d u).getLsbD 0 = false ∨ s.unitBusy d u = true → exec (.clockGate d u) s = .next s)

/-- Sleep, wake, deep sleep, clock gates. The whole of what its parts say.
Model's choices it rests on: log 30, 50, 51, 68, 102. -/
def Obligations.PowerStates : Prop :=
  Claim.SleepEntered ∧ Claim.Wakes ∧ Claim.DeepSleep ∧ Claim.ClockGates

/-- WARM_RESET and MANAGEMENT_WATCHDOG (R69, R117, R145, R208, R258, R329, R337, R382, R386, R407, R420, R442, R444): outside the safe state and with firmware running, every stream loses its
program and its brew (code 5), the local stores and fault records stand, everything in flight is gone, the open steps' accumulation records are dropped, pins are 0, engines stop, the
partitions park with a fresh lease, modules keep settings and counters, records waiting are counted lost, a migration in progress completes (log 81), the preferred image starts again, else the other one, else recovery, and the replay of
the journals is due. Ports keep their state. In deep sleep the exit comes first. -/
def Claim.WarmResets : Prop :=
  (∀ c s, c = .warmReset ∨ (c = .managementWatchdog ∧ s.fw.handoff = false) → s.safeState = false → s.fw.stage = 2 ∨ s.fw.stage = 3 →
    (s.pwr.state = .run ∨ s.pwr.state = .sleepEntry ∨ s.pwr.state = .sleep → (∀ n, (s.tmapAt n).migrating = false) →
      ∃ t, exec c s = .next t ∧
        (∀ n st, let x := s.streamAt n st
          let y := t.streamAt n st
          y.run = false ∧ y.step = x.step ∧ y.fault = x.fault ∧ y.sreg = [] ∧ y.brew.phase = .idle ∧ (x.brew.phase ≠ .idle → y.tstat.code = 5 ∧ y.tstat.openPc = x.brew.openPc)) ∧
        (∀ n, let x := s.tileAt n
          let y := t.tileAt n
          y.ls = x.ls ∧ y.lsBad = x.lsBad ∧ y.slots = x.slots ∧ y.vreg = [] ∧ y.bank = [] ∧ y.sc = [] ∧ y.sb = [] ∧ y.array = [] ∧ y.copyQ = [] ∧ y.health = [] ∧ y.flushQ = []) ∧
        t.ops = [] ∧ t.comb = [] ∧ t.gens = [] ∧ t.sigs = [] ∧ t.locks = [] ∧ t.runs = [] ∧ t.poison = s.poison ∧
        (∀ e i, (t.dirAt e i).pins = 0 ∧ (t.dirAt e i).state = (s.dirAt e i).state) ∧ (∀ e, (t.engineAt e).cur = none) ∧
        (∀ p, let q := s.partAt p
          let r := t.partAt p
          r.state = (if q.state = .run ∨ q.state = .parking ∨ q.state = .orphan then .parked else q.state) ∧ r.tag = q.tag ∧ r.oldest = q.oldest ∧
          (q.valid = true → r.leaseOn = true ∧ r.leaseLeft = BitVec.ofNat 32 (100 * q.lease.toNat))) ∧
        (∀ k, let m := s.moduleAt k
          let w := t.moduleAt k
          w.rxNext = 0 ∧ w.txAck = 0 ∧ w.replay = [] ∧ w.frames = m.frames ∧ w.crcFail = m.crcFail ∧ w.txRepair = m.txRepair ∧ w.rxRepair = m.rxRepair ∧ w.retired = m.retired) ∧
        t.crumb.errQ = [] ∧ min 65535 (s.crumb.lost + s.crumb.errQ.length) ≤ t.crumb.lost ∧ t.fw.ready = false ∧ t.pwr.state = .run ∧ (∀ n, (t.portAt n).state = (s.portAt n).state) ∧
        ((∀ p, p < 8 → (s.partAt p).stepOpen = false ∨ (s.partAt p).hvalid = false) → t.mem = s.mem) ∧
        (∀ p a, p < 8 → (s.partAt p).stepOpen = true → (s.partAt p).hvalid = true → inRegion (s.partAt p).hregion 0x200000 a = true → Map.get 0 t.mem a = 0) ∧
        (∀ a, (∀ p, p < 8 → inRegion (s.partAt p).hregion 0x200000 a = false) → Map.get 0 t.mem a = Map.get 0 s.mem a) ∧
        (∀ i, s.fw.image s.fw.boot.preferred = some i → s.warmStarts i = true →
          t.fw.slot = s.fw.boot.preferred ∧ t.fw.fallback = false ∧ t.fw.stage = s.fw.stage ∧ t.replayDue = true) ∧
        (∀ i, s.fw.image (!s.fw.boot.preferred) = some i → s.warmStarts i = true → (∀ j, s.fw.image s.fw.boot.preferred = some j → s.warmStarts j = false) →
          t.fw.slot = (!s.fw.boot.preferred) ∧ t.fw.fallback = true ∧ t.fw.stage = s.fw.stage ∧ t.replayDue = true) ∧
        ((∀ b j, s.fw.image b = some j → s.warmStarts j = false) → t.fw.stage = 4 ∧ t.faultN = true)) ∧
    (s.pwr.state = .run ∨ s.pwr.state = .sleepEntry ∨ s.pwr.state = .sleep ∨ s.pwr.state = .deepEntry →
      ∃ t, exec c s = .next t ∧ t.pwr.state = .run ∧ t.fw.ready = false ∧ t.crumb.errQ = [] ∧ t.ops = [] ∧ t.locks = [] ∧ (∀ n st, (t.streamAt n st).run = false) ∧
        (∀ n m d, (s.tmapAt n).migrating = true → s.physOf n = some m → (s.tmapAt n).dest = some d → (t.tmapAt n).migrating = false ∧
          (s.pwr.state = .run → (s.tileAt n).copyBad = false → (t.tmapAt n).row = d % 156 / 13 ∧ (t.tmapAt n).col = d % 13)) ∧
        (∀ g r, (s.ptileAt g).run = some r → (s.dieAt (g / 156)).released = false → (t.ptileAt g).run = none)) ∧
    (s.pwr.state = .deep ∨ s.pwr.state = .deepExit →
      ∃ t w, exec c s = .next t ∧ t = { s with pwr := { s.pwr with state := .deepExit, warmPend := some w } } ∧ (w = true ↔ c = .managementWatchdog))) ∧
  (∀ s, s.safeState = true ∨ (s.fw.stage ≠ 2 ∧ s.fw.stage ≠ 3) → exec .warmReset s = .next s ∧ exec .managementWatchdog s = .next s) ∧
  ∀ s, s.fw.handoff = true → exec .managementWatchdog s = .next s

/-- JOURNAL_REPLAY (R229, R230, R258, R382, Table 09-9): with a replay due, the slots of every valid journal are replayed in order, shards UPDATING become PARTIAL and WAITPIN IDLE, READY is set
where firmware was at stage 3; without, nothing happens. A slot: a done record or a slot that never held one is passed over, VALID = 0 is counted, a record whose list and data read and
whose CRC matches sends every line home and gets DONE; one whose CRC does not match has its lines poisoned and its granules filled with poisoned words; an unreadable header is C3. -/
def Claim.JournalsReplayed : Prop :=
  (∀ bad s, s.replayDue = false → exec (.journalReplay bad) s = .next s) ∧
  (∀ bad s, s.replayDue = true →
    ∃ t, exec (.journalReplay bad) s = .next t ∧ t.replayDue = false ∧ (t.fw.ready = true ↔ s.fw.stage = 3) ∧
      (∀ e i, (t.dirAt e i).state = match (s.dirAt e i).state with | .updating => .partial_ | .waitpin => .idle | x => x) ∧
      (∀ p, p < 8 → (t.partAt p).parkDue = false) ∧
      ((∀ p, p < 8 → (s.partAt p).valid = false ∨ (s.partAt p).jvalid = false) → t.mem = s.mem ∧ t.poison = s.poison ∧ t.rpReplayed = s.rpReplayed) ∧
      (∀ p, p < 8 → (s.partAt p).valid = true → (s.partAt p).jvalid = true → (∀ k, k < 8 → k ≠ p → (s.partAt k).valid = false) →
        t.mem = ((s.partAt p).journalSlots.foldl (fun (s : State) a => s.replaySlot p bad a) s).mem)) ∧
  ∀ p bad slot (s : State),
    let r := s.journalHead slot
    let t := s.replaySlot p bad slot
    (s.journalReads bad slot 64 = false → t = s.errorEvent 3 0x0106 (uPart p) (s.partKeys p)) ∧
    (s.journalReads bad slot 64 = true →
      (r.valid = true → r.done = true → t = s) ∧
      (r.valid = false → t.mem = s.mem ∧ t.poison = s.poison ∧ (s.journalBlank slot = false → t.rpSkipped = min 65535 (s.rpSkipped + 1))) ∧
      (r.valid = true → r.done = false → s.journalReads bad (slot + 64) (8 * r.lines) = false → t = s.errorEvent 3 0x0106 (uPart p) (s.partKeys p)) ∧
      (r.valid = true → r.done = false → s.journalReads bad (slot + 64) (8 * r.lines) = true →
        (s.journalReads bad (slot + 64) (r.size - 64) = true → s.journalCrcOk slot r = true →
          t.rpReplayed = min (2 ^ 32 - 1) (s.rpReplayed + 1) ∧ t.rpPoisoned = s.rpPoisoned ∧
          ∀ i l, (s.journalLines slot r)[i]? = some l → isLine l = true → (∀ j, i < j → (s.journalLines slot r)[j]? ≠ some l) →
            (∀ k b, k < 8 → place s.pkg (slot + k) = .mem b → b < l ∨ l + 64 ≤ b) →
            t.memRead l 64 = slice (s.pkgRead (slot + r.dataAt) (64 * r.lines)) (64 * i) 64 ∧ t.poisoned l = false) ∧
        (s.journalReads bad (slot + 64) (r.size - 64) = false ∨ s.journalCrcOk slot r = false →
          t.rpPoisoned = min 65535 (s.rpPoisoned + 1) ∧ t.rpReplayed = s.rpReplayed ∧
          (∀ l ∈ s.journalLines slot r, isLine l = true → t.poisoned l = true) ∧
          (r.kind = 0 → r.owner < 576 → ∀ g ∈ s.journalGrans slot r, g < 6144 → ∀ k, k < 32 → Map.get false (t.tileAt r.owner).lsBad (32 * g + k) = true))))

/-- Warm resets and the journals replayed after them. The whole of what its parts say.
Model's choices it rests on: log 31, 52, 81, 102. -/
def Obligations.WarmResets : Prop :=
  Claim.WarmResets ∧ Claim.JournalsReplayed

/-- Cold resets (R5, R192, R353, R387, R393, R421, R442, R449, R459): COLD_RESET over I3C, VAUX_POWER_ON, RAIL_RESET, PKG_RST_N_ASSERT and THERMAL_SHUTDOWN return every tile, partition, engine,
operation, port and byte of memory to reset, in stage 0 and in run; the flash (boot record, images, configuration copies, crumb ring), the fuses (revocations, owner, epoch, rollback) and field
repair records stand, and so do what firmware rebuilds from the crumb ring (log 97) and the stacks' row repairs; RST_CAUSE names the source. Outside VAUX power-on the I3C target keeps its address and the chatter flags stand. -/
def Claim.ColdResets : Prop :=
  (∀ c n s, (c, n) ∈ [(Instr.coldReset, 6), (Instr.vauxPowerOn, 0), (.railReset .vinLow, 2), (.railReset .vinHigh, 3), (.railReset .vauxRange, 4), (.railReset .vinOver, 5), (.pkgRstNAssert, 1)] →
    ∃ t, exec c s = .next t ∧ t.tile = [] ∧ (∀ g, t.ptileAt g = { lineCount := (s.ptileAt g).lineCount, mustProve := (s.ptileAt g).mustProve }) ∧
      (∀ k, t.stackAt k = { softRows := (s.stackAt k).softRows, hardDone := (s.stackAt k).hardDone }) ∧ t.tmap = [] ∧ t.mem = [] ∧ t.poison = [] ∧ t.locks = [] ∧ t.part = [] ∧ t.loaf = [] ∧ t.ops = [] ∧ t.upe = [] ∧
      t.d2d = [] ∧ t.port = [] ∧ t.laser = [] ∧ t.gate = [] ∧ t.sigs = [] ∧ t.refTick = 0 ∧ t.safeState = false ∧ t.replayDue = false ∧ t.pwr.state = .run ∧ t.fw.stage = 0 ∧ t.fw.ready = false ∧
      t.clk = {} ∧ t.crumb.errQ = [] ∧ t.crumb.flashQ = [] ∧ t.crumb.fifo = [] ∧ t.crumb.ring = s.crumb.ring ∧
      t.fw.boot = s.fw.boot ∧ t.fw.imgA = s.fw.imgA ∧ t.fw.imgB = s.fw.imgB ∧ t.fw.copy0 = s.fw.copy0 ∧ t.fw.copy1 = s.fw.copy1 ∧ t.fw.revoked = s.fw.revoked ∧
      t.fw.owner = s.fw.owner ∧ t.fw.epoch = s.fw.epoch ∧ t.fw.rb = s.fw.rb ∧ t.fw.pack = s.fw.pack ∧ (∀ d, (t.dieAt d).ffuse = (s.dieAt d).ffuse) ∧
      t.side.rstCause = n ∧
      (n ≠ 0 → t.side.chatter = s.side.chatter ∧ t.side.slew = s.side.slew ∧ t.side.events = s.side.events ∧ t.i3c.dyn = s.i3c.dyn) ∧
      (n = 0 → t.side.chatter = 0 ∧ t.side.slew = 3 ∧ t.side.events = 0 ∧ t.i3c = {}) ∧
      (n = 1 → t.side.level.getLsbD 0 = true ∧ t.side.sampled = false ∧ t.side.thermtrip = false) ∧
      (n = 6 → s.mayBoot = true → t.side.slotIdx = s.side.level.extractLsb' 5 3) ∧
      (2 ≤ n → n ≤ 5 → t.side.railsGood = false ∧ ∃ r, t.fw.due = s.fw.due ++ [r] ∧ r.cls = 3 ∧ r.syn = 0x0A02 ∧ r.keys = [(10, .u n)])) ∧
  (∀ d m tj s, d < 4 → m < 156 →
    (s.side.thermtrip = true → s.side.vinOff = false → 105 ≤ tj →
      ∃ t, exec (.thermalShutdown d m tj) s = .next t ∧ t.mem = [] ∧ t.tile = [] ∧ t.part = [] ∧ t.fw.stage = 0 ∧ t.side.rstCause = 7 ∧ t.side.vinOff = true ∧ t.side.thermtrip = true ∧
        t.fw.boot = s.fw.boot ∧ t.side.chatter = s.side.chatter ∧ t.mayBoot = false) ∧
    (s.side.thermtrip = false ∨ s.side.vinOff = true ∨ tj < 105 → exec (.thermalShutdown d m tj) s = .next s)) ∧
  (∀ s, s.side.railsGood = false → ∃ t, exec .railsGood s = .next t ∧ t.side.railsGood = true ∧ t.fw.stage = s.fw.stage ∧ t.mem = s.mem ∧
    (s.side.sampled = false → (s.side.level ||| s.side.chatter).getLsbD 0 = false → s.side.vinOff = false → t.side.sampled = true ∧ t.side.slotIdx = s.side.level.extractLsb' 5 3)) ∧
  ∀ s, s.side.railsGood = true → exec .railsGood s = .next s

/-- Hardened inputs (R192, R439, R457, R458, R461, Table 17-7): PKG_RST_N's deassertion samples BOARD_SLOT; a change of the slot inputs near the sampling leaves the sample and makes it unstable;
a chattering input latches its flag, counts it, and is treated as asserted; its flag clears only with the input deasserted. -/
def Claim.HardenedInputs : Prop :=
  (∀ slot unstable s, s.side.level.getLsbD 0 = true ∨ s.side.sampled = false →
    ∃ t, exec (.pkgRstNDeassert slot unstable) s = .next t ∧ t.side.level.getLsbD 0 = false ∧ t.side.level.extractLsb' 5 3 = slot ∧ t.mem = s.mem ∧ t.tile = s.tile ∧ t.part = s.part ∧
      (s.side.chatter.getLsbD 0 = false → t.side.slotIdx = slot ∧ t.side.sampled = true ∧ t.side.slotUnstable = (unstable || decide (s.side.chatter.extractLsb' 5 3 ≠ 0))) ∧
      (s.side.chatter.getLsbD 0 = true → t.side.slotIdx = s.side.slotIdx ∧ t.side.sampled = s.side.sampled)) ∧
  (∀ slot unstable s, s.side.level.getLsbD 0 = false → s.side.sampled = true → exec (.pkgRstNDeassert slot unstable) s = .next s) ∧
  (∀ slot near s, ∃ t, exec (.boardSlotChange slot near) s = .next t ∧ t.side.slotIdx = s.side.slotIdx ∧ t.side.sampled = s.side.sampled ∧ t.side.level.extractLsb' 5 3 = slot ∧
    (∀ b, b < 5 → t.side.level.getLsbD b = s.side.level.getLsbD b) ∧ (s.side.sampled = true → near = true → t.side.slotUnstable = true) ∧
    (s.side.sampled = false ∨ near = false → t.side.slotUnstable = s.side.slotUnstable) ∧ t.mem = s.mem ∧ t.tile = s.tile ∧ t.part = s.part) ∧
  (∀ i s, s.side.chatter.getLsbD i.bit = false →
    ∃ t, exec (.inputChatter i) s = .next t ∧ t.side.chatter.getLsbD i.bit = true ∧ (∀ b, b < 8 → b ≠ i.bit → t.side.chatter.getLsbD b = s.side.chatter.getLsbD b) ∧
      t.side.events = min 65535 (s.side.events + 1) ∧
      (i = .pkgRst → t.fw.stage = 0 ∧ t.tile = [] ∧ t.mem = [] ∧ t.side.rstCause = 1) ∧
      (i = .throttle → t.pwr.offset = ratedSet ∧ t.pwr.throttleCause = true ∧ t.mem = s.mem ∧ t.tile = s.tile) ∧
      (i = .perstA → (t.hostAt 0).inReset = true) ∧ (i = .perstB → (t.hostAt 1).inReset = true) ∧
      (i = .trst → t.tap.st = .tlr ∧ t.tap.idcode = true ∧ t.mem = s.mem ∧ t.tile = s.tile) ∧
      (5 ≤ i.bit → t.mem = s.mem ∧ t.tile = s.tile ∧ t.part = s.part ∧ t.host = s.host ∧ t.pwr = s.pwr)) ∧
  (∀ i s, s.side.chatter.getLsbD i.bit = true → exec (.inputChatter i) s = .next s) ∧
  (∀ i s, s.side.chatter.getLsbD i.bit = true → i.bit ≥ 5 ∨ s.side.level.getLsbD i.bit = false → i ≠ .throttle ∨ s.fw.stage = 2 ∨ s.fw.stage = 3 →
    ∃ t, exec (.chatterReleased i) s = .next t ∧ t.side.chatter.getLsbD i.bit = false ∧ (∀ b, b < 8 → b ≠ i.bit → t.side.chatter.getLsbD b = s.side.chatter.getLsbD b) ∧
      t.side.events = s.side.events ∧ t.mem = s.mem ∧ t.tile = s.tile ∧ (i = .pkgRst → t.side.sampled = true) ∧ (i = .perstA → (t.hostAt 0).inReset = false) ∧
      (i = .perstB → (t.hostAt 1).inReset = false)) ∧
  ∀ i s, s.side.chatter.getLsbD i.bit = false ∨ (i.bit < 5 ∧ s.side.level.getLsbD i.bit = true) → exec (.chatterReleased i) s = .next s

/-- FIRST_STAGE_START (R205, R207, R275, R276, R383, R385, R386, R389, R396, R424, Table 15-2): in stage 0, with the reset released and a clock, the ROM takes the preferred slot while it has a try and its image
passes every check of R389, using one try; else the other slot, as fallback, noting BOOT_FALLBACK; else stage 4, FAULT_N and LAST_ERR. Firmware starts with MR0 and MR1 extended by header,
first stage, firmware and data, the crumbs noted for it emitted, and, with its crystal, each port pair set up as the configuration's port map and the laser light say, the stacks that fail training fenced, the soft row repairs of the others made permanent.
Otherwise nothing. -/
def Claim.FirstStages : Prop :=
  (∀ a b failed s, s.fw.stage = 0 → s.mayBoot = true → (s.clk.xtalOk = true ∧ s.clk.iodLock = true) ∨ s.fw.rcOnly = true →
    let p := s.fw.boot.preferred
    let e := fun (x : Bool) => s.slotError x (if x then b else a)
    ∃ t, exec (.firstStageStart a b failed) s = .next t ∧ t.fw.boot.tries = s.fw.boot.tries - 1 ∧ t.fw.boot.preferred = p ∧
      (s.fw.boot.tries ≠ 0 → e p = 0 → t.fw.stage = 2 ∧ t.fw.slot = p ∧ t.fw.fallback = false ∧ t.fw.lastErr = 0 ∧ t.fw.due = []) ∧
      (s.fw.boot.tries = 0 ∨ e p ≠ 0 → e (!p) = 0 → t.fw.stage = 2 ∧ t.fw.slot = (!p) ∧ t.fw.fallback = true ∧ t.fw.lastErr = (if s.fw.boot.tries = 0 then 8 else e p) ∧ t.fw.due = []) ∧
      (s.fw.boot.tries = 0 ∨ e p ≠ 0 → e (!p) ≠ 0 → t.fw.stage = 4 ∧ t.fw.lastErr = e (!p) ∧ t.faultN = true ∧ t.crumb = s.crumb ∧ t.port = s.port ∧ t.mem = s.mem) ∧
      (t.fw.stage = 2 → ∀ i, t.fw.image t.fw.slot = some i → s.fw.mr = [] →
        Map.get 0 t.fw.mr 0 = sha256 (hashBytes (sha256 (hashBytes 0 ++ hashBytes (sha256 i.header))) ++ hashBytes (sha256 i.firstStage)) ∧
        Map.get 0 t.fw.mr 1 = sha256 (hashBytes (sha256 (hashBytes 0 ++ hashBytes i.mfHash)) ++ hashBytes i.dataHash)) ∧
      (t.fw.stage = 2 → s.fw.rcOnly = false → ∀ k, k < 32 → ∀ n, n = 2 * k ∨ n = 2 * k + 1 →
        let c := (t.fw.config.portMap.getD k 0xF).toNat % 16
        (12 ≤ c → (t.portAt n).dir = 0xF ∧ (t.portAt n).state = (s.portAt n).state) ∧
        (c < 12 → (t.portAt n).dir = c ∧ (t.portAt n).lport = n ∧ (t.portAt n).state = if s.litAt n then .train else .down)) ∧
      (t.fw.stage = 2 → s.fw.rcOnly = false → ∀ k, k < 12 → (k ∈ failed → (t.stackAt k).fenced = true) ∧
        (k ∉ failed → (t.stackAt k).softRows = [] ∧ (t.stackAt k).hardDone = (s.stackAt k).hardDone + (s.stackAt k).softRows.length))) ∧
  (∀ b (s : State), s.slotError b false = 0 ↔ ∃ i, s.fw.image b = some i ∧ ImageSound i s) ∧
  (∀ b (s : State), s.slotError b true = 7) ∧
  (∀ a b failed s, s.fw.stage ≠ 0 ∨ s.mayBoot = false ∨ ((s.clk.xtalOk = false ∨ s.clk.iodLock = false) ∧ s.fw.rcOnly = false) → exec (.firstStageStart a b failed) s = .next s) ∧
  ∀ s : State, s.mayBoot = (!(s.side.level ||| s.side.chatter).getLsbD 0 && s.side.railsGood && !s.side.vinOff)

/-- FIRMWARE_READY (R41, R144, R383, R385, R395, R424): from stage 2, with the tiles of every die released, READY is set, STAGE is 3 and TRIES 3; at a boot from the preferred slot the rollback fuses rise to the image's own SVN and never fall;
on the RC oscillator alone nothing of it happens. -/
def Claim.FirmwareReady : Prop :=
  (∀ s, s.fw.stage = 2 → s.fw.rcOnly = false → (∀ d, d < 4 → (s.dieAt d).released = true ∨ (s.dieAt d).heldReset = true) →
    ∃ t, exec .firmwareReady s = .next t ∧ t.fw.ready = true ∧ t.fw.stage = 3 ∧ t.fw.boot.tries = 3 ∧ t.fw.boot.preferred = s.fw.boot.preferred ∧ t.mem = s.mem ∧ t.tile = s.tile ∧ t.port = s.port ∧
      (∀ i, s.fw.image s.fw.slot = some i → s.fw.fallback = false → i.svn ≤ 64 → t.fw.rb = max s.fw.rb i.svn) ∧
      (s.fw.fallback = true ∨ s.fw.image s.fw.slot = none → t.fw.rb = s.fw.rb)) ∧
  ∀ s, s.fw.stage ≠ 2 ∨ s.fw.rcOnly = true ∨ (∃ d, d < 4 ∧ (s.dieAt d).released = false ∧ (s.dieAt d).heldReset = false) → exec .firmwareReady s = .next s

/-- Cold resets, hardened inputs, boot. The whole of what its parts say.
Model's choices it rests on: log 53, 54, 97. -/
def Obligations.ColdResets : Prop :=
  Claim.ColdResets ∧ Claim.HardenedInputs ∧ Claim.FirstStages ∧ Claim.FirmwareReady

/-- THROTTLE_ASSERT, THROTTLE_RELEASE, THROTTLE_HELD_TIMER, VIN_LOW, VIN_LOW_END, OVERCURRENT_CLAMP, OVERCURRENT_HOLD_END (R437, R439, R450): an assertion brings every column rail to 0.60 V and
its cause is set; while it lasts no step of the loop moves a rail; a long hold's crumbs carry its time, and a release leaves the cause. -/
def Claim.RailFloors : Prop :=
  (∀ s, ∃ t, exec .throttleAssert s = .next t ∧ t.throttled = true ∧ t.pwr.throttleCause = true ∧ (∀ d c, t.railSet d c = 0) ∧ t.mem = s.mem ∧ t.tile = s.tile ∧ t.part = s.part ∧ t.crumb = s.crumb) ∧
  (∀ ms s, s.side.level.getLsbD 1 = true → ∃ t, exec (.throttleRelease ms) s = .next t ∧ t.side.level.getLsbD 1 = false ∧ t.pwr = s.pwr ∧ t.tile = s.tile ∧
    (ms < 1000 → t.crumb = s.crumb ∧ t.fw = s.fw) ∧
    (1000 ≤ ms → s.firmwareRuns = false → t.fw.due = s.fw.due ++ [{ cls := 0, syn := 0x090E, unit := uPackage, keys := [(10, .u ms)] }]) ∧
    (1000 ≤ ms → s.firmwareRuns = true → s.crumb.coalesce = [] → t.crumb.ctr = s.crumb.ctr + 1)) ∧
  (∀ ms s, s.side.level.getLsbD 1 = false → exec (.throttleRelease ms) s = .next s ∧ exec .throttleHeldTimer s = .next s) ∧
  (∀ s, s.side.level.getLsbD 1 = true → exec .throttleHeldTimer s = .next (s.crumbDue 0 0x090E uPackage [(10, .u 0)])) ∧
  (∀ s, s.side.vinLow = false → ∃ t, exec .vinLow s = .next t ∧ t.side.vinLow = true ∧ t.pwr.vinCause = true ∧ (∀ d c, t.railSet d c = 0) ∧ t.mem = s.mem ∧ t.tile = s.tile ∧
    (s.firmwareRuns = true → s.crumb.coalesce = [] → t.crumb.ctr = s.crumb.ctr + 1)) ∧
  (∀ s, s.side.vinLow = true → exec .vinLow s = .next s) ∧
  (∀ ms s, s.side.vinLow = true → ∃ t, exec (.vinLowEnd ms) s = .next t ∧ t.side.vinLow = false ∧ t.pwr = s.pwr ∧ t.tile = s.tile ∧ (ms ≤ 1000 → t.crumb = s.crumb ∧ t.fw = s.fw) ∧
    (1000 < ms → s.firmwareRuns = false → t.fw.due = s.fw.due ++ [{ cls := 0, syn := 0x0A01, unit := uPackage, keys := [(10, .u ms)] }])) ∧
  (∀ ms s, s.side.vinLow = false → exec (.vinLowEnd ms) s = .next s) ∧
  (∀ s, ∃ t, exec .overcurrentClamp s = .next t ∧ t.pwr.overHold = true ∧ t.pwr.limitCause = true ∧ (∀ d c, t.railSet d c = 0) ∧ t.mem = s.mem ∧ t.tile = s.tile ∧ t.part = s.part) ∧
  (∀ s, ∃ t, exec .overcurrentHoldEnd s = .next t ∧ t = { s with pwr := { s.pwr with overHold := false } }) ∧
  ∀ a b s, s.throttled = true ∨ s.side.vinLow = true ∨ s.pwr.overHold = true → ∃ t, exec (.powerLoopStep a b) s = .next t ∧ ∀ d c, t.railSet d c = s.railSet d c

/-- POWER_LOOP_STEP and PACE_WINDOW (R437, R441): with no input holding the rails, a 1 ms mean above 0.97 × limit or a 100 µs mean above 1.05 × limit lowers every rail by 10 mV (to 0.60 V at
most); else the tenth step in a row with the 1 ms mean below 0.94 × limit raises every rail by 5 mV, up to the rated voltage, where the causes that have ended are cleared. A 10 s window
paced for over half by the limit emits its crumb. -/
def Claim.PowerLoop : Prop :=
  (∀ a b s, s.throttled = false → s.side.vinLow = false → s.pwr.overHold = false →
    let p := s.pwr
    ∃ t, exec (.powerLoopStep a b) s = .next t ∧ t = { s with pwr := t.pwr } ∧ t.pwr.pinW = a ∧
      (97 * s.limitW < 100 * a ∨ 105 * s.limitW < 100 * b → p.offset ≤ ratedSet →
        (∀ d c, t.railSet d c = s.railSet d c - 4) ∧ t.pwr.lowTicks = 0 ∧ (p.offset < ratedSet → t.pwr.limitCause = true)) ∧
      (100 * a ≤ 97 * s.limitW → 100 * b ≤ 105 * s.limitW → 94 * s.limitW ≤ 100 * a → t.pwr = { p with pinW := a, lowTicks := 0 }) ∧
      (100 * b ≤ 105 * s.limitW → 100 * a < 94 * s.limitW → p.lowTicks < 9 → t.pwr = { p with pinW := a, lowTicks := p.lowTicks + 1 }) ∧
      (100 * b ≤ 105 * s.limitW → 100 * a < 94 * s.limitW → 9 ≤ p.lowTicks →
        t.pwr.offset = p.offset - 2 ∧ t.pwr.lowTicks = 0 ∧
        (p.offset ≤ 2 → t.pwr.limitCause = false ∧ t.pwr.throttleCause = false ∧ t.pwr.vinCause = false) ∧
        (2 < p.offset → t.pwr.limitCause = p.limitCause ∧ t.pwr.throttleCause = p.throttleCause ∧ t.pwr.vinCause = p.vinCause))) ∧
  (∀ s, ∃ t, exec .paceWindow s = .next t ∧ t.pwr = { s.pwr with paceTicks := 0 } ∧ t.mem = s.mem ∧ t.tile = s.tile ∧ t.part = s.part ∧
    (s.pwr.paceTicks ≤ 500000000 → t.crumb = s.crumb ∧ t.fw = s.fw) ∧
    (500000000 < s.pwr.paceTicks → s.firmwareRuns = true → s.crumb.coalesce = [] → t.crumb.ctr = s.crumb.ctr + 1)) ∧
  ∀ s : State, s.limitW = if s.fw.config.power = 0 then gradeLimit else min s.fw.config.power.toNat gradeLimit

/-- THERMAL_PACE_STEP and THERMAL_WITHDRAW_STEP (R436, R438, R441): from 90 °C until 88 °C an ACTIVE tile's trim falls by 5 mV, to −16 or to where its voltage stands at 0.60 V, then its column's
thermal offset rises by 5 mV, with PWR_THERMAL as it leaves zero; a column whose tiles all read 88 °C or less loses 5 mV of it, and with none left an ACTIVE tile at 88 °C or less regains 5 mV of
its trim, up to its first one. -/
def Claim.ThermalPacing : Prop :=
  (∀ d m tj s, d < 4 → m < 156 →
    let g := 156 * d + m
    let c := m % 13
    let p := s.ptileAt g
    ∃ t, exec (.thermalPaceStep d m tj) s = .next t ∧ (t.ptileAt g).tj = tj ∧ t.mem = s.mem ∧ t.tile = s.tile ∧ t.part = s.part ∧ (∀ k, k ≠ g → t.ptileAt k = s.ptileAt k) ∧
      (∀ d' c', (d', c') ≠ (d, c) → t.railTherm d' c' = s.railTherm d' c') ∧
      (p.state ≠ .active ∨ tj ≤ 88 ∨ (tj < 90 ∧ p.lowering = false) → (t.ptileAt g).vtrim = p.vtrim ∧ (t.ptileAt g).lowering = false ∧ t.railTherm d c = s.railTherm d c) ∧
      (p.state = .active → 90 ≤ tj ∨ (p.lowering = true ∧ 88 < tj) → (t.ptileAt g).lowering = true ∧
        (-16 < p.vtrim → 0 < (s.railSet d c : Int) + 2 * p.vtrim →
          (t.ptileAt g).vtrim = p.vtrim - 1 ∧ (t.ptileAt g).trimBase = some (p.trimBase.getD p.vtrim) ∧ t.railTherm d c = s.railTherm d c) ∧
        (p.vtrim ≤ -16 ∨ (s.railSet d c : Int) + 2 * p.vtrim ≤ 0 → (t.ptileAt g).vtrim = p.vtrim ∧
          (s.railSet d c ≠ 0 → t.railTherm d c = s.railTherm d c + 2 ∧ (s.railTherm d c ≠ 0 → t.crumb = s.crumb) ∧
            (s.railTherm d c = 0 → s.firmwareRuns = true → s.crumb.coalesce = [] → t.crumb.ctr = s.crumb.ctr + 1)) ∧
          (s.railSet d c = 0 → t.railTherm d c = s.railTherm d c)))) ∧
  ∀ d c tjs s, d < 4 → c < 13 → (∀ x ∈ tjs, x.1 < 156 ∧ x.1 % 13 = c) → tjs.Pairwise (fun x y => x.1 ≠ y.1) →
    let rd := fun (r : Nat) => match tjs.find? (fun x => decide (x.1 = 13 * r + c)) with | some x => x.2 | none => (s.ptileAt (156 * d + 13 * r + c)).tj
    ∃ t, exec (.thermalWithdrawStep d c tjs) s = .next t ∧ t.mem = s.mem ∧ t.tile = s.tile ∧ t.part = s.part ∧
      (∀ d' c', (d', c') ≠ (d, c) → t.railTherm d' c' = s.railTherm d' c') ∧
      (∀ r, r < 12 → (t.ptileAt (156 * d + 13 * r + c)).tj = rd r) ∧
      (0 < s.railTherm d c → (∀ r, r < 12 → rd r ≤ 88) → t.railTherm d c = s.railTherm d c - 2) ∧
      (0 < s.railTherm d c → (∃ r, r < 12 ∧ 88 < rd r) → t.railTherm d c = s.railTherm d c) ∧
      ∀ r, r < 12 →
        let p := s.ptileAt (156 * d + 13 * r + c)
        let q := t.ptileAt (156 * d + 13 * r + c)
        q.state = p.state ∧ (0 < s.railTherm d c ∨ p.trimBase = none ∨ p.state ≠ .active ∨ 88 < rd r → q.vtrim = p.vtrim ∧ q.trimBase = p.trimBase) ∧
        ∀ b, s.railTherm d c = 0 → p.state = .active → p.trimBase = some b → rd r ≤ 88 →
          (p.vtrim + 1 < b → q.vtrim = p.vtrim + 1 ∧ q.trimBase = some b) ∧ (b ≤ p.vtrim + 1 → q.vtrim = b ∧ q.trimBase = none)

/-- PWR_THERMTRIP, OE_HOT, TELEM_UPDATE (R438, R451, R459, R469): 98 °C on a tile asserts THERMTRIP_N and puts a C3 record first in the queue, once; an optical engine at 85 °C or more emits
OE_HOT; telemetry takes what was measured. -/
def Claim.SensorsRead : Prop :=
  (∀ d m tj s, d < 4 → m < 156 →
    (98 ≤ tj → ∃ t, exec (.pwrThermtrip d m tj) s = .next t ∧ t.side.thermtrip = true ∧ (t.ptileAt (156 * d + m)).tj = tj ∧ t.mem = s.mem ∧ t.tile = s.tile ∧
      (s.side.thermtrip = false → ∃ r, t.crumb.errQ = r :: s.crumb.errQ ∧ r.cls = 3 ∧ r.syn = 0x090D) ∧ (s.side.thermtrip = true → t.crumb = s.crumb)) ∧
    (tj < 98 → exec (.pwrThermtrip d m tj) s = .next s)) ∧
  (∀ k temp s, k < 16 → ∃ t, exec (.oeHot k temp) s = .next t ∧ t.laserAt k = { s.laserAt k with temp := temp } ∧ (∀ j, j ≠ k → t.laserAt j = s.laserAt j) ∧ t.mem = s.mem ∧ t.port = s.port ∧
    (temp < 85 → t.crumb = s.crumb ∧ t.fw = s.fw) ∧
    (85 ≤ temp → s.firmwareRuns = false → t.fw.due = s.fw.due ++ [{ cls := 0, syn := 0x0A07, unit := uOe k, keys := [(10, .u temp)] }])) ∧
  ∀ a b c e p s, ∃ t, exec (.telemUpdate a b c e p) s = .next t ∧
    t = { s with side := { s.side with vinMv := a, vinDa := b, vauxMv := c, vauxMa := e }, pwr := { s.pwr with pinW := p } }

/-- LASER_LIT and LASER_DARK (R261, R276, R467, Table 11-16): an input at or above +16.0 dBm is lit and its two ports that are DOWN for want of light train; one below +15.0 dBm is
dark and both its ports, unless disabled or in a dark period, are DOWN with NO_LIGHT, but one that waits for a port reset keeps its reason; no other port changes. -/
def Claim.LaserInputs : Prop :=
  (∀ k i pw s, k < 16 → i < 2 → (160 : Int) ≤ pw →
    ∃ t, exec (.laserLit k i pw) s = .next t ∧ t.mem = s.mem ∧ t.tile = s.tile ∧ (∀ j, j ≠ k → t.laserAt j = s.laserAt j) ∧
      (∀ n, n = 4 * k + 2 * i ∨ n = 4 * k + 2 * i + 1 → t.litAt n = true ∧
        ((s.portAt n).state = .down → (s.portAt n).reason = 1 → s.firmwareRuns = true → (t.portAt n).state = .train ∧ (t.portAt n).fullTrain = true) ∧
        ((s.portAt n).state ≠ .down ∨ (s.portAt n).reason ≠ 1 ∨ s.firmwareRuns = false → t.portAt n = s.portAt n)) ∧
      ∀ n, n ≠ 4 * k + 2 * i → n ≠ 4 * k + 2 * i + 1 → t.portAt n = s.portAt n) ∧
  (∀ k i pw s, k < 16 → i < 2 → pw < (150 : Int) →
    ∃ t, exec (.laserDark k i pw) s = .next t ∧ t.mem = s.mem ∧ (∀ j, j ≠ k → t.laserAt j = s.laserAt j) ∧
      (∀ n, n = 4 * k + 2 * i ∨ n = 4 * k + 2 * i + 1 → t.litAt n = false ∧
        ((s.portAt n).state = .disabled ∨ (s.portAt n).state = .dark → t.portAt n = s.portAt n) ∧
        ((s.portAt n).state ≠ .disabled → (s.portAt n).state ≠ .dark → (t.portAt n).state = .down ∧
          (t.portAt n).reason = if (s.portAt n).state = .down ∧ ((s.portAt n).reason = 8 ∨ (s.portAt n).reason = 9) then (s.portAt n).reason else 1)) ∧
      ∀ n, n ≠ 4 * k + 2 * i → n ≠ 4 * k + 2 * i + 1 → t.portAt n = s.portAt n) ∧
  (∀ k i pw s, k < 16 → i < 2 → pw < (160 : Int) → exec (.laserLit k i pw) s = .next s) ∧
  ∀ k i pw s, k < 16 → i < 2 → (150 : Int) ≤ pw → exec (.laserDark k i pw) s = .next s

/-- Rails, power, thermal pacing, sensors, lasers. The whole of what its parts say.
Model's choices it rests on: log 48, 49, 51. -/
def Obligations.PowerAndLight : Prop :=
  Claim.RailFloors ∧ Claim.PowerLoop ∧ Claim.ThermalPacing ∧ Claim.SensorsRead ∧ Claim.LaserInputs

/-- CRYSTAL_EDGE_MISSING, CRYSTAL_STABLE, CLK_XTAL_FAIL (R423, R424): until the crystal is stable each alarm counts one restart, saturating at 255; 131,072 crystal cycles that took 1,006,633 to
1,090,519 RC cycles make it stable, unless the judge has counted 20,000,000; a failure sets RC_ONLY with a C3 record, and leaves the judge at its end. -/
def Claim.CrystalJudged : Prop :=
  (∀ n s, s.clk.xtalOk = false → s.fw.rcOnly = false →
    (∃ t, exec (.crystalEdgeMissing n) s = .next t ∧ t = { s with clk := { s.clk with restarts := min 255 (s.clk.restarts + 1), rcCount := min 20000000 (s.clk.rcCount + n) } }) ∧
    (s.clk.rcCount < 20000000 → ∃ t, exec (.crystalStable n) s = .next t ∧ t = { s with clk := t.clk } ∧
      (t.clk.xtalOk = true ↔ 1006633 ≤ n ∧ n ≤ 1090519) ∧ t.clk.rcCount = min 20000000 (s.clk.rcCount + n) ∧ t.clk.restarts = s.clk.restarts) ∧
    (20000000 ≤ s.clk.rcCount → exec (.crystalStable n) s = .next s) ∧
    ∃ t, exec .clkXtalFail s = .next t ∧ t.fw.rcOnly = true ∧ t.clk.xtalOk = false ∧ t.clk.rcCount = 20000000 ∧ t.mem = s.mem ∧ t.tile = s.tile ∧
      ∃ r, t.crumb.errQ = r :: s.crumb.errQ ∧ r.cls = 3 ∧ r.syn = 0x0907) ∧
  ∀ n s, s.clk.xtalOk = true ∨ s.fw.rcOnly = true → exec (.crystalEdgeMissing n) s = .next s ∧ exec (.crystalStable n) s = .next s ∧ exec .clkXtalFail s = .next s

/-- PLL_LOCK, CLK_XTAL_LOST, HOLDOVER_END, CLK_PLL_UNLOCK (R419, R425, R427, R430): the IOD reference PLL locks once the crystal is stable and SCLK leaves the RC oscillator; a compute die's PLL locks to it; a
lost crystal starts hold-over with SCLK on the RC oscillator, RC_ONLY and a C3 record; at its end, without an ACTIVE anchor port as reference, every trained or training port is DOWN with
NO_SIGNAL; the loss of a die's lock holds the die in reset, with a record and its stacks fenced; of the IOD PLL's is C3. -/
def Claim.PllEvents : Prop :=
  (∀ s, s.clk.xtalOk = true → s.fw.rcOnly = false → ∃ t, exec (.pllLock 4) s = .next t ∧ t = { s with clk := { s.clk with iodLock := true, sclkRc := false } }) ∧
  (∀ d s, d < 4 → s.clk.iodLock = true → (s.dieAt d).heldReset = false → s.pwr.state ≠ .deep → s.pwr.state ≠ .deepExit →
    ∃ t, exec (.pllLock d) s = .next t ∧ t = { s with die := t.die } ∧ t.dieAt d = { s.dieAt d with pllLock := true } ∧ ∀ e, e ≠ d → t.dieAt e = s.dieAt e) ∧
  (∀ s, s.clk.xtalOk = false ∨ s.fw.rcOnly = true → exec (.pllLock 4) s = .next s) ∧
  (∀ d s, d < 4 → s.clk.iodLock = false ∨ (s.dieAt d).heldReset = true → exec (.pllLock d) s = .next s) ∧
  (∀ s, s.clk.xtalOk = true → s.clk.iodLock = true → s.fw.rcOnly = false →
    ∃ t, exec .clkXtalLost s = .next t ∧ t.clk = { s.clk with hold := true, sclkRc := true } ∧ t.fw.rcOnly = true ∧ t.port = s.port ∧ t.mem = s.mem ∧ t.tile = s.tile ∧
      ∃ r, t.crumb.errQ = r :: s.crumb.errQ ∧ r.cls = 3 ∧ r.syn = 0x0908) ∧
  (∀ s, s.clk.xtalOk = false ∨ s.clk.iodLock = false ∨ s.fw.rcOnly = true → exec .clkXtalLost s = .next s) ∧
  (∀ s, s.clk.hold = true →
    ((s.clk.fabref = 0 ∨ ∀ n, n < 64 → (s.portAt n).anchor = false ∨ (s.portAt n).state ≠ .active) →
      ∃ t, exec .holdoverEnd s = .next t ∧ t.clk = { s.clk with hold := false } ∧ t.mem = s.mem ∧
        ∀ n, n < 64 → ((s.portAt n).trained = true ∨ (s.portAt n).state = .retrain ∨ (s.portAt n).state = .train → (t.portAt n).state = .down ∧ (t.portAt n).reason = 2) ∧
          ((s.portAt n).state = .disabled ∨ (s.portAt n).state = .down ∨ (s.portAt n).state = .dark → t.portAt n = s.portAt n)) ∧
    (s.clk.fabref ≠ 0 → (∃ n, n < 64 ∧ (s.portAt n).anchor = true ∧ (s.portAt n).state = .active) →
      ∃ t, exec .holdoverEnd s = .next t ∧ t = { s with clk := { s.clk with hold := false } })) ∧
  (∀ s, s.clk.hold = false → exec .holdoverEnd s = .next s) ∧
  (∀ d s, d < 4 → (s.dieAt d).pllLock = true →
    ∃ t, exec (.clkPllUnlock d) s = .next t ∧ (t.dieAt d).pllLock = false ∧ (t.dieAt d).heldReset = true ∧
      (∀ l, l < 3 → (t.stackAt (3 * d + l)).fenced = true ∧ (t.engineAt (3 * d + l)).fenced = true) ∧
      (∀ k, k < 144 → (s.physOf (144 * d + k)).isSome = true → (t.tileAt (144 * d + k)).absent = true ∧ ∀ st, (t.streamAt (144 * d + k) st).run = false)) ∧
  (∀ d s, d < 4 → (s.dieAt d).pllLock = false → exec (.clkPllUnlock d) s = .next s) ∧
  (∀ s, s.clk.iodLock = true → ∃ t, exec (.clkPllUnlock 4) s = .next t ∧ t.clk = { s.clk with iodLock := false } ∧ t.mem = s.mem ∧ t.tile = s.tile ∧
    ∃ r, t.crumb.errQ = r :: s.crumb.errQ ∧ r.cls = 3 ∧ r.syn = 0x0909) ∧
  ∀ s, s.clk.iodLock = false → exec (.clkPllUnlock 4) s = .next s

/-- REFERENCE_TICK (R138, R140, R141, R379, R382, R425, R432, R441): a compute die's tick counts REFTICK and, outside sleep, one idle tick of its cause on each tile whose array takes in no wave and no fill row, one wait
tick on each stream that waits or has no program (HOST), and touches nothing else of the tile's streams; the IOD's counts REFTICK, each pacing cause that holds while a tile is ACTIVE, time in
sleep and deep sleep, and every 100,000 ticks a millisecond of each running lease, outside a handoff window. Without the IOD reference nothing counts. -/
def Claim.Ticks : Prop :=
  (∀ d s, d < 4 → s.clk.iodLock = true → (s.dieAt d).heldReset = false →
    ∃ t, exec (.referenceTick d) s = .next t ∧ (t.dieAt d).refTick = (s.dieAt d).refTick + 1 ∧ t.mem = s.mem ∧ t.part = s.part ∧ t.refTick = s.refTick ∧
      (∀ n, n / 144 ≠ d → t.tileAt n = s.tileAt n) ∧
      (s.pwr.state = .sleep ∨ s.pwr.state = .deep → t.tile = s.tile) ∧
      (s.pwr.state = .run → ∀ k, k < 144 →
        let n := 144 * d + k
        let x := s.tileAt n
        let y := t.tileAt n
        let mig := (s.tmapAt n).migrating
        (s.physOf n = none → y = x) ∧
        (s.physOf n ≠ none →
          y.str = x.str ∧ y.array = x.array ∧ y.ls = x.ls ∧ y.vreg = x.vreg ∧ y.bank = x.bank ∧
          ((∀ m ∈ x.array, m.entered = true) ∨ x.held ≠ none → ∀ c, c < 8 → Map.get 0 y.idle c = if c = (x.idleCause mig).code then min max48 (Map.get 0 x.idle c + 1) else Map.get 0 x.idle c) ∧
          ((∃ m ∈ x.array, m.entered = false) → x.held = none → ∀ c, c ≠ Cause.pace.code → Map.get 0 y.idle c = Map.get 0 x.idle c) ∧
          ∀ st c, c < 8 → c ≠ Cause.pace.code →
            Map.get 0 y.wait (8 * st.code + c) =
              if ((x.streamAt st).run = false ∧ c = Cause.host.code) ∨ ((x.streamAt st).run = true ∧ ∃ w, x.waitCause mig st = some w ∧ w.code = c) then
                min max48 (Map.get 0 x.wait (8 * st.code + c) + 1)
              else Map.get 0 x.wait (8 * st.code + c)))) ∧
  (∀ s, s.clk.iodLock = true →
    let on := s.ptile.any fun e => e.2.state == .active
    ∃ t, exec (.referenceTick 4) s = .next t ∧ t.refTick = s.refTick + 1 ∧ t.mem = s.mem ∧ t.tile = s.tile ∧
      (∀ c, Map.get 0 t.pwr.pace c =
        if (c = 0 ∧ on = true ∧ s.pwr.limitCause = true) ∨ (c = 1 ∧ on = true ∧ s.thermalCause = true) ∨ (c = 2 ∧ on = true ∧ s.pwr.throttleCause = true) ∨
          (c = 3 ∧ on = true ∧ s.pwr.vinCause = true) ∨ (c = 4 ∧ s.pwr.state = .sleep) ∨ (c = 5 ∧ s.pwr.state = .deep) then min max48 (Map.get 0 s.pwr.pace c + 1)
        else Map.get 0 s.pwr.pace c) ∧
      (t.refTick.toNat % 100000 ≠ 0 ∨ s.fw.handoff = true → t.part = s.part) ∧
      (t.refTick.toNat % 100000 = 0 → s.fw.handoff = false → ∀ p, (t.partAt p).leaseLeft =
        (if (s.partAt p).valid = true ∧ (s.partAt p).leaseOn = true ∧ (s.partAt p).leaseLeft ≠ 0 then (s.partAt p).leaseLeft - 1 else (s.partAt p).leaseLeft) ∧
        (t.partAt p).state = (s.partAt p).state)) ∧
  ∀ d s, d ≤ 4 → s.clk.iodLock = false ∨ (d < 4 ∧ (s.dieAt d).heldReset = true) → exec (.referenceTick d) s = .next s

/-- Crystal, PLLs, reference ticks. The whole of what its parts say.
Model's choices it rests on: log 53, 63, 70. -/
def Obligations.Clocks : Prop :=
  Claim.CrystalJudged ∧ Claim.PllEvents ∧ Claim.Ticks

/-- A step runs the command at the front of the queue on the state with the queue's rest; on an empty queue the block idles (the model's choice, log 1).
Model's choices it rests on: log 1. -/
def Obligations.StepRunsFront : Prop :=
  (∀ c q (s : State), step { s with pending := c :: q } = exec c { s with pending := q }) ∧ ∀ s : State, s.pending = [] → step s = .next s

/-- Right after reset nothing waits and nothing has left, memory lists nothing and is in canonical form, the package is in run and boot stage 0 with READY 0, SLEW and the branch slots at their
reset values, counters at 0, no stream runs and no partition is valid.
Model's choices it rests on: log 2, 3, 4. -/
def Obligations.ResetHolds : Prop :=
  let s := State.reset
  s.pending = [] ∧ s.outbox = [] ∧ s.memoryWf ∧ s.mem = [] ∧ s.pwr.state = .run ∧ s.fw.stage = 0 ∧ s.fw.ready = false ∧ s.side.slew = 3 ∧ s.refTick = 0 ∧ s.crumb.ctr = 0 ∧ s.ops = [] ∧
    (∀ n st, (s.streamAt n st).run = false ∧ (s.streamAt n st).brew.phase = .idle ∧ ∀ r, (s.streamAt n st).readS r = 0) ∧ (∀ n, (s.tileAt n).slots = 0x24) ∧
    (∀ p, (s.partAt p).valid = false ∧ (s.partAt p).lease = 100 ∧ (s.partAt p).pctrl = 0xE802 ∧ (s.partAt p).action = true) ∧
    (∀ n, (s.portAt n).state = .disabled) ∧ ∀ n, (s.ptileAt n).rowSkip0 = 0xFF ∧ (s.ptileAt n).colSkip0 = 0xFF

/-- Every command whose unit indices are in range is answered with a next state, whatever the state, and no command is refused.
Model's choices it rests on: log 11. -/
def Obligations.CommandsComplete : Prop :=
  (∀ (c : Instr) s, c.wf = true → ∃ t, exec c s = .next t) ∧ ∀ (c : Instr) s r, exec c s ≠ .refused r

/-- Package memory keeps its canonical form under every step: addresses strictly rising, and no entry that reads as an unlisted address does.
Model's choices it rests on: log 4. -/
def Obligations.MemoryCanonical : Prop := ∀ s t : State, s.memoryWf → step s = .next t → t.memoryWf
end

