-- ==== Sys2Proof/Laws/Map.lean ====
section
/-! SUPPORT. Laws of the sparse storage: a read after a write gives the value written, a write leaves every other index alone (both with no
premise on the form), and every write keeps the canonical form. -/

namespace Sys2Proof.Laws

open Sys2Proof.Machine

section Get
variable {α : Type} {d : α}

@[simp] theorem Map.get_nil (k : Nat) : Map.get d ([] : Map α) k = d := rfl

theorem Map.get_erase (m : Map α) (k j : Nat) : (Map.erase m k).get d j = if j = k then d else m.get d j := by
  induction m with
  | nil => simp [Map.erase]
  | cons e m ih =>
    obtain ⟨i, w⟩ := e
    by_cases h1 : i = k
    · subst h1
      by_cases hj : j = i
      · subst hj; simpa [Map.erase] using ih
      · have h' : ¬ i = j := fun e => hj e.symm
        simpa [Map.erase, Map.get, h', hj] using ih
    · by_cases hj : i = j
      · subst hj; simp [Map.erase, Map.get, h1]
      · simp [Map.erase, Map.get, h1, hj, ih]

theorem Map.get_place_of_ne (m : Map α) (k : Nat) (v : α) (j : Nat) (h : j ≠ k) :
    (Map.place m k v).get d j = m.get d j := by
  induction m with
  | nil => simp [Map.place, Map.get, Ne.symm h]
  | cons e m ih =>
    obtain ⟨i, w⟩ := e
    by_cases h1 : k < i
    · simp [Map.place, Map.get, h1, Ne.symm h]
    · simp [Map.place, Map.get, h1, ih]

theorem Map.get_place_erase (m : Map α) (k : Nat) (v : α) : (Map.place (Map.erase m k) k v).get d k = v := by
  induction m with
  | nil => simp [Map.erase, Map.place, Map.get]
  | cons e m ih =>
    obtain ⟨i, w⟩ := e
    by_cases h1 : i = k
    · simpa [Map.erase, h1] using ih
    · by_cases h2 : k < i
      · simp [Map.erase, h1, Map.place, h2, Map.get]
      · simp [Map.erase, h1, Map.place, h2, Map.get, ih]

end Get

section Put
variable {α : Type} [DecidableEq α] {d : α}

/-- A read after a write: the value written at its index, the old value elsewhere. -/
theorem Map.get_put (m : Map α) (k : Nat) (v : α) (j : Nat) :
    (m.put d k v).get d j = if j = k then v else m.get d j := by
  unfold Map.put
  split
  · rename_i hv; rw [Map.get_erase, hv]
  · by_cases h : j = k
    · subst h; rw [if_pos rfl, Map.get_place_erase]
    · rw [if_neg h, Map.get_place_of_ne _ _ _ _ h, Map.get_erase, if_neg h]

@[simp] theorem Map.get_put_same (m : Map α) (k : Nat) (v : α) : (m.put d k v).get d k = v := by
  rw [Map.get_put, if_pos rfl]

theorem Map.get_put_ne (m : Map α) {k j : Nat} (v : α) (h : j ≠ k) : (m.put d k v).get d j = m.get d j := by
  rw [Map.get_put, if_neg h]

theorem Map.get_upd (m : Map α) (k : Nat) (f : α → α) (j : Nat) :
    (m.upd d k f).get d j = if j = k then f (m.get d k) else m.get d j :=
  Map.get_put m k _ j

@[simp] theorem Map.get_upd_same (m : Map α) (k : Nat) (f : α → α) : (m.upd d k f).get d k = f (m.get d k) := by
  rw [Map.get_upd, if_pos rfl]

theorem Map.get_upd_ne (m : Map α) {k j : Nat} (f : α → α) (h : j ≠ k) : (m.upd d k f).get d j = m.get d j := by
  rw [Map.get_upd, if_neg h]

/-- A read outside the written range is the old value; inside, the value written. -/
theorem Map.get_putRange (vs : List α) : ∀ (m : Map α) (k j : Nat),
    (m.putRange d k vs).get d j = if k ≤ j ∧ j < k + vs.length then vs.getD (j - k) d else m.get d j := by
  induction vs with
  | nil =>
    intro m k j
    rw [Map.putRange, if_neg (by simp only [List.length_nil]; omega)]
  | cons v vs ih =>
    intro m k j
    rw [Map.putRange, ih, Map.get_put]
    simp only [List.length_cons]
    by_cases h1 : k + 1 ≤ j ∧ j < k + 1 + vs.length
    · rw [if_pos h1, if_pos (by omega)]
      have : j - k = (j - (k + 1)) + 1 := by omega
      rw [this, List.getD_cons_succ]
    · rw [if_neg h1]
      by_cases h2 : j = k
      · subst h2; simp
      · rw [if_neg h2, if_neg (by omega)]

theorem Map.wfFrom_mono (m : Map α) : ∀ {lo hi : Nat}, Map.wfFrom d hi m = true → lo ≤ hi → Map.wfFrom d lo m = true := by
  cases m with
  | nil => intros; rfl
  | cons e m =>
    intro lo hi h hl
    simp only [Map.wfFrom, Bool.and_eq_true, decide_eq_true_eq] at h ⊢
    exact ⟨⟨by omega, h.1.2⟩, h.2⟩

/-- Erasing keeps the form, and nothing of index `k` is left. -/
theorem Map.wfFrom_erase (m : Map α) (k : Nat) : ∀ {lo : Nat}, Map.wfFrom d lo m = true →
    Map.wfFrom d lo (Map.erase m k) = true ∧ ∀ e ∈ Map.erase m k, e.1 ≠ k := by
  induction m with
  | nil => intro lo h; exact ⟨h, by simp [Map.erase]⟩
  | cons e m ih =>
    obtain ⟨i, w⟩ := e
    intro lo h
    simp only [Map.wfFrom, Bool.and_eq_true, decide_eq_true_eq] at h
    simp only [Map.erase]
    split
    · exact ⟨Map.wfFrom_mono _ (ih h.2).1 (by omega), (ih h.2).2⟩
    · rename_i h1
      refine ⟨?_, ?_⟩
      · simp only [Map.wfFrom, Bool.and_eq_true, decide_eq_true_eq]
        exact ⟨h.1, (ih h.2).1⟩
      · intro e he
        rcases List.mem_cons.mp he with rfl | he
        · exact h1
        · exact (ih h.2).2 e he

theorem Map.wfFrom_place (m : Map α) (k : Nat) (v : α) (hv : v ≠ d) : ∀ {lo : Nat}, lo ≤ k → Map.wfFrom d lo m = true →
    (∀ e ∈ m, e.1 ≠ k) → Map.wfFrom d lo (Map.place m k v) = true := by
  induction m with
  | nil => intro lo hl _ _; simp [Map.place, Map.wfFrom, hl, hv]
  | cons e m ih =>
    obtain ⟨i, w⟩ := e
    intro lo hl h hne
    simp only [Map.wfFrom, Bool.and_eq_true, decide_eq_true_eq] at h
    have hik : i ≠ k := hne (i, w) List.mem_cons_self
    simp only [Map.place]
    split
    · have hw : ¬ w = d := by simpa using h.1.2
      have : k + 1 ≤ i := by omega
      simp [Map.wfFrom, hl, hv, h.2, this, hw]
    · simp only [Map.wfFrom, Bool.and_eq_true, decide_eq_true_eq]
      exact ⟨h.1, ih (by omega) h.2 (fun e he => hne e (List.mem_cons_of_mem _ he))⟩

/-- Every write keeps the canonical form. -/
theorem Map.wf_put {m : Map α} (h : Map.wf d m = true) (k : Nat) (v : α) : Map.wf d (m.put d k v) = true := by
  have he := Map.wfFrom_erase m k (lo := 0) h
  unfold Map.put
  split
  · exact he.1
  · rename_i hv; exact Map.wfFrom_place _ k v hv (Nat.zero_le k) he.1 he.2

theorem Map.wf_upd {m : Map α} (h : Map.wf d m = true) (k : Nat) (f : α → α) : Map.wf d (m.upd d k f) = true :=
  Map.wf_put h k _

theorem Map.wf_putRange (vs : List α) : ∀ {m : Map α} (k : Nat), Map.wf d m = true → Map.wf d (m.putRange d k vs) = true := by
  induction vs with
  | nil => intro m k h; exact h
  | cons v vs ih => intro m k h; exact ih (k + 1) (Map.wf_put h k v)

/-- Dropping entries keeps the canonical form. -/
theorem Map.wfFrom_restrict (m : Map α) (keep : Nat → Bool) : ∀ {lo : Nat}, Map.wfFrom d lo m = true →
    Map.wfFrom d lo (Map.restrict m keep) = true := by
  induction m with
  | nil => intros; rfl
  | cons e m ih =>
    obtain ⟨i, w⟩ := e
    intro lo h
    simp only [Map.wfFrom, Bool.and_eq_true, decide_eq_true_eq] at h
    by_cases hk : keep i = true
    · have : Map.restrict ((i, w) :: m) keep = (i, w) :: Map.restrict m keep := by simp [Map.restrict, hk]
      rw [this]
      simp only [Map.wfFrom, Bool.and_eq_true, decide_eq_true_eq]
      exact ⟨h.1, ih h.2⟩
    · have : Map.restrict ((i, w) :: m) keep = Map.restrict m keep := by simp [Map.restrict, hk]
      rw [this]
      exact Map.wfFrom_mono _ (ih h.2) (by omega)

/-- A read after a function applied to every value, where the function keeps the default. -/
theorem Map.get_mapv (f : Nat → α → α) (m : Map α) (k : Nat) (hf : f k d = d) : (Map.mapv d f m).get d k = f k (m.get d k) := by
  induction m with
  | nil => exact hf.symm
  | cons e m ih =>
    obtain ⟨i, v⟩ := e
    by_cases hk : i = k
    · subst hk
      by_cases hv : f i v = d
      · simp [Map.mapv, hv, Map.get_erase, Map.get]
      · simp [Map.mapv, hv, Map.get]
    · by_cases hv : f i v = d
      · simp [Map.mapv, hv, Map.get_erase, Map.get, hk, Ne.symm hk, ih]
      · simp [Map.mapv, hv, Map.get, hk, ih]

/-- Applying a function to every value keeps the canonical form. -/
theorem Map.wfFrom_mapv (f : Nat → α → α) (m : Map α) : ∀ {lo : Nat}, Map.wfFrom d lo m = true → Map.wfFrom d lo (Map.mapv d f m) = true := by
  induction m with
  | nil => intros; rfl
  | cons e m ih =>
    obtain ⟨i, v⟩ := e
    intro lo h
    simp only [Map.wfFrom, Bool.and_eq_true, decide_eq_true_eq] at h
    simp only [Map.mapv]
    split
    · exact (Map.wfFrom_erase _ i (Map.wfFrom_mono _ (ih h.2) (by omega))).1
    · rename_i hv
      simp only [Map.wfFrom, Bool.and_eq_true, decide_eq_true_eq]
      exact ⟨⟨h.1.1, by simpa using hv⟩, ih h.2⟩

end Put

end Sys2Proof.Laws
end

