-- ==== Sys2Proof/Laws/State.lean ====
section
/-! SUPPORT. Laws of the state's accessors: a unit read after an update of that unit, of another unit, of another kind of unit. -/

namespace Sys2Proof.Laws

open Sys2Proof.Machine

section Units
variable (s : State) (n m : Nat)

theorem tileAt_modTile (f : Tile → Tile) : (s.modTile n f).tileAt m = if m = n then f (s.tileAt n) else s.tileAt m := Map.get_upd _ _ _ _
@[simp] theorem tileAt_modTile_same (f : Tile → Tile) : (s.modTile n f).tileAt n = f (s.tileAt n) := Map.get_upd_same _ _ _
theorem tileAt_setTile (x : Tile) : (s.setTile n x).tileAt m = if m = n then x else s.tileAt m := Map.get_put _ _ _ _
theorem ptileAt_modPtile (f : PTile → PTile) : (s.modPtile n f).ptileAt m = if m = n then f (s.ptileAt n) else s.ptileAt m := Map.get_upd _ _ _ _
theorem tmapAt_modTmap (f : TMap → TMap) : (s.modTmap n f).tmapAt m = if m = n then f (s.tmapAt n) else s.tmapAt m := Map.get_upd _ _ _ _
theorem dieAt_modDie (f : Die → Die) : (s.modDie n f).dieAt m = if m = n then f (s.dieAt n) else s.dieAt m := Map.get_upd _ _ _ _
theorem stackAt_modStack (f : Stack → Stack) : (s.modStack n f).stackAt m = if m = n then f (s.stackAt n) else s.stackAt m := Map.get_upd _ _ _ _
theorem engineAt_modEngine (f : Upe → Upe) : (s.modEngine n f).engineAt m = if m = n then f (s.engineAt n) else s.engineAt m := Map.get_upd _ _ _ _
theorem moduleAt_modModule (f : D2d → D2d) : (s.modModule n f).moduleAt m = if m = n then f (s.moduleAt n) else s.moduleAt m := Map.get_upd _ _ _ _
theorem partAt_modPart (f : Part → Part) : (s.modPart n f).partAt m = if m = n then f (s.partAt n) else s.partAt m := Map.get_upd _ _ _ _
theorem ptTileAt_modPtTile (f : PartTile → PartTile) : (s.modPtTile n f).ptTileAt m = if m = n then f (s.ptTileAt n) else s.ptTileAt m := Map.get_upd _ _ _ _
theorem loafAt_modLoaf (f : Loaf → Loaf) : (s.modLoaf n f).loafAt m = if m = n then f (s.loafAt n) else s.loafAt m := Map.get_upd _ _ _ _
theorem portAt_modPort (f : Port → Port) : (s.modPort n f).portAt m = if m = n then f (s.portAt n) else s.portAt m := Map.get_upd _ _ _ _
theorem laserAt_modLaser (f : Laser → Laser) : (s.modLaser n f).laserAt m = if m = n then f (s.laserAt n) else s.laserAt m := Map.get_upd _ _ _ _
theorem hostAt_modHost (f : HPort → HPort) : (s.modHost n f).hostAt m = if m = n then f (s.hostAt n) else s.hostAt m := Map.get_upd _ _ _ _
theorem gateAt_modGate (f : Gate → Gate) : (s.modGate n f).gateAt m = if m = n then f (s.gateAt n) else s.gateAt m := Map.get_upd _ _ _ _
theorem gateAt_setGate (x : Gate) : (s.setGate n x).gateAt m = if m = n then x else s.gateAt m := Map.get_put _ _ _ _
@[simp] theorem partAt_modPart_same (f : Part → Part) : (s.modPart n f).partAt n = f (s.partAt n) := Map.get_upd_same _ _ _
@[simp] theorem portAt_modPort_same (f : Port → Port) : (s.modPort n f).portAt n = f (s.portAt n) := Map.get_upd_same _ _ _
@[simp] theorem hostAt_modHost_same (f : HPort → HPort) : (s.modHost n f).hostAt n = f (s.hostAt n) := Map.get_upd_same _ _ _
@[simp] theorem engineAt_modEngine_same (f : Upe → Upe) : (s.modEngine n f).engineAt n = f (s.engineAt n) := Map.get_upd_same _ _ _
@[simp] theorem stackAt_modStack_same (f : Stack → Stack) : (s.modStack n f).stackAt n = f (s.stackAt n) := Map.get_upd_same _ _ _
@[simp] theorem dieAt_modDie_same (f : Die → Die) : (s.modDie n f).dieAt n = f (s.dieAt n) := Map.get_upd_same _ _ _
@[simp] theorem moduleAt_modModule_same (f : D2d → D2d) : (s.modModule n f).moduleAt n = f (s.moduleAt n) := Map.get_upd_same _ _ _
@[simp] theorem ptileAt_modPtile_same (f : PTile → PTile) : (s.modPtile n f).ptileAt n = f (s.ptileAt n) := Map.get_upd_same _ _ _

/-! An update of one kind of unit leaves the other kinds alone. -/

@[simp] theorem modTile_ptile (f : Tile → Tile) : (s.modTile n f).ptile = s.ptile := rfl
@[simp] theorem modTile_tmap (f : Tile → Tile) : (s.modTile n f).tmap = s.tmap := rfl
@[simp] theorem modTile_part (f : Tile → Tile) : (s.modTile n f).part = s.part := rfl
@[simp] theorem modTile_mem (f : Tile → Tile) : (s.modTile n f).mem = s.mem := rfl
@[simp] theorem modTile_upe (f : Tile → Tile) : (s.modTile n f).upe = s.upe := rfl
@[simp] theorem modTile_die (f : Tile → Tile) : (s.modTile n f).die = s.die := rfl
@[simp] theorem modTile_outbox (f : Tile → Tile) : (s.modTile n f).outbox = s.outbox := rfl
@[simp] theorem modTile_nextId (f : Tile → Tile) : (s.modTile n f).nextId = s.nextId := rfl
@[simp] theorem modTile_sigs (f : Tile → Tile) : (s.modTile n f).sigs = s.sigs := rfl
@[simp] theorem modTile_physOf (f : Tile → Tile) : (s.modTile n f).physOf m = s.physOf m := rfl
@[simp] theorem modTile_partAt (f : Tile → Tile) : (s.modTile n f).partAt m = s.partAt m := rfl
@[simp] theorem modTile_ptileAt (f : Tile → Tile) : (s.modTile n f).ptileAt m = s.ptileAt m := rfl
@[simp] theorem modTile_tmapAt (f : Tile → Tile) : (s.modTile n f).tmapAt m = s.tmapAt m := rfl
@[simp] theorem modTile_dieAt (f : Tile → Tile) : (s.modTile n f).dieAt m = s.dieAt m := rfl
@[simp] theorem modTile_engineAt (f : Tile → Tile) : (s.modTile n f).engineAt m = s.engineAt m := rfl
@[simp] theorem modPtile_tileAt (f : PTile → PTile) : (s.modPtile n f).tileAt m = s.tileAt m := rfl
@[simp] theorem modPtile_partAt (f : PTile → PTile) : (s.modPtile n f).partAt m = s.partAt m := rfl
@[simp] theorem modPart_tileAt (f : Part → Part) : (s.modPart n f).tileAt m = s.tileAt m := rfl
@[simp] theorem modPart_fw (f : Part → Part) : (s.modPart n f).fw = s.fw := rfl
@[simp] theorem modPart_mem (f : Part → Part) : (s.modPart n f).mem = s.mem := rfl
@[simp] theorem modEngine_tileAt (f : Upe → Upe) : (s.modEngine n f).tileAt m = s.tileAt m := rfl
@[simp] theorem modEngine_partAt (f : Upe → Upe) : (s.modEngine n f).partAt m = s.partAt m := rfl
@[simp] theorem modPort_partAt (f : Port → Port) : (s.modPort n f).partAt m = s.partAt m := rfl
@[simp] theorem modHost_portAt (f : HPort → HPort) : (s.modHost n f).portAt m = s.portAt m := rfl

@[simp] theorem modPhysOf_tileAt (f : PTile → PTile) : (s.modPhysOf n f).tileAt m = s.tileAt m := by
  unfold State.modPhysOf; split <;> rfl
@[simp] theorem modPhysOf_partAt (f : PTile → PTile) : (s.modPhysOf n f).partAt m = s.partAt m := by
  unfold State.modPhysOf; split <;> rfl
@[simp] theorem modPhysOf_mem (f : PTile → PTile) : (s.modPhysOf n f).mem = s.mem := by
  unfold State.modPhysOf; split <;> rfl
@[simp] theorem modPhysOf_die (f : PTile → PTile) : (s.modPhysOf n f).die = s.die := by
  unfold State.modPhysOf; split <;> rfl
@[simp] theorem modPhysOf_upe (f : PTile → PTile) : (s.modPhysOf n f).upe = s.upe := by
  unfold State.modPhysOf; split <;> rfl
@[simp] theorem modPhysOf_nextId (f : PTile → PTile) : (s.modPhysOf n f).nextId = s.nextId := by
  unfold State.modPhysOf; split <;> rfl
@[simp] theorem modPhysOf_sigs (f : PTile → PTile) : (s.modPhysOf n f).sigs = s.sigs := by
  unfold State.modPhysOf; split <;> rfl

end Units

section Streams
variable (s : State) (t : Tile) (n m : Nat) (a b : StreamId)

theorem code_inj : ∀ {a b : StreamId}, a.code = b.code → a = b := by
  intro a b; cases a <;> cases b <;> simp [StreamId.code]

theorem Tile.streamAt_modStream (f : Stream → Stream) :
    (t.modStream a f).streamAt b = if b = a then f (t.streamAt a) else t.streamAt b := by
  unfold Tile.streamAt Tile.modStream
  rw [Map.get_upd]
  by_cases h : b = a
  · subst h; simp
  · have : ¬ b.code = a.code := fun e => h (code_inj e)
    simp [h, this]

@[simp] theorem Tile.streamAt_modStream_same (f : Stream → Stream) : (t.modStream a f).streamAt a = f (t.streamAt a) := by
  rw [Tile.streamAt_modStream, if_pos rfl]

/-- A tile's streams are read from its stream table alone. -/
theorem Tile.streamAt_congr {t u : Tile} {a : StreamId} (h : t.str = u.str) : t.streamAt a = u.streamAt a := by
  unfold Tile.streamAt; rw [h]

/-- A stream of the state is the stream of its tile. -/
theorem streamAt_tile : s.streamAt n a = (s.tileAt n).streamAt a := rfl

theorem streamAt_modStream (f : Stream → Stream) :
    (s.modStream n a f).streamAt m b = if m = n ∧ b = a then f (s.streamAt n a) else s.streamAt m b := by
  simp only [streamAt_tile, State.modStream, tileAt_modTile]
  by_cases h : m = n
  · subst h; simp only [if_true, true_and, Tile.streamAt_modStream]
  · simp [h]

@[simp] theorem streamAt_modStream_same (f : Stream → Stream) : (s.modStream n a f).streamAt n a = f (s.streamAt n a) := by
  rw [streamAt_modStream, if_pos ⟨rfl, rfl⟩]

@[simp] theorem modStream_partAt (f : Stream → Stream) : (s.modStream n a f).partAt m = s.partAt m := rfl
@[simp] theorem modStream_mem (f : Stream → Stream) : (s.modStream n a f).mem = s.mem := rfl
@[simp] theorem modStream_ptileAt (f : Stream → Stream) : (s.modStream n a f).ptileAt m = s.ptileAt m := rfl
@[simp] theorem modStream_dieAt (f : Stream → Stream) : (s.modStream n a f).dieAt m = s.dieAt m := rfl
@[simp] theorem modStream_engineAt (f : Stream → Stream) : (s.modStream n a f).engineAt m = s.engineAt m := rfl

end Streams

/-! Registers: s0 and p0 are hard-wired, s12 to s15 discard writes (R119, R37, R149). -/

theorem readS_writeS (x : Stream) (r q : Nat) (v : Word) :
    (x.writeS r v).readS q = if q = 0 then 0 else if q = r ∧ r < 12 then v else x.readS q := by
  unfold Stream.writeS Stream.readS
  by_cases hq : q = 0
  · simp [hq]
  · by_cases hr : r = 0 ∨ 12 ≤ r
    · rw [if_pos hr, if_neg hq, if_neg hq, if_neg (by omega)]
    · rw [if_neg hr, if_neg hq, if_neg hq, Map.get_put]
      by_cases e : q = r
      · rw [if_pos e, if_pos ⟨e, by omega⟩]
      · rw [if_neg e, if_neg (by omega)]; simp [hq]

theorem readP_writeP (x : Stream) (r q : Nat) (v : Bool) :
    (x.writeP r v).readP q = if q = 0 then true else if q = r then v else x.readP q := by
  unfold Stream.writeP Stream.readP
  by_cases hq : q = 0
  · simp [hq]
  · by_cases hr : r = 0
    · rw [if_pos hr, if_neg hq, if_neg hq, if_neg (by omega)]
    · rw [if_neg hr, if_neg hq, if_neg hq, Map.get_put]
      by_cases e : q = r <;> simp [e, hq]

end Sys2Proof.Laws
end

