-- ==== Sys2Proof/Laws/Issue.lean ====
section
/-! SUPPORT. What the issue of an instruction does, said once: the state before its own effect, and the whole of `issue` for each verdict. -/

namespace Sys2Proof.Laws

open Sys2Proof.Machine

variable {i : Issue} {g : Needs} {s : State} {eff : BitVec 48 → State → State}

/-- A buffer that lacks no block it can fetch fetches none. -/
theorem fetch_none (h : s.missing i.tile i.stream = []) : s.fetch i = s := by
  unfold State.fetch; rw [h]

/-- An issue whose instruction runs: its effect on the state after `begin_`, the brew statistics, then a stop that is due. -/
theorem issue_run (h : Runs i g s) :
    issue i g eff s = .next (((eff (s.streamAt i.tile i.stream).pc (begin_ i g s)).modTile i.tile Tile.notePools).tryHalt i.tile i.stream) := by
  unfold issue
  rw [if_neg (Nat.not_le.mpr h.tile)]
  simp only [h.run]

/-- Everything an issue can do on an existing tile, verdict by verdict, what is fetched first included. -/
theorem issue_cases (h : i.tile < nTiles) :
    (verdict i g s = .idle ∧ issue i g eff s = .next s) ∨
    (∃ c, verdict i g s = .wait c ∧ issue i g eff s = .next ((s.fetch i).modStream i.tile i.stream fun x => { (x.stall c) with ninth := g.ninth })) ∨
    (∃ c d, verdict i g s = .fault c d ∧ issue i g eff s = .next ((s.fetch i).faultStream i.tile i.stream (s.streamAt i.tile i.stream).pc c d)) ∨
    (∃ c, verdict i g s = .spill c ∧ issue i g eff s = .next (((s.fetch i).spillBrew i.tile i.stream c 0).tryHalt i.tile i.stream)) ∨
    (verdict i g s = .check ∧ issue i g eff s = .next ((s.fetch i).checkerSpill i.tile i.stream)) ∨
    (verdict i g s = .skip ∧ issue i g eff s = .next ((s.fetch i).modStream i.tile i.stream Stream.issued)) ∨
    (verdict i g s = .run ∧
      issue i g eff s = .next (((eff (s.streamAt i.tile i.stream).pc (begin_ i g s)).modTile i.tile Tile.notePools).tryHalt i.tile i.stream)) := by
  unfold issue
  rw [if_neg (Nat.not_le.mpr h)]
  cases verdict i g s with
  | idle => exact .inl ⟨rfl, rfl⟩
  | wait c => exact .inr (.inl ⟨c, rfl, rfl⟩)
  | fault c d => exact .inr (.inr (.inl ⟨c, d, rfl, rfl⟩))
  | spill c => exact .inr (.inr (.inr (.inl ⟨c, rfl, rfl⟩)))
  | check => exact .inr (.inr (.inr (.inr (.inl ⟨rfl, rfl⟩))))
  | skip => exact .inr (.inr (.inr (.inr (.inr (.inl ⟨rfl, rfl⟩)))))
  | run => exact .inr (.inr (.inr (.inr (.inr (.inr ⟨rfl, rfl⟩)))))

/-- A stream with no stop due is left alone. -/
theorem tryHalt_none {n : Nat} {st : StreamId} (h : (s.streamAt n st).halt = none) : s.tryHalt n st = s := by
  unfold State.tryHalt; simp [h]

section Begin

theorem afterIssue_core (t : Tile) (st : StreamId) (b : Brew) (c e : Bool) : (t.afterIssue st b c e).core = t.core := rfl

theorem afterIssue_streamAt (t : Tile) (st a : StreamId) (b : Brew) (c e : Bool) :
    (t.afterIssue st b c e).streamAt a = if a = st then (t.streamAt st).afterIssue b else t.streamAt a :=
  Tile.streamAt_modStream t st a (Stream.afterIssue b)

theorem begin_tileAt (hf : s.fetch i = s) (m : Nat) : (begin_ i g s).tileAt m =
    if m = i.tile then (s.tileAt i.tile).afterIssue i.stream (s.brewAfter i g) (s.crossing i (g.allReads s) (g.allWrites s))
      (!((g.allReads s).isEmpty && (g.allWrites s).isEmpty)) else s.tileAt m := by
  unfold begin_
  rw [hf]
  simp only [modPhysOf_tileAt, tileAt_modTile]

theorem begin_tileAt_ne (hf : s.fetch i = s) {m : Nat} (h : m ≠ i.tile) : (begin_ i g s).tileAt m = s.tileAt m := by
  rw [begin_tileAt hf, if_neg h]

/-- The tile keeps everything but its stream and its statistics. -/
theorem begin_core (hf : s.fetch i = s) : ((begin_ i g s).tileAt i.tile).core = (s.tileAt i.tile).core := by
  rw [begin_tileAt hf, if_pos rfl]; rfl

theorem begin_streamAt (hf : s.fetch i = s) (a : StreamId) : (begin_ i g s).streamAt i.tile a =
    if a = i.stream then (s.streamAt i.tile i.stream).afterIssue (s.brewAfter i g) else s.streamAt i.tile a := by
  rw [streamAt_tile, begin_tileAt hf, if_pos rfl, afterIssue_streamAt]; rfl

/-- No open brew: the log stands. -/
theorem brewAfter_closed (h : (s.streamAt i.tile i.stream).brew.phase ≠ .open_) :
    s.brewAfter i g = (s.streamAt i.tile i.stream).brew := by
  have h' : (((s.tileAt i.tile).streamAt i.stream).brew.phase == .open_) = false := by
    cases e : ((s.tileAt i.tile).streamAt i.stream).brew.phase <;> first | rfl | exact absurd e h
  unfold State.brewAfter
  simp only [h']
  rfl

theorem modTile_bare (s : State) (n : Nat) (f : Tile → Tile) : (s.modTile n f).bare = s.bare := rfl
theorem modPhysOf_bare (s : State) (n : Nat) (f : PTile → PTile) : (s.modPhysOf n f).bare = s.bare := by
  unfold State.modPhysOf; split <;> rfl

/-- An update of a physical tile that its core does not show. -/
theorem modPhysOf_ptile_core (s : State) (n m : Nat) {f : PTile → PTile} (hf : ∀ p, (f p).core = p.core) :
    ((s.modPhysOf n f).ptileAt m).core = (s.ptileAt m).core := by
  unfold State.modPhysOf
  split
  · rw [ptileAt_modPtile]
    split
    · next h => subst h; exact hf _
    · rfl
  · rfl

/-- Nothing outside the tile changes but LS_CORR of its physical tile. -/
theorem begin_outside (hf : s.fetch i = s) : SameOutside i.tile s (begin_ i g s) := by
  refine ⟨?_, fun _ h => begin_tileAt_ne hf h, fun m => ?_⟩
  · unfold begin_; rw [hf]; exact (modPhysOf_bare _ _ _).trans (modTile_bare _ _ _)
  · unfold begin_; rw [hf]; exact modPhysOf_ptile_core (s.modTile i.tile _) i.tile m fun _ => rfl

end Begin

/-- An update of the issuing tile stays inside it. -/
theorem SameOutside_modTile {n : Nat} {s t : State} {f : Tile → Tile} (h : SameOutside n s t) : SameOutside n s (t.modTile n f) :=
  ⟨h.1, fun m hm => by rw [tileAt_modTile, if_neg hm]; exact h.2.1 m hm, h.2.2⟩
theorem notePools_core (t : Tile) : t.notePools.core = t.core := rfl
theorem notePools_streamAt (t : Tile) (a) : t.notePools.streamAt a = t.streamAt a := rfl
/-- An instruction whose own effect is on its own stream alone, and not on its brew log or its halt. -/
theorem issue_stream {f : BitVec 48 → Stream → Stream} (h : Runs i g s) (hf : ∀ p x, (f p x).halt = x.halt)
   (hn : ∀ p b x, (f p { x with brew := b }).noBrew = (f p x).noBrew) (hb : ∀ p x, (f p x).brew = x.brew):
   ∃ t, issue i g (fun pc s => s.modStream i.tile i.stream (f pc)) s = .next t ∧ 
    StreamIs i s t (f (s.streamAt i.tile i.stream).pc (s.streamAt i.tile i.stream).issued) ∧ OnlyOwnStream i s t := by
  have hf' := fetch_none h.held
  refine ⟨_, (issue_run h).trans (congrArg _ (tryHalt_none ?_)), ⟨?_, ?_⟩, ?_, ?_, ?_⟩
  · simp only [streamAt_tile, tileAt_modTile_same, notePools_streamAt, State.modStream, Tile.streamAt_modStream_same, hf]
    have := begin_streamAt (i := i) (g := g) (s := s) hf' i.stream
    rw [if_pos rfl, streamAt_tile] at this
    rw [this]; exact h.go
  · simp only [streamAt_tile, tileAt_modTile_same, notePools_streamAt, State.modStream, Tile.streamAt_modStream_same]
    have := begin_streamAt (i := i) (g := g) (s := s) hf' i.stream
    rw [if_pos rfl, streamAt_tile] at this
    rw [this]; exact hn _ _ (s.streamAt i.tile i.stream).issued
  · intro ho
    simp only [streamAt_tile, tileAt_modTile_same, notePools_streamAt, State.modStream, Tile.streamAt_modStream_same]
    have := begin_streamAt (i := i) (g := g) (s := s) hf' i.stream
    rw [if_pos rfl, streamAt_tile] at this
    rw [this, hb, hb]
    exact brewAfter_closed ho
  · exact SameOutside_modTile (SameOutside_modTile (begin_outside hf'))
  · simp only [tileAt_modTile_same, notePools_core, State.modStream]
    exact begin_core hf'
  · intro st hst
    simp only [streamAt_tile, tileAt_modTile_same, notePools_streamAt, State.modStream, Tile.streamAt_modStream, if_neg hst]
    have := begin_streamAt (i := i) (g := g) (s := s) hf' st
    rw [if_neg hst] at this
    exact this

theorem writeS_halt (x : Stream) (r v) : (x.writeS r v).halt = x.halt := by unfold Stream.writeS; split <;> rfl
theorem writeS_brew (x : Stream) (r v) : (x.writeS r v).brew = x.brew := by unfold Stream.writeS; split <;> rfl
theorem writeS_noBrew (x : Stream) (r v b) : (Stream.writeS {x with brew := b} r v).noBrew = (x.writeS r v).noBrew := by unfold Stream.writeS; split <;> rfl
theorem writeP_halt (x : Stream) (r v) : (x.writeP r v).halt = x.halt := by unfold Stream.writeP; split <;> rfl
theorem writeP_brew (x : Stream) (r v) : (x.writeP r v).brew = x.brew := by unfold Stream.writeP; split <;> rfl
theorem writeP_noBrew (x : Stream) (r v b) : (Stream.writeP {x with brew := b} r v).noBrew = (x.writeP r v).noBrew := by unfold Stream.writeP; split <;> rfl
/-- Register reads see through `begin_`. -/
theorem begin_getS (i g) {s} (hf : s.fetch i = s) (r) : (begin_ i g s).getS i r = s.getS i r := by
  unfold State.getS; rw [begin_streamAt hf, if_pos rfl]; rfl
theorem begin_getP (i g) {s} (hf : s.fetch i = s) (r) : (begin_ i g s).getP i r = s.getP i r := by
  unfold State.getP; rw [begin_streamAt hf, if_pos rfl]; rfl
/-- Only what the effect does after `begin_` matters. -/
theorem issue_congr {i g s} {e1 e2 : BitVec 48 → State → State} (h : e1 (s.streamAt i.tile i.stream).pc (begin_ i g s) = e2 (s.streamAt i.tile i.stream).pc (begin_ i g s)) : issue i g e1 s = issue i g e2 s := by
  unfold issue; simp only [h]


end Sys2Proof.Laws
end

