-- ==== Sys2Proof/Laws/Memory.lean ====
section
/-! SUPPORT. Laws of package memory: the named writers of memory each keep the canonical form, a read after a write, and what a write of a line leaves
alone. `State.mem` has no other writer than those named here. -/

namespace Sys2Proof.Laws

open Sys2Proof.Machine

/-- Memory after reset lists nothing. -/
theorem reset_memoryWf : State.reset.memoryWf := rfl

/-- A run of single writes keeps the canonical form, whatever indices and values it takes from its list. -/
theorem Map.wf_foldl_put {α β : Type} [DecidableEq α] {d : α} (key : β → Nat) (val : β → α) (xs : List β) :
    ∀ {m : Map α}, Map.wf d m = true → Map.wf d (xs.foldl (fun m x => Map.put d m (key x) (val x)) m) = true := by
  induction xs with
  | nil => intro m h; exact h
  | cons x xs ih => intro m h; exact ih (Map.wf_put h _ _)

theorem Map.wf_restrict {α : Type} [DecidableEq α] {d : α} {m : Map α} (keep : Nat → Bool) (h : Map.wf d m = true) :
    Map.wf d (Map.restrict m keep) = true :=
  Map.wfFrom_restrict m keep h

theorem memWrite_wf {s : State} (h : s.memoryWf) (a : Nat) (bs : List Byte) : (s.memWrite a bs).memoryWf :=
  Map.wf_putRange bs a h

theorem zeroStack_wf {s : State} (h : s.memoryWf) (k : Nat) : (s.zeroStack k).memoryWf :=
  Map.wf_restrict (fun a => decide (stackOf a ≠ k)) h

theorem writeLine_wf {s : State} (h : s.memoryWf) (b : Option (Nat × StreamId)) (line : Nat) (bs : List Byte) :
    (s.writeLine b line bs).memoryWf := Map.wf_putRange bs line h

theorem setPoison_mem (s : State) (l : Nat) (b : Bool) : (s.setPoison l b).mem = s.mem := rfl
theorem conflictExt_mem (s : State) (b : Option (Nat × StreamId)) (ls : List Nat) : (s.conflictExt b ls).mem = s.mem := rfl

/-- A run of updates of which each leaves memory alone leaves it alone. -/
theorem foldl_mem {β : Type} (f : State → β → State) (hf : ∀ s x, (f s x).mem = s.mem) (xs : List β) :
    ∀ s, (xs.foldl f s).mem = s.mem := by
  induction xs with
  | nil => intro s; rfl
  | cons x xs ih => intro s; exact (ih _).trans (hf s x)

theorem pkgWrite_wf {s : State} (h : s.memoryWf) (b : Option (Nat × StreamId)) (a : Nat) (bs : List Byte) :
    (s.pkgWrite b a bs).memoryWf := by
  refine (congrArg (Map.wf 0) (foldl_mem _ (fun s x => ?_) _ _)).trans (Map.wf_foldl_put (fun x : Nat × Byte => x.1) (·.2) _ h)
  split <;> rfl

theorem dropRecords_wf {s : State} (h : s.memoryWf) (p : Nat) : (s.dropRecords p).memoryWf := by
  unfold State.dropRecords
  dsimp only
  split
  · exact h
  · exact Map.wf_restrict (fun a => !inRegion (s.partAt p).hregion 0x200000 a) h

/-- A pitch change lays memory out anew, in the canonical form. -/
theorem repitched_wf (f : Nat → Nat) (m : Map Byte) :
    Map.wf 0 (m.foldl (fun (m : Map Byte) b => Map.put 0 m (f b.1) b.2) []) = true :=
  Map.wf_foldl_put (fun b : Nat × Byte => f b.1) (·.2) m rfl

/-- A byte read after bytes are written: the byte written inside the run, the old byte outside it. -/
theorem memWrite_get (s : State) (a j : Nat) (bs : List Byte) :
    Map.get 0 (s.memWrite a bs).mem j = if a ≤ j ∧ j < a + bs.length then bs.getD (j - a) 0 else Map.get 0 s.mem j :=
  Map.get_putRange bs s.mem a j

theorem writeLine_get (s : State) (b : Option (Nat × StreamId)) (line j : Nat) (bs : List Byte) :
    Map.get 0 (s.writeLine b line bs).mem j =
      if line ≤ j ∧ j < line + bs.length then bs.getD (j - line) 0 else Map.get 0 s.mem j :=
  Map.get_putRange bs s.mem line j

/-- A line written loses its poison, and no other line's poison changes (R203). -/
theorem writeLine_poisoned (s : State) (b : Option (Nat × StreamId)) (line l : Nat) (bs : List Byte) :
    (s.writeLine b line bs).poisoned l = if l = line then false else s.poisoned l :=
  Map.get_put s.poison line false l

end Sys2Proof.Laws
end

