-- ==== Sys2Proof/Laws/Message.lean ====
section
/-! SUPPORT. What handling a message of Table 14-9 does, said once: a message that passes its checks answers with the status its own rule gives. -/

namespace Sys2Proof.Laws

open Sys2Proof.Machine

/-- A package that is ready, outside the handoff, holds no message back. -/
theorem requestsWait_false {s : State} (hr : s.fw.ready = true) (hh : s.fw.handoff = false) : s.requestsWait = false := by
  simp [State.requestsWait, hr, hh]

/-- A crumb changes the crumb state and the boot block's high-water word, nothing else (R353). -/
theorem sendOne_eq (s : State) (c : Crumb) : ∃ q b, s.sendOne c = { s with crumb := q, fw := { s.fw with boot := b } } := by
  unfold State.sendOne
  dsimp only
  split
  · exact ⟨_, _, rfl⟩
  · exact ⟨_, s.fw.boot, rfl⟩

/-- All the pieces of a crumb do (R351). -/
theorem sendCrumb_eq (s : State) (c : Crumb) : ∃ q b, s.sendCrumb c = { s with crumb := q, fw := { s.fw with boot := b } } := by
  unfold State.sendCrumb
  generalize ({ c with ctr := s.crumb.ctr } : Crumb).pieces = ps
  induction ps generalizing s with
  | nil => exact ⟨s.crumb, s.fw.boot, rfl⟩
  | cons k ps ih =>
    obtain ⟨q, b, h⟩ := sendOne_eq s { c with keys := k }
    obtain ⟨q', b', h'⟩ := ih (s.sendOne { c with keys := k })
    rw [List.foldl_cons, h', h]
    exact ⟨q', b', rfl⟩

/-- Counting a raise changes the crumb state alone (R336). -/
theorem countRaise_eq (s : State) (rose : Bool) : ∃ q, s.countRaise rose = { s with crumb := q } := by
  unfold State.countRaise
  split
  · exact ⟨_, rfl⟩
  · exact ⟨s.crumb, rfl⟩

/-- Emitting a crumb changes the crumb state and the boot block's high-water word, nothing else (R352, R353). -/
theorem crumbOut_eq (s : State) (cls syn : Nat) (u : UnitId) (keys : List (Nat × Cb)) :
    ∃ q b, s.crumbOut cls syn u keys = { s with crumb := q, fw := { s.fw with boot := b } } := by
  unfold State.crumbOut
  dsimp only
  obtain ⟨q0, h0⟩ := countRaise_eq s (s.raised cls syn u != cls)
  rw [h0]
  dsimp only
  split
  · obtain ⟨q, b, h⟩ := sendCrumb_eq { s with crumb := q0 }
        { ctr := 0, cls := s.raised cls syn u, syn := syn, unit := u, tick := s.refTick,
          keys := keys ++ [(12, .u s.fw.pack.id.toNat), (13, .a [bits s.fw.version.toNat 31 16, bits s.fw.version.toNat 15 0])] }
    rw [h]
    exact ⟨q, b, rfl⟩
  · split
    · exact ⟨_, s.fw.boot, rfl⟩
    · obtain ⟨q, b, h⟩ := sendCrumb_eq { s with crumb := q0 }
        { ctr := 0, cls := s.raised cls syn u, syn := syn, unit := u, tick := s.refTick,
          keys := keys ++ [(12, .u s.fw.pack.id.toNat), (13, .a [bits s.fw.version.toNat 31 16, bits s.fw.version.toNat 15 0])] }
      rw [h]
      exact ⟨_, b, rfl⟩

/-- A wake from sleep leaves readiness, and what decides a message's limit, alone (R433). -/
theorem wakeFor_fw (s : State) (h : MsgHdr) :
    (s.wakeFor h).fw.ready = s.fw.ready ∧ (s.wakeFor h).fw.config = s.fw.config := by
  unfold State.wakeFor
  split
  · split
    · unfold State.wakeSleep
      split
      · obtain ⟨q, b, h⟩ := crumbOut_eq { s with pwr := { s.pwr with state := .run } }.unfreeze.resumeRuns 0 0x090F uPackage []
        rw [h]
        exact ⟨rfl, rfl⟩
      · exact ⟨rfl, rfl⟩
    · exact ⟨rfl, rfl⟩
  · exact ⟨rfl, rfl⟩

/-- A message that passes runs its body on the state it is taken in, and answers with what the body gives (R367). -/
theorem message_passes {h : MsgHdr} {type : BitVec 16} {r : Right} {s : State} (p : Passes h type r s)
    (body : State → Nat × State × List Byte) :
    s.message h type r body = (body (s.taken h)).2.1.respond h type (body (s.taken h)).1 (body (s.taken h)).2.2 := by
  have hw : (s.wakeFor h).fw.ready = true := (wakeFor_fw s h).1.trans p.ready
  have hl : (s.wakeFor h).payloadLimit h.src = s.payloadLimit h.src := by
    unfold State.payloadLimit State.mailbox
    rw [(wakeFor_fw s h).2]
  have hm : h.src = .mgmt → s.wakeFor h = s := fun e => by unfold State.wakeFor; rw [e]
  have ha : (decide (h.src = .mgmt) && needsTrailer type r && !(s.wakeFor h).trailerOk h type) = false := by
    by_cases e : h.src = .mgmt
    · rw [hm e]
      cases ht : needsTrailer type r
      · simp
      · simp [p.auth e ht]
    · simp [e]
  have hi : (decide (h.src = .i3c) && !i3cTakes type) = false := by
    by_cases e : h.src = .i3c
    · simp [p.i3c e]
    · simp [e]
  have hr : (s.taken h).fw.ready = true := by unfold State.taken; split <;> exact hw
  unfold State.message
  rw [if_neg (by simp [requestsWait_false p.ready p.noHand])]
  dsimp only
  rw [if_neg (by simp [p.major]), if_neg (by simp [← p.crc]), if_neg (by rw [hl]; have := p.limit; have := p.length; omega), ha, if_neg (by simp)]
  change (if (!(s.taken h).permits h r || (decide (h.src = .i3c) && !i3cTakes type)) = true then (s.taken h).respond h type 5 []
    else if (!(s.taken h).fw.ready && !(decide (r = .image) && decide ((s.taken h).fw.stage = 4) && decide (h.src = .i3c))) = true then (s.taken h).respond h type 6 []
    else _) = _
  rw [if_neg (by simp [p.right, hi]), if_neg (by simp [hr])]
  rfl

end Sys2Proof.Laws
end

