-- ==== Sys2Proof/Tests/Slice0.lean ====
section
/-! SUPPORT. The author's tests: ill-formed commands are refused by `Instr.wf`; for every statement a state and operands that meet its hypotheses; results worked out by hand from the spec. -/

namespace Sys2Proof.Tests
set_option Elab.async false
open Sys2Proof.Machine

/-! ## States and operands the tests use -/

/-- Stream F of tile 0 runs a program of partition 0, which owns granule 0 of stack 0, with the blocks at its PC fetched; F owns bank acc0. -/
def tile0 : Tile := { str := [(0, { run := true, loaf := 0x8000, fetchBuf := [0, 1, 2] })], bank := [(0, { owner := some .F })] }
def base : State :=
  { tile := [(0, tile0)], tmap := [(0, { valid := true })], ptile := [(0, { state := .active, logical := 0 })],
    stack := [(0, { gran := [(0, 0x80000000)] })], part := [(0, { valid := true, state := .run })], ptTile := [(0, { owned := true })] }

/-- An instruction of stream F of tile 0. -/
def at0 (w : IWord) (hw : Hw := {}) : Issue := { tile := 0, stream := .F, word := w, hw := hw }

def runsB (i : Issue) (g : Needs) (s : State) : Bool :=
  decide (i.tile < nTiles) && decide (verdict i g s = .run) && (s.streamAt i.tile i.stream).halt.isNone && (s.missing i.tile i.stream).isEmpty

theorem runs_of_runsB {i : Issue} {g : Needs} {s : State} (h : runsB i g s = true) : Runs i g s := by
  simp only [runsB, Bool.and_eq_true, decide_eq_true_eq, Option.isNone_iff_eq_none, List.isEmpty_iff] at h
  exact ⟨h.2, h.1.1.1, h.1.1.2, h.1.2⟩

/-- The state of tile 0's stream F, tile 0, and partition 0 changed. -/
def withF (f : Stream → Stream) (s : State := base) : State := s.modStream 0 .F f
def withT (f : Tile → Tile) (s : State := base) : State := s.modTile 0 f
def withP (f : Part → Part) (s : State := base) : State := s.modPart 0 f

/-- The fields of a next state, or nothing of a stop. -/
def nextIs (o : Host.Outcome State Fault Refusal) (f : State → Bool) : Bool :=
  match o with
  | .next t => f t
  | _ => false

/-- The command is an instruction, and it runs on the state: `Runs` holds of it and of what it needs. -/
def runsC (s : State) (c : Instr) : Bool :=
  match issueOf s c with
  | some (i, g) => runsB i g s
  | none => false

theorem runs_of_runsC {s : State} {c : Instr} {i : Issue} {g : Needs} (hi : issueOf s c = some (i, g)) (h : runsC s c = true) : Runs i g s := by
  simp only [runsC, hi] at h
  exact runs_of_runsB h

/-- The command is an instruction whose verdict at issue is `v`. -/
def verdictIs (s : State) (c : Instr) (v : Verdict) : Bool :=
  match issueOf s c with
  | some (i, g) => decide (i.tile < nTiles) && decide (verdict i g s = v)
  | none => false


/-! ### Messages -/

/-- A message of `src` for partition `part`, with its CRC. -/
def msg (type : BitVec 16) (part : Byte := 0) (src : Sender := .port .A) (payload : List Byte := []) : MsgHdr :=
  let h : MsgHdr := { src := src, part := part, payload := payload, length := BitVec.ofNat 32 payload.length }
  { h with crc := crc32c (crcBytes h type) }

/-- The same for a message whose payload begins with its effective step. -/
def msgE (type : BitVec 16) (e : Nat) : MsgHdr := msg type 0 (.port .A) (natLe 4 e)

def passesB (h : MsgHdr) (type : BitVec 16) (r : Right) (s : State) : Bool :=
  decide (s.fw.ready = true ∧ s.fw.handoff = false ∧ h.major = 1 ∧ h.crc = crc32c (crcBytes h type) ∧ h.length.toNat ≤ s.payloadLimit h.src ∧
    h.length.toNat = h.payload.length ∧ h.src ≠ .mgmt ∧ (s.taken h).permits h r = true ∧ (h.src = .i3c → i3cTakes type = true))

theorem passes_of_passesB {h : MsgHdr} {type : BitVec 16} {r : Right} {s : State} (p : passesB h type r s = true) : Passes h type r s := by
  simp only [passesB, decide_eq_true_eq] at p
  obtain ⟨a, b, c, d, e, f, g, i, j⟩ := p
  exact ⟨a, b, c, d, e, f, fun x => absurd x g, i, j⟩

/-- The command is a message that passes its checks on the state. -/
def passesC (s : State) (c : Instr) : Bool :=
  match messageOf c with
  | some (h, type, r) => passesB h type r s
  | none => false

theorem passes_of_passesC {s : State} {c : Instr} {h : MsgHdr} {type : BitVec 16} {r : Right} (hm : messageOf c = some (h, type, r)) (p : passesC s c = true) :
    Passes h type r s := by
  simp only [passesC, hm] at p
  exact passes_of_passesB p

/-- Firmware is ready; the package's one partition belongs to port A, which is the steward. -/
def up (s : State := base) : State := { s with fw := { s.fw with ready := true, config := { s.fw.config with steward := 0 } } }
def upP (f : Part → Part) : State := up (withP f)

/-! ## Witnesses: instructions

Each list names commands whose own statement asks `Runs`; every one of them meets it on the state named (`runs_of_runsC`). -/

/-- The boundary registers: s11 the last that holds a value, s12 to s15 read-only, p7; SGET's last selector but the fencing one. -/
theorem witness_ScalarResults : [.nop (at0 {}), .ldi (at0 { dst := 12, ext := 5 }), .ldi (at0 { dst := 11, ext := 5 }),
    .salu (at0 { dst := 1, srca := 15, func := 13, imm := 1 }), .sget (at0 { dst := 11, imm := 4 }), .sget (at0 { dst := 11, imm := 5 }),
    .scmp (at0 { dst := 0x40, srca := 0, func := 5 }), .plog (at0 { dst := 0x47, func := 5, imm := 1 }), .nop (at0 { gneg := true, guard := 1 })].all (runsC base) = true := by
  decide +kernel

/-- BRDEC with 1 in s1 (falls to 0, falls through), with 2 (branches), and on s0, which reads 0. -/
theorem witness_Branches : [.br (at0 { imm := 0xFFFFFF }), .brdec (at0 { dst := 1, imm := 1 }), .brdec (at0 { dst := 0, imm := 1 })].all
      (fun c => runsC (withF fun x => x.writeS 1 1) c && runsC (withF fun x => x.writeS 1 2) c) = true := by
  decide +kernel

/-- The last eight bytes of local store, and an open brew. -/
theorem witness_LocalStoreWords : [.sld (at0 { dst := 1, srca := 2 }), .sst (at0 { srca := 2, srcb := 1 })].all
      (fun c => runsC (withF fun x => x.writeS 2 1572856) c && runsC (withF fun x => { x with brew := { phase := .open_, depth := 1 } }) c) = true := by
  decide +kernel

theorem witness_VectorStores : [.vst (at0 { srca := 0, srcb := 0xBF }), .vsts (at0 { srca := 0x80, srcb := 0, ext := 0 })].all (runsC base) = true := by
  decide +kernel

/-- n equal to the value, n = 0; then n above the value by 1. -/
theorem witness_Waits :
    [.wait (at0 { imm := 0x200 }), .wait (at0 { imm := 0 }), .waitPeek (at0 { imm := 0x200 }), .wait (at0 { imm := 0x300 }), .waitPeek (at0 { imm := 0x300 })].all
      (runsC (withT fun t => { t with sc := [(0, { value := 2 })] })) = true := by
  decide +kernel

/-- A tile 0 and 1 in a RECT loaf whose stream runs for the loaf: its signals combine. -/
def pairLoaf : State :=
  { (withF fun x => { x with loaf := 0, sreg := [(14, 2)] }) with
    tmap := [(0, { valid := true }), (1, { valid := true, col := 1 })], ptTile := [(0, { owned := true }), (1, { owned := true })],
    loaf := [(0, { valid := true, kind := 1, dieMask := 1, rowLo := 0, rowHi := 0, colLo := 0, colHi := 1 })] }

theorem witness_Signals : [.signal (at0 { imm := 0x11F }), .signalSet (at0 { imm := 0xFFFF00 })].all
      (fun c => runsC base c && runsC (withF fun x => { x with brew := { phase := .open_, depth := 1 } }) c) = true ∧ base.combining 0 .F = none := by
  decide +kernel

theorem witness_CombinedSignals : runsC pairLoaf (.signal (at0 { imm := 0x11F })) = true ∧ pairLoaf.combining 0 .F = some 0 := by
  decide +kernel

/-- A signal of amount 1 for counter 31 of tile 0: a counter of 65,534 takes it, one of 65,535 overflows with stream F waiting on it, a migrating tile holds it. -/
def sig0 : Sig := { id := 0, ref := 0x8000, loaf := none, src := 0, stream := .F, tiles := [0], k := 31, amount := 1, part := 0 }
def sigState (v : BitVec 16) : State :=
  { (withT fun t => { t with sc := [(31, { value := v })], waits := [{ stream := .F, k := 31, n := 65535, peek := false }] }) with sigs := [sig0] }
theorem witness_SignalsArrive :
    (sigState 65534).sigs[0]? = some sig0 ∧ mayArrive ((sigState 65534).tileAt sig0.src) sig0 ((sigState 65534).sigs.take 0) = true ∧
    ((sigState 65534).tmapAt 0).migrating = false ∧ (Map.get {} ((sigState 65534).tileAt 0).sc 31).value.toNat + 1 ≤ 65535 ∧
    mayArrive ((sigState 65535).tileAt sig0.src) sig0 [] = true ∧ 65535 < (Map.get {} ((sigState 65535).tileAt 0).sc 31).value.toNat + 1 ∧
    ((sigState 65535).streamAt 0 .F).run = true ∧
    mayArrive (({ sigState 65535 with tmap := [(0, { valid := true, migrating := true })] } : State).tileAt sig0.src) sig0 [] = true := by
  decide +kernel

/-- Shard 7 step 0 of partition 0 in directory entry 0 of engine 0. -/
def shardState (pins : BitVec 16) : State := { base with upe := [(0, { dir := [(0, { valid := true, part := 0, tensor := 7, pins := pins })] })] }
theorem witness_Pins :
    runsC (shardState 65534) (.pin (at0 { dst := 1, srca := 0, imm := 7 })) = true ∧ pinShard (at0 { dst := 1, srca := 0, imm := 7 }) (shardState 65534) = some (0, 0) ∧
    runsC (shardState 1) (.unpin (at0 { srca := 0, imm := 7 })) = true := by
  decide +kernel

theorem witness_Steps : [.step (at0 {}), .fence (at0 {}), .end_ (at0 {})].all (runsC base) = true ∧ runsC (withF fun x => { x with step := 0xFFFFFFFE }) (.step (at0 {})) = true := by
  decide +kernel

/-- The table B, B with LAST = 1. -/
theorem witness_BraidSet : [base, withT fun t => { t with choiceOpen := false }].all
      (fun s => runsC (s.modStream 0 .F fun x => x.writeS 1 0x100000005) (.braidSet (at0 { srca := 1 }))) = true ∧ (base.tileAt 0).choiceOpen = true := by
  decide +kernel

/-- An MMA of stream F in the tile's queue. -/
def mma0 (wave : Nat) : Mma :=
  { id := 1, stream := .F, pc := 0, bank := 0, crossed := false, t := false, tfmt := 3, sfmt := 3, tblk := false, sblk := false, toff := 64, soff := 0, tsoff := 0, ssoff := 0, wave := wave }
def mmaState (q a : List Mma) : State := withT fun t => { t with mmaQ := q, array := a, sb := (q ++ a).map fun m => { stream := .F, reads := [], writes := [.acc 0], op := m.id, isMma := true } }

theorem witness_ArrayGrants : ((mmaState [mma0 0] []).tileAt 0).choose = some (mma0 0) ∧ ((mmaState [mma0 0] []).tileAt 0).held = none ∧
    ((mmaState [mma0 0] []).tileAt 0).braidPend = [] ∧ (base.tileAt 0).choose = none := by
  decide +kernel

/-- A false guard, an operand byte of the wrong kind, a stall (a busy register), the brew in conflict, an address beyond local store. -/
theorem witness_IssueOutcomes :
    verdictIs { base with tile := [] } (.nop (at0 {})) .idle = true ∧ verdictIs base (.nop (at0 { gneg := false, guard := 1 })) .skip = true ∧
    verdictIs (withT fun t => { t with sb := [{ stream := .F, reads := [], writes := [.s 1], op := 9, cause := .dep }] }) (.ldi (at0 { dst := 1 })) (.wait .dep) = true ∧
    verdictIs (withF fun x => { x with brew := { phase := .open_, depth := 1, conflict := true } }) (.nop (at0 {})) (.spill 1) = true ∧
    verdictIs base (.sld (at0 { dst := 1, srca := 0, imm := 0x180000 })) (.fault 4 1572872) = true := by
  decide +kernel

theorem witness_IllegalHalts :
    verdictIs base (.ldi (at0 { dst := 0x40, imm := 1 })) (.fault 1 (BitVec.ofNat 64 16)) = true ∧
    opcodeDefined 0xFF = false ∧ verdict (at0 {}) (needsIllegal (at0 {}) base) base = .fault 1 (BitVec.ofNat 64 0) ∧ (base.streamAt 0 .F).run = true := by
  decide +kernel

/-- An unaligned SLD past the end (ALIGN before LS_RANGE), and one that also meets an uncorrectable word. -/
theorem witness_LowestFault :
    (needsSld (at0 { dst := 1, srca := 0, imm := 0x180001 }) base).faults ≠ [] ∧
    verdict (at0 { dst := 1, srca := 0, imm := 0x180001 }) { needsSld (at0 { dst := 1, srca := 0, imm := 0x180001 }) base with faults := [] } base = .run ∧
    verdict (at0 { dst := 1, srca := 0 } { lsUncorr := [0] }) { needsSld (at0 { dst := 1, srca := 0 } { lsUncorr := [0] }) base with faults := [] } base = .fault 0x21 0 := by
  decide +kernel

def brewState : State := withF fun x => { x with brew := { phase := .open_, depth := 1 } }
theorem witness_FencesSpill : [.step (at0 {}), .fence (at0 {}), .end_ (at0 {}), .pin (at0 { dst := 1, srca := 0, imm := 7 }), .unpin (at0 { srca := 0, imm := 7 }),
      .clIssue (at0 { srca := 0 }), .upIssue (at0 { srca := 0 }), .gather (at0 { dst := 0, srca := 0, ext := 0x2000 })].all
      (fun c => isFenceInstr c && verdictIs brewState c (.spill 4)) = true ∧ (brewState.streamAt 0 .F).halt = none := by
  decide +kernel

/-- A stream at step 1 with step 0 open, and with step 0 closed. -/
def stepState (oldest : Nat) : State := withP (fun p => { p with s0 := some 0, oldest := oldest }) (withF fun x => { x with step := 1 })
theorem witness_StepStalls :
    verdict (at0 {}) { needsStep (at0 {}) (stepState 0) with stall := none } (stepState 0) = .run ∧ ((stepState 0).partAt 0).oldest + 1 ≤ ((stepState 0).streamAt 0 .F).step.toNat ∧
    verdict (at0 {}) { needsStep (at0 {}) (stepState 1) with stall := none } (stepState 1) = .run ∧ ((stepState 1).streamAt 0 .F).step.toNat < ((stepState 1).partAt 0).oldest + 1 := by
  decide +kernel

/-- FP8 operands at slices 0 and 64 of local store. -/
theorem witness_MmaIssue : runsC base (.mmaF (at0 { dst := 0xC0, ext := 0x0330000000080000 })) = true := by
  decide +kernel

theorem witness_MmaCompletes : ((mmaState [] [mma0 128]).tileAt 0).array = [mma0 128] ∧ ((mmaState [] [mma0 128]).streamAt 0 .F).run = true := by
  decide +kernel

/-- A bank of stream F with contents 0, whose tallies R57 excludes. -/
def bankState : State := withT fun t => { t with bank := [(0, { owner := some .F, noTally := (List.range 128).map fun m => (m, true) })] }
theorem witness_Banks : [.accZero (at0 { dst := 0xC0, func := 1, imm := 0x3FF }), .accOut (at0 { srca := 0xC0, srcb := 0, ext := 0x2C000000 }),
    .accOut (at0 { srca := 0xC0, srcb := 0, ext := 0 }), .expscan (at0 { dst := 1, ext := 0x000CC01000002000 })].all (runsC bankState) = true ∧
    extF (at0 { srca := 0xC0, srcb := 0, ext := 0x2C000000 }).word 93 90 = 11 := by
  decide +kernel

theorem witness_BankOwnership : [.accAcq (at0 { dst := 0xC1 }), .accAcq (at0 { dst := 0xC0 }), .accRel (at0 { dst := 0xC0 }), .accRel (at0 { dst := 0xC1 })].all (runsC base) = true ∧
    runsC (withT fun t => { t with bank := [(0, { owner := some .B })] }) (.accAcq (at0 { dst := 0xC0 })) = true := by
  decide +kernel

/-- ACC.MERGE of a slice of zero records into a bank of anchor 0. -/
def mergeState : State := withT fun t => { t with bank := [(0, { owner := some .F, anchor := 0 })] }
theorem aux_rdZero (n k : Nat) (f : Nat → Byte) (h : ∀ i, f i = 0) : rdOf ((List.range n).map f).toArray k = 0 := by
  simp only [rdOf, Array.getD_eq_getD_getElem?, List.getElem?_toArray, List.getElem?_map]
  cases (List.range n)[k]? <;> simp [h]
theorem aux_lsZero (t : Tile) (off n k : Nat) (hl : t.ls = []) (hb : (t.streamAt .F).brew.lsBytes = []) : rdOf (t.lsRead .F off n).toArray k = 0 := by
  unfold Tile.lsRead
  exact aux_rdZero n k _ fun i => by simp [hl, hb, Map.get]
theorem aux_sixteen : leNat ((List.range 16).map fun _ => (0 : Byte)) = 0 := by decide
theorem aux_mergeSlice (e : Nat) : w96At (at0 { dst := 0xC0 }) mergeState e = 0 := by
  have h : (fun k => rdOf ((mergeState.tileAt (at0 { dst := 0xC0 }).tile).lsRead (at0 { dst := 0xC0 }).stream (256 * extF (at0 { dst := 0xC0 }).word 76 64) 262144).toArray (16 * e + k)) =
      fun _ => 0 := funext fun k => aux_lsZero _ _ _ _ (by decide +kernel) (by decide +kernel)
  exact (congrArg (fun f => leNat ((List.range 16).map f)) h).trans aux_sixteen
theorem aux_find {p : Nat → Bool} (n : Nat) (h : ∀ e, p e = false) : (List.range n).find? p = none := by
  rw [List.find?_eq_none]; intro x _; simp [h x]
theorem aux_mergeFaults : mergeFaults (at0 { dst := 0xC0 }) mergeState = [] := by
  have hb : ((mergeState.tileAt (at0 { dst := 0xC0 }).tile).bankAt (rn (at0 { dst := 0xC0 }).word.dst)) = { owner := some .F, anchor := 0 } := by decide +kernel
  have hf : recFills 0 = 0 := by decide
  have h1 := aux_find 16384 (p := fun e => decide (bits (w96At (at0 { dst := 0xC0 }) mergeState e) 105 96 ≠ ({ owner := some .F, anchor := 0 } : Bank).anchor.toNat))
    (by intro e; rw [aux_mergeSlice]; decide)
  have h2 := aux_find 16384 (p := fun e => recBad 0 (w96At (at0 { dst := 0xC0 }) mergeState e)) (by intro e; rw [aux_mergeSlice]; decide)
  simp -decide only [mergeFaults, hb, aux_mergeSlice 0, hf, h1, h2]
  simp
theorem witness_Merge : Runs (at0 { dst := 0xC0 }) (needsAccMerge (at0 { dst := 0xC0 }) mergeState) mergeState := by
  have h : needsAccMerge (at0 { dst := 0xC0 }) mergeState =
      { writes := resAcc 0xC0, unreplay := true, lsR := [(0, 262144)], faults := ownerFault (at0 { dst := 0xC0 }) mergeState (rn 0xC0) } := by
    unfold needsAccMerge; rw [aux_mergeFaults]; decide +kernel
  rw [h]
  exact runs_of_runsB (by decide +kernel)

theorem witness_VectorOperations : [.vfp (at0 { dst := 0x80, srca := 0x81, srcb := 0xBF }), .vfma (at0 { dst := 0x80, srca := 0x80, srcb := 0x80 }),
    .vfun (at0 { dst := 0x80, srca := 0x80 }), .vint (at0 { dst := 0x80, srca := 0x80, srcb := 0x80 }), .vcmp (at0 { dst := 0x80, srca := 0x80, srcb := 0x80 }),
    .vsel (at0 { dst := 0x80, srca := 0x80, srcb := 0x80 }), .vbcast (at0 { dst := 0x80, srca := 0 }), .viota (at0 { dst := 0x80, srca := 0 }),
    .vld (at0 { dst := 0x80, srca := 0 }), .vext (at0 { dst := 1, srca := 0xBF, imm := 127 }), .vred (at0 { dst := 1, srca := 0x80, imm := 64 }),
    .vcvt (at0 { dst := 0x80, srca := 0x81, srcb := 0, ext := 0x6000 }), .vlds (at0 { dst := 0x80, ext := 0 })].all (runsC base) = true := by
  decide +kernel
/-! ## Witnesses: vector conversions, copies, brews, engines -/

theorem witness_VectorDispute :
    runsC base (.vfp (at0 { dst := 0x80, srca := 0x81, srcb := 0x82 } { mainErr := [(15, 1)] })) = true ∧ base.physOf 0 = some 0 ∧ 15 / 16 = (base.ptileAt 0).vxCount % 8 := by
  decide +kernel

/-- Widening from FP8 E4M3; a line of BF16. -/
theorem witness_VectorConversions :
    [.vcvt (at0 { dst := 0x80, srca := 0x81, func := 1, ext := 0x6000 }), .vlds (at0 { dst := 0x80, ext := 0x2000 })].all (runsC base) = true ∧
    vxFmt { dst := 0x80, ext := 0x2000 } = 1 ∧ vxFmt { dst := 0x80, ext := 0 } = 0 := by
  decide +kernel

/-- One FP8 slice between local store 0 and memory 0, and to local store of the same tile. -/
def copyWord : IWord := { srca := 1, ext := 0x19802000 }
theorem witness_CopiesIssue : [.copyIn (at0 copyWord), .copyOut (at0 copyWord), .copyTt (at0 copyWord)].all (runsC base) = true := by
  decide +kernel

def copy0 (dir : CopyDir) : Copy := { cpOf dir (at0 copyWord) 0 base with id := 1, await := [], todo := [] }
def copyState (dir : CopyDir) : State := withT fun t => { t with copyQ := [copy0 dir] }
theorem witness_DeferredFaults :
    ((copyState .out).tileAt 0).copyQ[0]? = some (copy0 .out) ∧ (copyState .out).copyReady 0 (copy0 .out) = true ∧
    ((copy0 .out).lsReads 0).findSome? (fun r => ((copyState .out).tileAt r.1).badWord { lsUncorr := [2047] } [r.2]) = some 2047 ∧
    ((withT fun t => { t with deferred := [{ stream := .F, pc := 0, code := 0x21, detail := 0 }] }).streamAt 0 .F).run = true := by
  decide +kernel

theorem witness_CopiesComplete : [CopyDir.in_, CopyDir.out, CopyDir.tt].all (fun d =>
    ((copyState d).copyReady 0 (copy0 d)) && ((copy0 d).lsReads 0).all (fun r => (((copyState d).tileAt r.1).badWord {} [r.2]).isNone) &&
    ((copyState d).eccRead {} ((copyState d).copyReads 0 (copy0 d))).2.isNone) = true ∧ (copy0 .out).count = 1 ∧ (copy0 .out).inBrew = false := by
  decide +kernel

theorem witness_EqualFormatsMove : [CopyDir.in_, CopyDir.tt].all (fun d => decide ((copy0 d).members = [0] ∧ (copy0 d).count = 1 ∧ (copy0 d).lfmt = (copy0 d).mfmt ∧
    (copy0 d).lfmt ≠ 12 ∧ isMx (copy0 d).lfmt = false ∧ (copy0 d).trans = false)) = true := by
  decide +kernel

def gather0 (ended : Option (Nat × Nat × BitVec 32)) : Op :=
  { id := 1, kind := 8, part := 0, step := 0, ended := ended,
    joiners := [{ tile := 0, rank := 0, pc := 0, addr := 0, sigen := false, k := 0, word := { dst := 1, srca := 1, ext := 0x19802000 } }],
    counts := [1], contrib := [(0, 0, List.replicate 16640 0)] }
theorem witness_GathersComplete : (gather0 (some (7, 0, 0))).kind = 8 ∧ (gather0 none).complete = true ∧ (gather0 none).ended = none ∧
    (({ base with ops := [gather0 none] } : State).opOf 1).isSome = true := by
  decide +kernel

theorem witness_BrewOpens : runsC base (.brewOpen (at0 { dst := 11 })) = true ∧
    runsC (withF fun x => { x with brew := { phase := .open_, depth := 3 } }) (.brewOpen (at0 { dst := 0 })) = true ∧ (base.streamAt 0 .F).brew.depth = 0 := by
  decide +kernel

/-- A nested pour; the outermost one with a journal; an abort. -/
def pourState (d : Nat) : State := withP (fun p => { p with jbase := 1 }) (withF fun x => { x with brew := { phase := .open_, depth := d } })
theorem witness_BrewPours : runsC (pourState 2) (.brewPour (at0 {})) = true ∧ runsC (pourState 1) (.brewPour (at0 {})) = true ∧
    runsC (pourState 1) (.brewAbort (at0 { imm := 0xFF })) = true := by
  decide +kernel

theorem witness_BrewCommits : ((withF fun x => { x with brew := { phase := .poured, depth := 1, lsGran := [0], lsBytes := [(255, some 7)] } }).streamAt 0 .F).brew.phase = .poured := by
  decide +kernel

/-- One line at 64 to write back, with its slot at 0x100000. -/
def wbState : State := withF fun x => { x with wb := some { serial := 1, lines := [64], bytes := List.replicate 64 1, slot := 0x100000 } }
theorem witness_BrewWritesBack : (wbState.streamAt 0 .F).wb = some { serial := 1, lines := [64], bytes := List.replicate 64 1, slot := 0x100000 } ∧
    (List.range 8).all (fun k => decide (place wbState.pkg (0x100000 + k) = .mem (0x100000 + k))) = true ∧ ([64] : List Nat).Nodup ∧ (0x100000 + 7) / 64 * 64 ∉ [64] := by
  decide +kernel

theorem witness_BrewSpills :
    ((withF fun x => { x with brew := { phase := .open_, depth := 1, conflict := true } }).streamAt 0 .F).brew.conflict = true ∧
    ((withF fun x => { x with brew := { phase := .open_, depth := 1 }, halt := some { reason := 1, safe := true } }).streamAt 0 .F).halt = some { reason := 1, safe := true } ∧
    ((withF (fun x => { x with brew := { phase := .open_, depth := 1 } }) (withT fun t => { t with noOpen := true })).tileAt 0).noOpen = true := by
  decide +kernel

/-- A job of one package; a descriptor of zeros at 0 (an all-reduce of no element), an update at 0x400 of shard 0 of tensor 0 by a sparse recipe at 0x500, a gather at 0x600. -/
def jobState : State :=
  { (withP (fun p => { p with job := true, tag := 1, map := { serials := [7] } })) with
    upe := [(0, { dir := [(0, { valid := true, part := 0, kind := 1, nslice := 1, base := 0x100000, version := 3 })] })],
    mem := [(0x408, 1), (0x411, 5), (0x501, 2), (0x51E, 0x80), (0x51F, 0x3F), (0x60C, 1)] }
def withS1 (a : Nat) (s : State) : State := s.modStream 0 .F fun x => x.writeS 1 (BitVec.ofNat 64 a)
theorem witness_EngineIssues :
    runsC (withS1 0 jobState) (.clIssue (at0 { srca := 1 })) = true ∧ (withS1 0 jobState).clBad 0 0 ((withS1 0 jobState).pkgRead 0 256) = none ∧
    runsC (withS1 0x400 jobState) (.upIssue (at0 { srca := 1 })) = true ∧
    (withS1 0x400 jobState).upBad 0 (jobState.pkgRead 0x400 256) (jobState.pkgRead 0x500 64) 0 = none ∧
    (withS1 0x400 jobState).upRefusal (jobState.pkgRead 0x400 256) (jobState.pkgRead 0x500 64) [(0, 0)] 0 = 0 ∧
    fld (jobState.pkgRead 0x400 256) 0x10 8 = 0x500 ∧ jobState.namedShards 0 (jobState.pkgRead 0x400 256) = some [(0, 0)] ∧
    runsC (withS1 0x600 jobState) (.gather (at0 { dst := 2, srca := 1, ext := 0x19802000 })) = true ∧ jobState.gaBad 0 1 (jobState.pkgRead 0x600 64) = none ∧
    jobState.combining 0 .F = none := by
  decide +kernel

/-- Without a job every descriptor's GROUP is refused; a descriptor with SHARDS 0 too. -/
theorem witness_BadDescriptors :
    runsC base (.clIssue (at0 { srca := 1 })) = true ∧ base.clBad 0 0 (base.pkgRead 0 256) = some 0 ∧
    runsC base (.upIssue (at0 { srca := 1 })) = true ∧ base.upBad 0 (base.pkgRead 0 256) (base.pkgRead 0 64) 0 = some 8 ∧
    runsC base (.gather (at0 { dst := 2, srca := 1, ext := 0x19802000 })) = true ∧ base.gaBad 0 1 (base.pkgRead 0 64) = some 0 := by
  decide +kernel

theorem witness_CombinedIssues : [.clIssue (at0 { srca := 1 }), .upIssue (at0 { srca := 1 }), .gather (at0 { dst := 2, srca := 1, ext := 0x19802000 })].all (runsC pairLoaf) = true ∧
    pairLoaf.combining 0 .F = some 0 ∧ 0 + 1 < (pairLoaf.loafTiles 0).length := by
  decide +kernel

/-- Step 0 left by the one running stream; a flushed entry of step 0, late when step 0 has closed. -/
def closeState (hv : Bool) : State :=
  withP (fun p => { p with job := true, s0 := some 0, stepped := [0], pctrl := if hv then 0x2E802 else 0xE802 })
    (withF (fun x => { x with step := 1 }) (withT fun t => { t with flushQ := [] }))
def flushState (oldest : Nat) : State :=
  withP (fun p => { p with s0 := some 0, oldest := oldest }) (withT fun t => { t with flushQ := [{ tensor := 7, step := 0, cnt := [(0, 1)] }] })
theorem witness_StepsClose : (closeState true).mayClose 0 = true ∧ (closeState false).mayClose 0 = true ∧ ((closeState true).partAt 0).hvalid = true ∧
    ((closeState false).partAt 0).hvalid = false ∧ base.mayClose 0 = false ∧ ((flushState 0).tileAt 0).flushPassed.flushQ = [{ tensor := 7, step := 0, cnt := [(0, 1)] }] ∧
    (flushState 0).tilePart 0 = some 0 ∧ ((flushState 1).partAt 0).oldest = 1 := by
  decide +kernel

def decideState : State :=
  { (withP fun p => { p with deciding := [{ step := 0, op := 1, slots := [], pctrl := 0x2E802, rows := [0], handoff := false }] }) with ops := [{ id := 1, kind := 10, part := 0, step := 0 }] }
theorem witness_BlendDecides : (decideState.partAt 0).deciding = [{ step := 0, op := 1, slots := [], pctrl := 0x2E802, rows := [0], handoff := false }] ∧ ([0] : List Nat).Nodup ∧ decideState.fw.handoff = false ∧
    decideState.opOf 1 = some { id := 1, kind := 10, part := 0, step := 0 } ∧ ({ id := 1, kind := 10, part := 0, step := 0 } : Op).complete = true := by
  decide +kernel

/-- Updates of the shard of `jobState`: sparse; PARTIAL with the recipe's digest; dense with a guard sum that is finite, and one that is not. -/
def upState (st : ShState) (d : List Byte) : State :=
  { jobState with
    upe := [(0, { dir := [(0, { valid := true, part := 0, kind := 1, nslice := 1, base := 0x100000, state := st, rdig := crc32c (jobState.pkgRead 0x500 64) })] })],
    ops := [{ id := 1, kind := 16, part := 0, step := 4, desc := d, shards := [(0, 0)], bf16 := true }] }
theorem witness_ShardsStart :
    ((upState .idle (jobState.pkgRead 0x400 256)).updateOf 0 0).isSome = true ∧ (upState .idle []).served 0 = true ∧ rSparse (jobState.pkgRead 0x500 64) = true ∧
    recipeOk (jobState.pkgRead 0x500 64) 4 = true ∧ layoutOk (jobState.pkgRead 0x500 64) ((upState .idle []).dirAt 0 0) = true ∧
    ((upState .partial_ []).dirAt 0 0).rdig = recipeDigest (jobState.pkgRead 0x500 64) ∧
    guardFactor (jobState.pkgRead 0x500 64) 0x7F800000 = none ∧ guardFactor (jobState.pkgRead 0x500 64) 0x3F800000 = some one := by
  decide +kernel

/-- The slice of a shard of one, its brew in journal slot 3. -/
def sliceState (b : SliceBrew) : State :=
  { (withP fun p => { p with jbase := 1 }) with
    upe := [(0, { cur := some { dir := 0, op := 1, slice := 1, brews := [b] }, dir := [(0, { valid := true, part := 0, nslice := 1, base := 0x100000, target := 5, state := .updating })] })] }
def brew0 : SliceBrew := { slice := 0, slot := 3 }
def poisonedState : State := { sliceState brew0 with poison := [(0x100000, true)] }
theorem witness_SlicesCommit :
    (sliceState brew0).served 0 = true ∧ ((sliceState brew0).partAt 0).jvalid = true ∧
    (((sliceState brew0).dirAt 0 0).readLines 0 0 ++ ((sliceState brew0).dirAt 0 0).writeLines 0 0).all
      (fun x => !(sliceState brew0).lineHeld x && !(sliceState brew0).locked x) = true ∧
    ((sliceState brew0).eccRead {} (((sliceState brew0).dirAt 0 0).readLines 0 0)).2 = none ∧ (poisonedState.eccRead {} ((poisonedState.dirAt 0 0).readLines 0 0)).2 = some 0x100000 ∧
    [brew0, { brew0 with conflict := true }, { brew0 with spilled := true, retries := 16 }, { brew0 with spilled := true, retries := 15 }, { brew0 with replays := 2 }].all
      (fun b => ((sliceState b).engineAt 0).cur.any fun c => decide (c.brews.find? (fun x => decide (x.slot = 3)) = some b)) = true ∧
    (((sliceState brew0).dirAt 0 0).writeLines 0 0).any ({ sliceState brew0 with locks := [(0x100000, 0, 0)] } : State).locked = true := by
  decide +kernel

def sliceDone : State := (sliceState brew0).modEngine 0 fun u => { u with cur := some { dir := 0, op := 1, slice := 1 } }
theorem witness_ShardsComplete : (sliceDone.engineAt 0).cur = some { dir := 0, op := 1, slice := 1 } ∧ (sliceDone.dirAt 0 0).n ≤ 1 ∧ (sliceDone.engineAt 0).wbs = [] ∧
    (sliceDone.eccRead {} ((List.range (sliceDone.dirAt 0 0).n).map ((sliceDone.dirAt 0 0).metaAt 0))).2 = none ∧
    (sliceDone.eccRead { memUncorr := [(sliceDone.dirAt 0 0).metaAt 0 0] } ((List.range (sliceDone.dirAt 0 0).n).map ((sliceDone.dirAt 0 0).metaAt 0))).2 ≠ none := by
  decide +kernel

def pinWaitState (w : List Nat) : State :=
  { base with
    upe := [(0, { pinWaited := w, dir := [(0, { valid := true, part := 0, nslice := 1, pins := 1, state := .waitpin })] })],
    ops := [{ id := 1, kind := 16, part := 0, step := 4, shards := [(0, 0)] }] }
theorem witness_PinWait : (((pinWaitState []).engineAt 0).dir.find? ((pinWaitState []).pinCrumbDue 0)).map (·.1) = some 0 ∧
    ((pinWaitState [1]).engineAt 0).dir.find? ((pinWaitState [1]).pinCrumbDue 0) = none ∧ (pinWaitState []).updateOf 0 0 = some { id := 1, kind := 16, part := 0, step := 4, shards := [(0, 0)] } ∧ (pinWaitState []).crumb.coalesce = [] := by
  decide +kernel

def due0 : DigestDue := { dir := 0, version := 8, digest := 1, part := 0, dgrp := 0 }
def guardOp : Op := { id := 1, kind := 9, part := 0, step := 0, counts := [1], contrib := [(0, 0, [0, 0, 0x80, 0x3F])] }
def digestState : State :=
  { jobState with
    upe := [(0, { due := [due0], dir := [(0, { valid := true, part := 0, version := 8 })] })],
    part := [(0, { valid := true, job := true, oldest := 9, s0 := some 8, chainAt := [(7, (1, true))] })] }
theorem witness_GuardsAndDigests : ({ base with ops := [guardOp, { id := 2, kind := 16, part := 0, step := 0, guardId := some 1 }] } : State).opOf 1 = some guardOp ∧
    (guardOp.contrib.find? fun c => decide (c.2.1 = 0)).isSome = true ∧
    (digestState.engineAt 0).due.find? (fun x => decide (x.dir = 0)) = some due0 ∧ ({ guardOp with ended := some (6, 0, 0) } : Op).ended.isSome = true ∧ ((digestState.partAt 0).cuts 0).isSome = true ∧
    ((digestState.partAt 0).chainBefore 8).isSome = true := by
  decide +kernel
/-! ## Witnesses: collectives, referees, migrations, proving, repair -/

def cmsg : CollMsg := { tag := 1, step := 0, group := 0, op := 0, flags := 1, seq := 0, lane := 0, src := 0, shape := 0, tensor := 0, offset := 0, data := [] }
def collState (ops : List Op) : State := { jobState with ops := ops, port := [(0, { state := .active })] }
theorem witness_CollectiveMessages :
    ((collState []).partAt 0).job = true ∧ ({ id := 1, kind := 0, part := 0, step := 0, lane := 0 } : Op).matches 0 cmsg = true ∧
    ((collState []).partAt 0).tagFor 0 = 1 ∧ ((collState []).partAt 0).fence.getLsbD ((collState []).portAt 0).lport = false ∧
    (collState []).earlyBytes + 40 + 0 ≤ earlySize ∧ ((collState []).partAt 0).seqOf 0 0 0 ≤ 0 ∧
    ((withP fun p => { p with job := true, fence := 1 }).partAt 0).fence.getLsbD 0 = true := by
  decide +kernel

def clOp (ended : Option (Nat × Nat × BitVec 32)) : Op := { id := 1, kind := 0, part := 0, step := 0, desc := List.replicate 256 0, addr := 0, ended := ended }
theorem witness_CollectivesComplete : (clOp none).complete = true ∧ (collState [clOp none]).clHas (clOp none) .updating = false ∧
    (collState [clOp none]).clHas (clOp none) .partial_ = false ∧ clDshard (clOp none).desc = false ∧ ((collState []).partAt 0).hvalid = false ∧
    place (collState []).pkg 248 = .mem 248 ∧ (clOp (some (1, 2, 3))).ended = some (1, 2, 3) := by
  decide +kernel

/-- One SHARD move of one chunk within the package, from entry 0 of engine 0 to entry 1. -/
def kneadOp : Op :=
  { id := 1, kind := 5, part := 0, step := 0,
    desc := List.replicate 72 0 ++ [1, 0, 0, 0] ++ List.replicate 180 0 ++ [0, 0, 0, 0, 1, 0, 0, 0] ++ List.replicate 8 0 ++ [0, 0, 1, 0, 0, 0, 0, 0] ++ [1, 0, 0, 0, 1, 0, 0, 0],
    contrib := [(0, 0, List.replicate 65600 0)] }
theorem witness_ShardMoves : (movesOf kneadOp.desc)[0]?.isSome = true ∧ ((movesOf kneadOp.desc)[0]?.any fun m => m.shard && decide (m.drank = 0 ∧ m.srank = 0 ∧ m.n = 1) && kneadOp.moveHere 0 m &&
    decide ((entEngine m.sent, entIndex m.sent) ≠ (entEngine m.dent, entIndex m.dent))) = true := by
  decide +kernel

def lost0 : LostMsg := { port := 0, part := 0, dest := 1, vc := 0, msg := cmsg }
/-- A message lost on port 0, with port 63 on its path; with no port at all; one unmatched in the early buffer. -/
def lostState (ports : Map Port) : State :=
  { (withP fun p => { p with job := true, pairs := 0xFFFFFFFF, map := { ext := [2], axis := [0], serials := [0, 1] } }) with
    port := ports, lost := [lost0], early := [(0, 0, cmsg)], ops := [{ id := 1, kind := 0, part := 0, step := 0, lane := 0 }] }
theorem witness_LostMessages :
    (List.range nPorts).find? (fun n => decide (n ≠ 0) && (lostState [(63, { state := .active, dir := 0 })]).portServes 0 ((lostState []).msgAxes 0 cmsg) n) = some 63 ∧
    (lostState []).lost.find? (fun x => (({ id := 1, kind := 0, part := 0, step := 0, lane := 0 } : Op).matches x.part x.msg) && ((lostState []).pathPort x.part ((lostState []).msgAxes x.part x.msg)).isNone) =
      some lost0 ∧ (lostState []).early.any (fun e => decide (e.1 = 0 ∧ e.2.1 = 0 ∧ vcOf e.2.2.op.toNat = vcOf 0)) = true := by
  decide +kernel

/-- A disputed wave of tile 0, with bench tile 1 to referee, and with none; a disputed vector result. -/
def held0 : Held := { mma := mma0 127, wave := 127, errs := [(0, 1)], chkErr := 0 }
def heldState (bench : Bool) : State :=
  { (withT fun t => { t with held := some held0, array := [mma0 127] }) with
    ptile := (0, { state := .active, logical := 0 }) :: if bench then [(1, { state := .bench })] else [] }
theorem witness_RefereedWaves : ((heldState true).tileAt 0).disputed = some (.inl held0) ∧ (heldState true).refereeOf 0 0x8000 [] = some 1 ∧
    (heldState false).refereeOf 0 0x8000 [] = none ∧ ((heldState true).streamAt 0 .F).loaf = 0x8000 := by
  decide +kernel

def vx0 : VxHeld := { id := 1, stream := .F, pc := 0, dstV := some 63, dstS := none, main := List.replicate 128 0, truth := List.replicate 128 0, shadow := [(127, 0)], group := 7, lane := 127, k := 7 }
theorem witness_RefereedLanes : (match ({ (heldState true) with tile := [(0, { tile0 with vxHeld := [vx0] })] } : State).tileAt 0 |>.disputed with | some (.inr h) => decide (h.dstV = some 63 ∧ h.main.length = 128) | _ => false) = true ∧
    ({ (heldState true) with tile := [(0, { tile0 with vxHeld := [vx0] })] } : State).refereeOf 0 0x8000 [] = some 1 := by
  decide +kernel

/-- Tile 0 on a fenced physical tile, with and without a bench tile; a rotation that is due, allowed, and held back by a copy. -/
def fencedState (bench : Bool) : State := { base with ptile := (0, { state := .fenced, logical := 0 }) :: if bench then [(1, { state := .bench })] else [] }
def rotState (q : List Copy) : State :=
  { (withT fun t => { t with copyQ := q, boundaryAt := some 0 }) with die := [(0, { released := true })], ptile := [(0, { state := .active, logical := 0 }), (1, { state := .bench }), (2, { state := .bench })] }
theorem witness_TilesMove : [true, false].all (fun b =>
      decide (((fencedState b).tmap.find? fun e => e.2.valid && decide ((fencedState b).physOf e.1 = some 0)) = some (0, { valid := true })) && (fencedState b).containedAt 0) = true ∧
    (fencedState true).oldestBench 0 = some 1 ∧ (fencedState false).oldestBench 0 = none ∧ (fencedState false).physIn 0 .proving = [] ∧
    (rotState []).rotationDue 0 = some (0, 1) ∧ (rotState []).mayMigrate 0 = true ∧ (rotState [copy0 .in_]).rotationDue 0 = some (0, 1) ∧ (rotState [copy0 .in_]).mayMigrate 0 = false := by
  decide +kernel

def migState : State := { base with tmap := [(0, { valid := true, migrating := true, dest := some 155 })] }
theorem witness_MigrationsComplete : migState.physOf 0 = some 0 ∧ (migState.tmapAt 0).dest = some 155 ∧ 155 / nPhys = tileDie 0 := by
  decide +kernel

/-- Proving runs of physical tile 1: a pack whose one rated segment, stress segment, sweep or oven segment is current. -/
def provPack (seg : Segment) : Pack := { ver := 1, rotation := [seg], window := [{ pattern := 9, kind := 2, trim := 0, dmargin := 0, oven := 0, dur := 1 }], sigs := [(0, 5), (9, 6)] }
def provState (r : ProvRun) : State := { base with ptile := [(0, { state := .active, logical := 0 }), (1, { state := .proving, run := some r })], die := [(0, { provingM := 1 })] }
def seg0 (kind : Nat) (dm oven : Nat) : Segment := { pattern := 0, kind := kind, trim := 0, dmargin := dm, oven := oven, dur := 1 }
theorem witness_ProvingSegments :
    [seg0 0 0 0, seg0 1 0xFF 0, seg0 1 0 15].all (fun g => decide ((({ pack := provPack g } : ProvRun).seg = some g)) && ((provState { pack := provPack g, repeated := true }).ptileAt 1).run.isSome) = true ∧
    ((({ pack := provPack (seg0 0 0 0) } : ProvRun).pack.sigs.find? fun e => decide (e.1 = 0)).map (·.2)).getD 0 = 5 ∧
    ((provState {}).dieAt 0).dmFloor ≤ 6 ∧ min 15 ((provState {}).dieAt 0).ovenMax ≤ 13 + 2 := by
  decide +kernel

def windowState : State :=
  { (withT fun t => { t with boundaryAt := some 0 }) with die := [(0, { released := true, rotStopped := true })], fw := { base.fw with pack := provPack (seg0 0 0 0) } }
theorem witness_ProvingOutcomes :
    [{ done := true, ratedFail := true }, { done := true }].all (fun (r : ProvRun) => decide (((provState r).ptileAt 1).run = some r)) = true ∧
    windowState.rotationNext 0 = some 0 ∧ windowState.mayMigrate 0 = true ∧ windowState.physOf 0 = some 0 ∧ (windowState.dieAt 0).windowEn = true ∧
    (windowState.fw.pack.window.zip [(6 : Word)]).all (fun w => decide (w.2 = 6)) = true := by
  decide +kernel

/-- The second and the third localisation of row 5; a repair record that is written. -/
def repairState (n : Nat) : State := { base with ptile := [(1, { state := .bench, pending := true, lineCount := [(5, n)] })] }
theorem witness_Repairs : ((repairState 1).ptileAt 1).pending = true ∧ Map.get 0 ((repairState 1).ptileAt 1).lineCount 5 + 1 < 3 ∧
    3 ≤ Map.get 0 ((repairState 2).ptileAt 1).lineCount 5 + 1 ∧ 0 < ((repairState 2).ptileAt 1).rowsFree ∧ ((repairState 2).dieAt 0).freeFuse = some 0 ∧
    fuseWord 2 5 1 ≠ 0 ∧ (fuseWord 2 5 1).getLsbD 31 = false ∧ bits (fuseWord 2 5 1).toNat 30 28 = 2 ∧ bits (fuseWord 1 0xFF 1).toNat 30 28 = 1 := by
  decide +kernel

theorem witness_DiesStart :
    (({ base with die := [(0, { pllLock := true })], fw := { base.fw with stage := 2 } } : State).dieAt 0).pllLock = true ∧
    ({ base with die := [(0, { pllLock := true })], fw := { base.fw with stage := 2 } } : State).fw.rcOnly = false ∧
    (({ base with die := [(0, { tested := true })] } : State).dieAt 0).released = false ∧ (60 * 60 ≤ 36 * 100 ∧ 35 * 100 < 60 * 60) := by
  decide +kernel

/-- The last line of a stack; the repair threshold of four corrected reads, with one resource and with none. -/
def scrubState (pos ce left : Nat) : State := { base with stack := [(0, { pos := pos, ce := ce, pprLeft := left })] }
theorem witness_StacksMaintained : ((scrubState (stackLines - 1) 0 0).stackAt 0).pos + 1 = stackLines ∧ ((scrubState 0 0 0).stackAt 0).pos + 1 ≠ stackLines ∧
    4 ≤ ((scrubState 0 4 1).stackAt 0).ce ∧ ((scrubState 0 4 0).stackAt 0).pprLeft = 0 ∧ (scrubState 0 0 0).poisoned 0 = false := by
  decide +kernel

def pitchState : State := { base with stack := [(0, { gran := [(79, 0x80000000)], pitchPend := [(79, 3)] })], mem := [(79 * 2 ^ 30, 1)] }
theorem witness_PitchApplied : (pitchState.stackAt 0).pitchPend.find? (fun e => decide (e.1 = 79)) = some (79, 3) ∧ pitchState.granBusy 0 79 = false ∧ pitchState.memoryWf := by
  unfold State.memoryWf; decide +kernel

def readState : State := { (copyState .in_) with host := [(0, { reads := [(3, 0, 1, 4096, 64)] })] }
theorem witness_HostReads : readState.readOf .A 3 = some (3, 0, 1, 4096, 64) ∧ ((readState.tileAt 0).copyQ.find? (fun c => decide (c.id = 1))).isSome = true := by
  decide +kernel

def boardState (waiting : Bool) : State := { (copyState .in_) with board := [{ tag := 7, tile := 0, copy := 1, addr := 64, index := 0, write := none, waiting := waiting }] }
theorem witness_BoardLines :
    jobState.boardPart { tag := 1, addr := 64, write := none } = some 0 ∧ jobState.boardPart { tag := 2, addr := 64, write := none } = none ∧ jobState.lockOf 64 = none ∧
    jobState.pitchHeld 64 = false ∧ jobState.poisoned 64 = false ∧
    ((boardState false).board.find? (fun o => decide (o.tag = 7 ∧ o.index = 0) && !o.waiting)).isSome = true ∧
    ((boardState true).board.find? (fun o => decide (o.tag = 7) && o.waiting)).isSome = true := by
  decide +kernel

/-! ## Witnesses: ports and modules -/

def withPort (n : Nat) (q : Port) (s : State := base) : State := s.modPort n fun _ => q
def tx0 (vc : Nat) : TxFlit := { vc := vc, som := true, eom := true, len := 240, data := [1] }
def act0 : Port := { state := .active, discovered := true, width := 4, lanesOk := 15 }
/-- Port 63 ready for a flit slot with a rewound flit, a NAK due, a HELLO due, DATA of VC 7 ready with a credit, and DATA without one. -/
def slotCases : List Port :=
  [{ act0 with resend := [4095], held := [(4095, tx0 8)] }, { act0 with nakDue := true }, { act0 with helloDue := true },
   { act0 with txSeq := 4095, queue := [tx0 7], credits := [(7, 1)] }, { act0 with queue := [tx0 7] }]
def slotAt (k : Nat) : Port := slotCases.getD k {}
theorem witness_FlitSlots :
    slotCases.all (fun q => decide (q.state = .active ∧ q.discovered = true ∧ q.txSeq < 4096 ∧ (∀ h ∈ q.held, h.1 < 4096 ∧ h.2.vc ≤ 8 ∧ h.2.len ≤ 240) ∧
      (∀ f ∈ q.queue, f.vc < 8 ∧ f.len ≤ 240) ∧ q.darkReq = false)) = true ∧
    ((slotAt 0).resend = [4095] ∧ (slotAt 0).held.find? (fun h => decide (h.1 = 4095)) = some (4095, tx0 8)) ∧
    ((slotAt 1).resend = [] ∧ (slotAt 1).nakDue = true) ∧ ((slotAt 2).nakDue = false ∧ (slotAt 2).helloDue = true) ∧
    ((slotAt 3).helloDue = false ∧ (slotAt 3).nextVc = some 7 ∧ (slotAt 3).ready 7 = some (tx0 7)) ∧
    ((slotAt 4).nakDue = false ∧ (slotAt 4).helloDue = false ∧ ∀ v, v < 8 → ((slotAt 4).ready v).isSome = true → Map.get 0 (slotAt 4).credits v = 0) ∧
    (withPort 63 (slotAt 0)).portAt 63 = (slotAt 0) ∧ base.safeState = false := by
  decide +kernel

/-- A flit with a good CRC. -/
def flitOf (hdr : Nat) (payload : List Byte := []) : Flit :=
  let f : Flit := { hdr := BitVec.ofNat 96 hdr, payload := payload, crc := 0 }
  { f with crc := crc32c (flitCovered f) }
/-- TYPE, VC, SOM and EOM, SEQ, ACK, ACKV, LEN of a header (Table 11-4). -/
def hdrWord (ty : Nat) (vc : Nat := 0) (se : Nat := 3) (seq : Nat := 0) (ack : Nat := 0) (ackv : Nat := 0) (len : Nat := 240) : Nat :=
  ty * 2 ^ 92 + vc * 2 ^ 89 + se * 2 ^ 87 + seq * 2 ^ 75 + ack * 2 ^ 63 + ackv * 2 ^ 62 + len * 2 ^ 43
def arriving : List Flit :=
  [{ flitOf (hdrWord 0) with fecBad := true }, flitOf (hdrWord 0), flitOf (hdrWord 1 6 3 0), flitOf (hdrWord 1 6 2 0), flitOf (hdrWord 1 0 3 4095), flitOf (hdrWord 3), flitOf (hdrWord 4)]
def arrAt (k : Nat) : Flit := arriving.getD k (flitOf 0)
theorem witness_FlitArrivals :
    act0.trained = true ∧ act0.fails (arrAt 0) = true ∧ (arriving.drop 1).all (fun f => !act0.fails f) = true ∧
    arriving.map (fun f => hdrType f.hdr) = [0, 0, 1, 1, 1, 3, 4] ∧ hdrSeq (arrAt 2).hdr = act0.rxNext ∧ hdrEom (arrAt 2).hdr = true ∧
    hdrSeq (arrAt 3).hdr = 0 ∧ hdrEom (arrAt 3).hdr = false ∧ hdrVc (arrAt 3).hdr = 6 ∧ hdrSeq (arrAt 4).hdr = 4095 ∧ hdrAckv (arrAt 5).hdr = false ∧
    hdrSeq (arrAt 6).hdr = act0.rxNext ∧ [({ act0 with rewinds := 15 } : Port), { act0 with rewinds := 15, stormed := true }].all (fun q => q.trained && !q.fails (arrAt 5)) = true := by
  decide +kernel

/-- Port 0 in HELLO, one with SEEN sent; the HELLOs that reach it. -/
def helloPort (seen : Bool) : Port := { state := .hello, seenSent := seen, dir := 0, plan1 := 0x8000000000000000#64 ||| 0x3F000000000000#64, plan0 := 7 }
def helloState (rel : Bool) (mine : Bool) : State :=
  withPort 0 (if mine then helloPort true else { helloPort true with plan1 := 0 }) (withPort 4 { helloPort true with state := .down }
    (withP fun p => { p with pairs := 5, planValid := true, relabel := if rel then 1 else 0 }))
def helloFlit (serial : Word) (port maj : Byte) (flags : Byte := 1) (fw : BitVec 16 := 0) (rx : BitVec 16 := 0) : Flit :=
  flitOf (hdrWord 2) (({ serial := serial, port := port, flags := flags, aqpMaj := maj, fwMaj := fw, rxNext := rx } : Hello).encode)
def helloGood : Flit := helloFlit 7 63 1
theorem witness_Discovery :
    [(helloPort false, helloGood), (helloPort true, helloFlit 7 63 1 0), (helloPort true, helloFlit 7 63 2), (helloPort true, helloFlit 7 63 1 1 0xFFFF), (helloPort true, helloGood)].all
      (fun x => decide (x.1.state = .hello ∧ x.1.discovered = false ∧ x.1.darkKept = false ∧ x.1.fails x.2 = false ∧ hdrType x.2.hdr = 2)) = true ∧
    Hello.decode helloGood.payload = { serial := 7, port := 63, flags := 1, aqpMaj := 1 } ∧ (Hello.decode (helloFlit 7 63 2).payload).aqpMaj = 2 ∧
    (Hello.decode (helloFlit 7 63 1 0).payload).flags = 0 ∧ (Hello.decode (helloFlit 7 63 1 1 0xFFFF).payload).fwMaj.toNat = 0xFFFF := by
  decide +kernel
theorem witness_DiscoveryOutcomes :
    (0 : Nat) = bits base.fw.version.toNat 31 16 ∧ base.pairPart 0 = none ∧ (helloState false true).pairPart 0 = some 0 ∧ ((helloState false true).partAt 0).planValid = true ∧
    (((helloState false true).modPart 0 fun p => { p with planValid := false }).partAt 0).planValid = false ∧
    ((helloState false true).portAt 0).planned 7 63 = true ∧ (∀ m, m < nPorts → m ≠ 0 → ((helloState false true).portAt m).state ≠ .active) ∧
    (((withPort 0 { act0 with lport := 63 } (withPort 63 (helloPort true))).portAt 0).state = .active ∧ ((withPort 63 (helloPort true)).portAt 63).planned 7 63 = true) ∧
    ((helloState false false).portAt 0).planned 7 63 = false ∧ ((helloState false false).portAt 4).planned 7 63 = true ∧ ((helloState false false).portAt 4).dir = ((helloState false false).portAt 0).dir ∧
    ((helloState false false).partAt 0).relabel.getLsbD 0 = false ∧ ((helloState true false).partAt 0).relabel.getLsbD 0 = true ∧
    (∀ m, m < nPorts → m ≠ 0 → (({ helloState false false with port := [(0, { helloPort true with plan1 := 0 })] } : State).portAt m).planned 7 63 = false) := by
  decide +kernel

def resumePort : Port :=
  { state := .retrain, resume := true, holding := true, seenSent := true, peerSerial := 7, peerPort := 63, held := [(4094, tx0 0), (4095, tx0 1), (0, tx0 2)] }
theorem witness_LinkResumes :
    resumePort.state = .retrain ∧ resumePort.resume = true ∧ resumePort.fails (helloFlit 7 63 1 2 0 4095) = false ∧ hdrType (helloFlit 7 63 1 2 0 4095).hdr = 2 ∧
    hdrAckv (helloFlit 7 63 1 2 0 4095).hdr = false ∧ Hello.decode (helloFlit 7 63 1 2 0 4095).payload = { serial := 7, port := 63, flags := 2, aqpMaj := 1, rxNext := 4095 } ∧
    resumePort.held = [(4094, tx0 0)] ++ (4095, tx0 1) :: [(0, tx0 2)] ∧ (∀ y ∈ [(4094, tx0 0)], y.1 ≠ 4095) := by
  decide +kernel

def litState (q : Port) : State := { withPort 63 q with laser := [(15, { lit0 := true, lit1 := true })] }
theorem witness_PortTimers :
    ([({ state := .hello, attempts := 1 } : Port), { state := .hello, attempts := 2 }].all fun q => decide (q.state = .hello ∧ q.discovered = false)) = true ∧
    ((litState { state := .down, reason := 1 }).portAt 63).state = .down ∧ (litState { state := .down, reason := 1 }).litAt 63 = true ∧
    (litState { state := .down, reason := 1 }).fw.handoff = false ∧ ((litState { state := .down, reason := 9 }).portAt 63).reason = 9 := by
  decide +kernel

theorem witness_PortTraining :
    ([({ state := .train, fullTrain := true } : Port), { state := .train, lanesOk := 15 }, { state := .train, fullTrain := true, attempts := 2 }].all fun q => decide (q.state = .train)) = true ∧
    ((15 : BitVec 4) &&& 8 ≠ 0) ∧ ((3 : BitVec 4) &&& 12 = 0) ∧
    ([({ state := .retrain, lanesOk := 15 } : Port), { state := .retrain, holding := true }].all fun q => decide (q.state = .retrain ∧ q.resume = false)) = true := by
  decide +kernel

theorem witness_LanesAndLosses :
    (List.replicate 4 ({ bitErrs := 1, symbols := 10 ^ 9, lostLock := false } : LaneStat)).all (fun l => !LaneStat_bad l) = true ∧ act0.retry - act0.retryAt ≤ 64 ∧ base.fw.handoff = false ∧
    act0.lanesOk.getLsbD 3 = true ∧ act0.lanesOk &&& ~~~(1#4 <<< 3) ≠ 0 ∧ widthOf (act0.lanesOk &&& ~~~(1#4 <<< 3)) ≠ act0.width ∧
    ((8 : BitVec 4).getLsbD 3 = true ∧ (8 : BitVec 4) &&& ~~~(1#4 <<< 3) = 0) ∧ act0.trained = true ∧ act0.holding = false ∧
    (({ state := .dark } : Port).state = .dark) ∧ (resumePort.state = .retrain ∧ resumePort.holding = true) ∧ ({ act0 with anchor := true } : Port).anchor = true := by
  decide +kernel

def darkUp (q : Port) : State := withPort 63 q (upP fun p => { p with pairs := 0x80000000 })
theorem witness_DarkPeriods :
    passesC (darkUp act0) (.dark (msg 0x86) 0x8000000000000000) = true ∧ passesC (darkUp act0) (.relight (msg 0x87) 0x8000000000000000) = true ∧
    passesC (darkUp act0) (.dark (msg 0x86) 1) = true ∧ passesC (darkUp act0) (.relight (msg 0x87) 1) = true ∧
    maskPorts 0x8000000000000000 = [63] ∧ maskPorts 1 = [0] ∧ (((darkUp act0).taken (msg 0x86)).partAt 0).valid = true ∧ (((darkUp act0).taken (msg 0x86)).partAt 0).pairs.getLsbD 31 = true ∧
    (((darkUp act0).taken (msg 0x86)).partAt 0).pairs.getLsbD 0 = false ∧ (((darkUp act0).taken (msg 0x86)).portAt 63).trained = true ∧
    (((darkUp resumePort).taken (msg 0x86)).portAt 63).state = .retrain ∧ (((darkUp { state := .dark }).taken (msg 0x87)).portAt 63).state = .dark ∧
    ({ act0 with darkReq := true, darkSent := true, darkRcvd := true, held := [(0, tx0 7)] } : Port).trained = true ∧ (∀ x ∈ [(0, tx0 7)], x.2.vc ≠ 8) := by
  decide +kernel

def frame (st ss ms : Nat) (ok : Bool := true) : Frame := { stream := st, streamSeq := ss, modSeq := ms, payload := [], ack := 0, crcOk := ok }
def modState (m : D2d) (l : DLink := {}) : State := { base with d2d := [(95, m)], dlink := [(7, l)], die := [(3, { released := true })] }
theorem witness_ModuleFrames :
    ((modState {}).moduleAt 95).carries = true ∧ ((modState {}).dieAt 3).heldReset = false ∧ (frame 0 0 0).crcOk = true ∧ (frame 0 0 0).modSeq = ((modState {}).moduleAt 95).rxNext ∧
    linkOf 23 = 1 ∧ ((modState {}).dlinkAt 7).waiting = [] ∧ (frame 0 0 0).streamSeq = Map.get 0 ((modState {}).dlinkAt 7).next 0 ∧
    (frame 0 1 0).streamSeq ≠ Map.get 0 ((modState {}).dlinkAt 7).next 0 ∧ ((modState {} { waiting := [frame 0 1 1] }).dlinkAt 7).waiting = [frame 0 1 1] ∧
    (frame 0 0 1).modSeq ≠ ((modState {}).moduleAt 95).rxNext ∧ (recent base.refTick ((modState {}).moduleAt 95).crcAt).length < 16 ∧
    16 ≤ (recent base.refTick ((modState { crcAt := List.replicate 16 0 }).moduleAt 95).crcAt).length := by
  decide +kernel

theorem witness_ModulesRetrain :
    ((modState {}).moduleAt 95).retired = false ∧ ((modState {}).moduleAt 95).off = false ∧ ((modState {}).dieAt 3).heldReset = false ∧
    (match exec (.d2dRetrain 3 23 [0, 1, 2, 3] []) (modState {}) with | .next t => decide (t.linkDegraded 3 1 < 5) | _ => false) = true ∧
    inHalf (decide (inHalf true [0, 1, 2, 3, 4] + inHalf true [] < inHalf false [0, 1, 2, 3, 4] + inHalf false [])) [0, 1, 2, 3, 4] ≤ 4 ∧
    4 < inHalf (decide (inHalf true (List.range 64) + inHalf true [] < inHalf false (List.range 64) + inHalf false [])) (List.range 64) ∧
    (match exec (.d2dRetrain 3 15 (List.range 64) []) { base with d2d := [(72, { retired := true }), (73, { retired := true }), (74, { retired := true }), (75, { retired := true })] } with
      | .next t => decide (5 ≤ t.linkDegraded 3 0) | _ => false) = true := by
  decide +kernel

/-! ## Witnesses: leases, partitions, programs, tables, shards -/

theorem witness_LeaseMessages :
    [Instr.leaseRenew (msg 1) 1, .leaseRelease (msg 1) 1].all (passesC (upP id)) = true ∧
    [Instr.leaseRenew (msg 1 0 (.port .B)) 128, .leaseRelease (msg 1 0 (.port .B)) 128].all (passesC (upP fun p => { p with owner := .B })) = true ∧
    (((upP id).taken (msg 1)).partAt 0).valid = true ∧ (∀ p, p < nParts → (1 : Byte).getLsbD p = true → p = 0) ∧
    ((upP id).taken (msg 1)).permits { msg 1 with part := 0 } .owner = true ∧ (128 : Byte).getLsbD 7 = true ∧
    ((upP fun p => { p with owner := .B }).taken (msg 1 0 (.port .B))).permits { msg 1 0 (.port .B) with part := 7 } .owner = false := by
  decide +kernel

def orphanState (ph : BrewPhase) : State := withF (fun x => { x with brew := { x.brew with phase := ph } }) (withP fun p => { p with state := .orphan })
theorem witness_LeasesExpire :
    ((withP fun p => { p with leaseOn := true }).partAt 0).leaseOn = true ∧ ((withP fun p => { p with leaseOn := true }).partAt 0).leaseLeft = 0 ∧
    (({ up with tile := [], part := [(7, { valid := true, leaseOn := true, owner := .B, state := .run })] } : State).runningOf 7 = []) ∧ up.stewardPort = some .A ∧
    ((withP fun p => { p with leaseLeft := 1 }).partAt 0).leaseLeft ≠ 0 ∧ ([BrewPhase.idle, .open_].all fun ph => ((orphanState ph).streamAt 0 .F).run &&
      decide ((((orphanState ph).partAt 0).state = .orphan ∧ ((orphanState ph).partAt 0).orphan ≠ 1) ∧ ((orphanState ph).streamAt 0 .F).brew.phase = ph)) = true := by
  decide +kernel

def setArgs (o : BitVec 2) (l : BitVec 16) (q : BitVec 13) : PartSetArgs := { owner := .B, orphan := o, orphanN := 0, lease := l, boardMask := 0, quota := q }
theorem witness_PartitionsSet :
    passesC up (.partSet (msg 0x20 7) (setArgs 0 1 4096)) = true ∧ passesC up (.partSet (msg 0x20 0) (setArgs 0 1 0)) = true ∧ passesC up (.partSet (msg 0x20 7) (setArgs 2 1 4097)) = true ∧
    ((up.taken (msg 0x20 7)).partAt 7).valid = false ∧ (∀ e, e < 12 → (up.taken (msg 0x20 7)).entriesUsed 7 e ≤ (4096 : BitVec 13).toNat) ∧ (4097 : BitVec 13).toNat = 4097 ∧
    ((up.taken (msg 0x20 0)).partAt 0).valid = true ∧ ((up.taken (msg 0x20 0)).partAt 0).owner ≠ .B ∧ (up.taken (msg 0x20 0)).ownsAny 0 = true := by
  decide +kernel

theorem witness_StewardSettings :
    [Instr.pitchSet (msg 0x23) 11 79 15, .provingCtrl (msg 0x90) 3 true true 15, .provingCtrl (msg 0x90) 3 true true 16, .maintenanceEnter (msg 0x91) 11,
      .maintenanceEnter (msg 0x91) 0, .maintenanceLeave (msg 0x91) 11].all (passesC up) = true ∧ pitchOk 15 = true ∧
    ((up.taken (msg 0x91)).stackAt 11).gran = [] ∧ ((up.taken (msg 0x91)).stackAt 11).fenced = false ∧ ((up.taken (msg 0x91)).stackAt 0).gran.any (fun g => granOwned g.2) = true ∧
    ((({ up with stack := [(11, { maint := true })] } : State).taken (msg 0x91)).stackAt 11).maint = true := by
  decide +kernel

theorem witness_ProgramsStart :
    passesC up (.start (msg 0x10) 0x8000 .U 0 7) = true ∧ (up.taken (msg 0x10)).ownsLoaf 0 0x8000 = true ∧ (up.taken (msg 0x10)).refDegraded 0x8000 = false ∧
    (up.taken (msg 0x10)).loafTiles 0x8000 = [0] ∧ ((up.taken (msg 0x10)).streamAt 0 .U).run = false ∧ (up.taken (msg 0x10)).ownsRegion 0 0 16 = true ∧
    (up.taken (msg 0x10)).deepAsleep = false ∧ (up.taken (msg 0x10)).ownsLoaf 0 0x8001 = false ∧ ((up.taken (msg 0x10)).streamAt 0 .F).run = true ∧
    ((up (withT fun t => { t with absent := true })).taken (msg 0x10)).refDegraded 0x8000 = true ∧ ((up (withT fun t => { t with absent := true })).taken (msg 0x10)).ownsLoaf 0 0x8000 = true ∧
    (up.taken (msg 0x10)).ownsRegion 0 0xFFFFFFFFFFF0 16 = false := by
  decide +kernel

theorem witness_ProgramsStop :
    passesC (up (orphanState .open_)) (.stop (msg 0x11) 0x8000 7) = true ∧ ((up (orphanState .open_)).taken (msg 0x11)).ownsLoaf 0 0x8000 = true ∧
    passesC (up (orphanState .open_)) (.park (msg 0x12)) = true ∧ passesC up (.park (msg 0x12)) = true ∧ ((up.taken (msg 0x12)).partAt 0).state ≠ .parked := by
  decide +kernel

theorem witness_CountersClear :
    passesC up (.idleClear (msg 0x13) 0x8000 0) = true ∧ (up.taken (msg 0x13)).ownsLoaf 0 0x8000 = true ∧ ((up.taken (msg 0x13)).loafTiles 0x8000).Nodup ∧
    ((up.taken (msg 0x13)).tileAt 0).idleClear = [] ∧ passesC up (.pinClear (msg 0x14) 5 0 1) = true ∧ ((up.taken (msg 0x14)).partAt 0).valid = true := by
  decide +kernel

theorem witness_UnitsJoin :
    passesC up (.partAdd (msg 0x21 0) 9 [575] [{ stack := 11, g := 79, pitch := 15 }] 0x80000000) = true ∧
    ((unitsOf [575] [{ stack := 11, g := 79, pitch := 15 }] 0x80000000).all fun x => !(up.taken (msg 0x21)).unitPending x && ((up.taken (msg 0x21)).unitOwner x).isNone) = true ∧
    ((up.taken (msg 0x21)).stackAt 11).maint = false ∧ (up.taken (msg 0x21)).unitsExist [575] [{ stack := 11, g := 79, pitch := 15 }] = true ∧
    (up.taken (msg 0x21)).deepAsleep = false ∧ passesC up (.partAdd (msg 0x21 7) 9 [0] [] 0) = true ∧ (up.taken (msg 0x21 7)).unitOwner (.tile 0) = some 0 := by
  decide +kernel

theorem witness_UnitsClose :
    passesC up (.partRemove (msg 0x22) 9 [0] [{ stack := 0, g := 0 }] 0) = true ∧
    ((unitsOf [0] [{ stack := 0, g := 0 }] 0).all fun x => !(up.taken (msg 0x22)).unitPending x && decide ((up.taken (msg 0x22)).unitOwner x = some 0)) = true ∧
    ((up.taken (msg 0x22)).partAt 0).jvalid = false ∧ ((up.taken (msg 0x22)).partAt 0).hvalid = false ∧ (up.taken (msg 0x22)).deepAsleep = false ∧
    unitsOf [0] [{ stack := 0, g := 0 }] 0 ≠ [] ∧ passesC up (.partRemove (msg 0x22) 9 [575] [] 0) = true ∧ (up.taken (msg 0x22)).unitOwner (.tile 575) ≠ some 0 ∧
    ((up { base with ptTile := [(0, { owned := true, pending := true })] }).taken (msg 0x22)).unitPending (.tile 0) = true := by
  decide +kernel

def switchState (x : PartUnit) (s : State := base) : State := s.modPart 0 fun p => { p with changes := [{ id := 9, units := [x] }] }
theorem witness_UnitsSwitch :
    ([PartUnit.tile 0, .granule 0 0, .pair 31].all fun x => ((switchState x).partAt 0).changes.find? (fun c => c.units.contains x && !c.switched.contains x) == some { id := 9, units := [x] } &&
      (switchState x).maySwitch x) = true ∧ base.replayDue = false ∧ (switchState (.tile 0) (orphanState .open_)).maySwitch (.tile 0) = false ∧
    (∀ o, o < nParts → o ≠ 0 → (base.partAt o).pairs.getLsbD 31 = false) := by
  decide +kernel

/-- Descriptor 5 as a RECT of die 0, row 0, column 0 to `hi`; as a LIST of references. -/
def rect (hi : Byte) : LoafArg := { index := 5, word0 := 0x9000000000000000, body := [1, 0, 0, 0, hi] }
def listOf (rs : List Byte) : LoafArg := { index := 5, word0 := 0x8000000000000000, body := BitVec.ofNat 8 (rs.length / 2) :: 0 :: rs }
theorem witness_LoavesWritten :
    [rect 0, rect 1, listOf [0, 0x80], listOf [0, 0x80, 0, 0x80], listOf [1, 0x80]].all (fun a => passesC up (.loafWrite (msg 0x30) [a]) && laValid a && !(up.taken (msg 0x30)).loafDenied (msg 0x30) a &&
      !laOutOfRange a && decide (laPart a = 0)) = true ∧
    (laKind (rect 0) = 1 ∧ rectTiles (laDesc (rect 0)) = [0] ∧ rectTiles (laDesc (rect 1)) = [0, 1]) ∧ (up.taken (msg 0x30)).tilePart 0 = some 0 ∧ (up.taken (msg 0x30)).tilePart 1 = none ∧
    (laKind (listOf [0, 0x80]) = 0 ∧ laCount (listOf [0, 0x80]) = 1 ∧ (laRefs (listOf [0, 0x80])).map refTile = [0] ∧ (laRefs (listOf [0, 0x80, 0, 0x80])).map refTile = [0, 0] ∧
      (laRefs (listOf [1, 0x80])).map refTile = [1] ∧ (laRefs (listOf [1, 0x80])).all refIsTile = true) ∧
    ((up.taken (msg 0x30)).loafAt 5).isCont = false ∧ ((up.taken (msg 0x30)).loafAt 5).contV = false ∧ ((up.taken (msg 0x30)).loafAt 5).busy = false ∧
    (up.taken (msg 0x30)).loafDenied (msg 0x30) { rect 0 with index := 1023 } = true ∧ passesC up (.loafWrite (msg 0x30) [{ rect 0 with index := 1023 }]) = true ∧
    laOutOfRange { rect 0 with body := [0] } = true := by
  decide +kernel
theorem witness_LoavesWritten_table : (up.taken (msg 0x30)).loaf = [] ∧ ∀ i, ∀ r ∈ ((up.taken (msg 0x30)).loafAt i).members, refIsTile r = true ∨ refIndex r ≠ 5 := by
  have h : (up.taken (msg 0x30)).loaf = [] := by decide +kernel
  refine ⟨h, fun i r hr => ?_⟩
  simp only [State.loafAt, h, Map.get] at hr
  exact absurd hr (by simp)

def loafState (busy : Bool) : State := { up with loaf := [(5, { valid := busy, kind := 1, dieMask := 1, busy := busy })] }
theorem witness_LoavesDeleted :
    passesC (loafState true) (.loafDelete (msg 0x31) 5) = true ∧ (((loafState true).taken (msg 0x31)).loafAt 5).busy = true ∧
    passesC (loafState false) (.loafDelete (msg 0x31) 5) = true ∧ ((loafState false).taken (msg 0x31)).loafHeld 5 = false ∧
    (((loafState false).taken (msg 0x31)).loafAt 5).isCont = false ∧ (((loafState false).taken (msg 0x31)).loafAt 5).contV = false ∧
    ((loafState false).taken (msg 0x31)).permits { msg 0x31 with part := 0 } .owner = true ∧
    (∀ e ∈ ((loafState false).taken (msg 0x31)).loaf, e.2.valid = true → ∀ r ∈ e.2.members, refIsTile r = true ∨ refIndex r ≠ 5) := by
  decide +kernel

theorem witness_BasesWritten :
    [Instr.hwinWrite (msg 0x40) 16 0 0, .hwinWrite (msg 0x40) 15 0x1000 0x10000, .bar2Map (msg 0x41) 8 0, .bar2Map (msg 0x41) 7 0x8000000040000000, .jbaseWrite (msg 0x42) 2,
      .jbaseWrite (msg 0x42) 1].all (passesC up) = true ∧
    ¬(16 ≤ 15 ∨ bits (0x1000 : Word).toNat 11 0 ≠ 0 ∨ bits (0x10000 : Word).toNat 63 41 ≠ 0 ∨ bits (0x10000 : Word).toNat 15 4 ≠ 0 ∨ 16777216 < bits (0x10000 : Word).toNat 40 16) ∧
    ¬(8 ≤ 7 ∨ bits (0x8000000040000000 : Word).toNat 59 48 ≠ 0 ∨ bits (0x8000000040000000 : Word).toNat 29 0 ≠ 0) ∧ bits (2 : Word).toNat 25 1 ≠ 0 ∧
    (up.taken (msg 0x42)).ownsRegion 0 ({ (up.taken (msg 0x42)).partAt 0 with jbase := 1 } : Part).jregion journalBytes = true ∧
    passesC (up (orphanState .open_)) (.jbaseWrite (msg 0x42) 1) = true ∧
    (((up (orphanState .open_)).taken (msg 0x42)).tile.any fun e => decide (((up (orphanState .open_)).taken (msg 0x42)).tilePart e.1 = some 0) && (e.2.streamAt .F).brew.phase != .idle) = true := by
  decide +kernel
theorem witness_BasesWritten_idle :
    ∀ e ∈ (up.taken (msg 0x42)).tile, (up.taken (msg 0x42)).tilePart e.1 = some 0 → ∀ st, (e.2.streamAt st).brew.phase = .idle ∧ (e.2.streamAt st).wb = none := by
  have h : (up.taken (msg 0x42)).tile = [(0, tile0)] := by decide +kernel
  rw [h]
  intro e he _ st
  obtain rfl := List.mem_singleton.mp he
  cases st <;> decide +kernel

/-- A step open at 0; a threshold row of 0 to 2, its hold one step. -/
def heldOpen : State := upP fun p => { p with job := true, s0 := some 0 }
def rowWord (init : Nat) : BitVec 256 := BitVec.ofNat 256 (2 ^ 172 + 2 ^ 132 + 2 ^ 96 + 2 ^ 40 + 2 ^ 35 + init * 2 ^ 32)
def rowState (w : BitVec 256) : State := upP fun p => { p with row := [(1023, { word := w })] }
theorem witness_TablesStaged :
    [Instr.slotWrite (msgE 0x50 0) [(4095, 0)], .slotWrite (msgE 0x50 7) [(4094, 0x80000007)], .slotWrite (msgE 0x50 0) [(4094, 0x80000007), (0, 0x80000007)], .rowWrite (msgE 0x51 0) [(1024, 0)],
      .rowWrite (msgE 0x51 7) [(1023, rowWord 0)], .pctrlWrite (msgE 0x52 0) 4, .pctrlWrite (msgE 0x52 7) 0x802, .digctrlWrite (msgE 0x63 0) 257 true, .digctrlWrite (msgE 0x63 7) 256 true,
      .groupWrite (msgE 0x73 0) 1024 true 0, .groupWrite (msgE 0x73 7) 1023 true 31].all (fun c => passesC heldOpen c && passesC (upP id) c) = true ∧
    (4095 ≤ 4095 ∧ slotValid 0x80000007 = true ∧ slotTensor 0x80000007 ≠ 0) ∧
    ((heldOpen.taken (msgE 0x50 7)).partAt 0).dupTensor (msgE 0x50 7).eff [(4094, 0x80000007)] = false ∧
    ((heldOpen.taken (msgE 0x50 0)).partAt 0).dupTensor (msgE 0x50 0).eff [(4094, 0x80000007), (0, 0x80000007)] = true ∧ (msgE 0x50 0).eff = 0 ∧ (msgE 0x50 7).eff = 7 ∧
    ((heldOpen.taken (msgE 0x50 7)).partAt 0).stepOpen = true ∧ ((heldOpen.taken (msgE 0x50 7)).partAt 0).oldest = 0 ∧ (((upP id).taken (msgE 0x50 7)).partAt 0).stepOpen = false ∧
    (let q := ((up (withP fun p => { p with slot := [(0, 0x80000007)] })).taken (msgE 0x50 7)).partAt 0; q.staged = [] ∧ slotValid (Map.get 0 q.slot 0) = true ∧ slotTensor (Map.get 0 q.slot 0) = 7) ∧
    [rowWord 0, rowWord 2].all (fun w => !rowBad w && rowValid w && decide (rowThreshMask &&& w = w)) = true := by
  decide +kernel
theorem witness_RowsAndControls :
    (rowValid (((upP id).partAt 0).rowAt 1023).word = false) ∧
    (rowValid (rowWord 1 ||| 1) = true ∧ rowFloor (rowWord 0) ≤ rowCur (rowWord 1 ||| 1) ∧ rowCur (rowWord 1 ||| 1) ≤ rowCeil (rowWord 0)) ∧
    (rowBad (rowWord 2 + BitVec.ofNat 256 (2 ^ 37)) = false ∧ rowCur (rowWord 2) < rowFloor (rowWord 2 + BitVec.ofNat 256 (2 ^ 37)) ∧ (((rowState (rowWord 2)).taken (msg 0x51)).partAt 0).rowAt 1023 = { word := rowWord 2 }) ∧
    ¬(bits (0x802 : Word).toNat 63 41 ≠ 0 ∨ bits (0x802 : Word).toNat 16 16 ≠ 0 ∨ bits (0x802 : Word).toNat 7 2 ≠ 0 ∨ ({ (upP id).partAt 0 with pctrl := 0x802 } : Part).lag = 0 ∨ ({ (upP id).partAt 0 with pctrl := 0x802 } : Part).lag = 3 ∨
      (({ (upP id).partAt 0 with pctrl := 0x802 } : Part).hvalid = true)) ∧ bits (4 : Word).toNat 7 2 ≠ 0 ∧ (256 : BitVec 16).toNat ≤ 256 ∧ 256 < (257 : BitVec 16).toNat := by
  decide +kernel

/-- Entry 4095 of engine 11 of a shard block at granule 0 of stack 11. -/
def dirState (d : Option DirEntry) : State :=
  { (upP fun p => { p with quota := 1 }) with stack := [(11, { gran := [(0, 0x80000000)] })], upe := match d with | some x => [(11, { dir := [(4095, x)] })] | none => [] }
def def0 (w0 : Word := 0x8000000000000000) : Instr := .shardDefine (msg 0x60) 3 2 4095 w0 5 1 0 0 0
def shard0 : DirEntry := { valid := true, tensor := 5, nslice := 1 }
theorem witness_ShardEntries :
    [none, some shard0, some { shard0 with pins := 1 }].all (fun d => passesC (dirState d) (def0) && passesC (dirState d) (.shardDelete (msg 0x61) 3 2 4095) &&
      !((dirState d).taken (msg 0x60)).deepAsleep && ((dirState d).taken (msg 0x60)).permits { msg 0x60 with part := 0 } .owner) = true ∧
    (0 : Word).getLsbD 63 = false ∧ ((dirState none).taken (msg 0x60)).shardBad 0 11 0x8000000000000000 5 1 0 0 (dirWords 0x8000000000000000 5 1 0 0 0) = false ∧
    ((dirState none).taken (msg 0x60)).entriesUsed 0 11 = 0 ∧ ((dirState none).taken (msg 0x60)).findShard 0 5 0 = none ∧ dirWords 0x8000000000000000 5 1 0 0 0 = shard0 ∧
    passesC ({ dirState (some shard0) with upe := [(0, { dir := [(0, shard0)] })] }) def0 = true ∧
    ((({ dirState (some shard0) with upe := [(0, { dir := [(0, shard0)] })] } : State).taken (msg 0x60)).findShard 0 5 0 = some (0, 0)) ∧
    ((({ dirState (some shard0) with upe := [(0, { dir := [(0, shard0)] })] } : State).taken (msg 0x60)).dirAt 11 4095).valid = false := by
  decide +kernel

def crusted : DirEntry := { shard0 with crust := true, crustOk := true, crustVer := 3 }
theorem witness_Rollbacks :
    [crusted, shard0, { shard0 with pins := 65535 }].all (fun d => passesC (dirState (some d)) (.rollback (msg 0x62) 5 [0]) &&
      decide (((dirState (some d)).taken (msg 0x62)).findShard 0 5 0 = some (11, 4095) ∧ ((dirState (some d)).taken (msg 0x62)).dirAt 11 4095 = d) && !((dirState (some d)).taken (msg 0x62)).deepAsleep) = true ∧
    crusted.base.toNat + crusted.blockSize ≤ stackBytes ∧ crusted.state = .idle ∧ crusted.crust = true := by
  decide +kernel
theorem witness_Rollbacks_lines : ∀ a, stackOf a = 11 → ((dirState (some crusted)).taken (msg 0x62)).poisoned a = false := by
  have h : ((dirState (some crusted)).taken (msg 0x62)).poison = [] := by decide +kernel
  intro a _
  simp only [State.poisoned, h, Map.get]

/-! ## Witnesses: jobs, port messages, packs, trust, images

Where a hypothesis rests on a fused constant or on a signature the model leaves open (`Config`), the witness takes that one fact as its own hypothesis. -/

/-- A map at 0 of one package, serial 7, with one digest, that of the byte 0 at 0x200. -/
def mapMem (ver : Byte) : Map Byte :=
  [(0, ver), (2, 1), (4, 1), (8, 1), (10, 1), (12, 1), (14, 1), (16, 1), (18, 255), (19, 255), (20, 255), (21, 255), (22, 255), (64, 7)] ++
    ((List.range 32).map (· + 72)).zip [110, 52, 11, 156, 255, 179, 122, 152, 156, 165, 68, 230, 187, 120, 10, 44, 120, 144, 29, 63, 179, 55, 56, 118, 133, 17, 163, 6, 23, 175, 160, 29]
def mapState (ver : Byte) (f : Part → Part := id) : State := { upP f with mem := mapMem ver, tile := [(0, { tile0 with str := [] })] }
def jobU : State := (mapState 1).taken (msg 0x70)
theorem witness_Jobs :
    [Instr.jobStart (msg 0x70) 0 9 [{ addr := 0x200, len := 1 }], .jobStart (msg 0x70) 0xFFFFFFFFF000 9 []].all (passesC (mapState 1)) = true ∧
    passesC (mapState 2) (.jobStart (msg 0x70) 0 9 []) = true ∧ jobU.ownsRegion 0 0 64 = true ∧ jobU.ownsRegion 0 0 (jobU.mapLen 0) = true ∧ jobU.deepAsleep = false ∧
    jobU.plannedPorts 0 = [] ∧ (jobU.readMap 0).invalid = false ∧ (jobU.readMap 0).serials = [7] ∧ jobU.ownsRegion 0 0xFFFFFFFFF000 64 = false ∧
    (((mapState 2).taken (msg 0x70)).readMap 0).invalid = true ∧ jobU.missingPorts 0 = [] := by
  decide +kernel
theorem witness_Jobs_regions :
    jobU.regionKnown 0 (jobU.readMap 0) { addr := 0x200, len := 1 } = true ∧ jobU.regionKnown 0 (jobU.readMap 0) { addr := 0, len := 1 } = false := by
  decide +kernel
/-- The package's serial is that of the map, and it is not. -/
theorem witness_Jobs_serial : (Config.serial = 7 → Config.serial ∈ (jobU.readMap 0).serials) ∧ (Config.serial ≠ 7 → Config.serial ∉ (jobU.readMap 0).serials) := by
  have h : (jobU.readMap 0).serials = [7] := by decide +kernel
  rw [h]
  exact ⟨fun e => by rw [e]; exact List.mem_singleton.mpr rfl, fun n m => n (List.mem_singleton.mp m)⟩
/-- Partition 0's port 63 planned and not reached; ACTIVE; a job in force. -/
def planned (st : PortSt) : State :=
  withPort 63 { state := st, plan1 := 0x8000000000000000, plan0 := 7, dir := 0, peerSerial := 8 } (mapState 1 fun p => { p with planValid := true, pairs := 0x80000000, job := true })
theorem witness_Jobs_ports :
    passesC (planned .down) (.jobStart (msg 0x70) 0 9 []) = true ∧ ((planned .down).taken (msg 0x70)).plannedPorts 0 = [63] ∧ ((planned .down).taken (msg 0x70)).reaches 63 = false ∧
    (((planned .down).taken (msg 0x70)).partAt 0).degrade.getLsbD 0 = false ∧ passesC (planned .down) (.jobEnd (msg 0x71)) = true ∧ ((planned .down).taken (msg 0x71)).runningOf 0 = [] ∧
    (((planned .down).taken (msg 0x71)).partAt 0).job = true ∧ passesC (mapState 1) (.jobEnd (msg 0x71)) = true ∧ (((mapState 1).taken (msg 0x71)).partAt 0).job = false ∧
    passesC (upP id) (.jobEnd (msg 0x71)) = true ∧ ((upP id).taken (msg 0x71)).runningOf 0 ≠ [] ∧
    passesC (planned .down) (.mapStage (msgE 0x72 5) 0) = true ∧ passesC (mapState 1) (.mapStage (msgE 0x72 5) 0) = true ∧ (((planned .down).taken (msgE 0x72 5)).partAt 0).stepOpen = false ∧
    passesC (mapState 1 fun p => { p with job := true, s0 := some 0 }) (.mapStage (msgE 0x72 0) 0) = true ∧
    passesC (mapState 2 fun p => { p with job := true }) (.mapStage (msgE 0x72 5) 0) = true := by
  decide +kernel
/-- Rank 0 of two packages of serials 7 and 9, and the port in the direction of the cut, whose peer is neither. -/
def map79 : JobMap := { ext := [2, 1, 1, 1, 1], axis := [0, 255, 255, 255, 255], serials := [7, 9] }
theorem witness_Jobs_mismatch (hs : Config.serial = 7) : ((planned .active).taken (msg 0x70)).mismatch 0 map79 = some 63 := by
  have hr : map79.rankOf = 0 := by simp only [JobMap.rankOf, map79, hs]; rfl
  have hn : map79.neighbour 0 = some 9 := by simp only [JobMap.neighbour, hr]; decide +kernel
  have hp : ((planned .active).taken (msg 0x70)).partPorts 0 = [62, 63] := by decide +kernel
  have ha : (((planned .active).taken (msg 0x70)).portAt 62).state = .disabled := by decide +kernel
  have hb : (((planned .active).taken (msg 0x70)).portAt 63).state = .active ∧ (((planned .active).taken (msg 0x70)).portAt 63).dir = 0 ∧
      (((planned .active).taken (msg 0x70)).portAt 63).peerSerial = 8 := by decide +kernel
  simp only [State.mismatch, hp, List.find?_cons, ha, hb.1, hb.2.1, hb.2.2, hn]
  rfl

theorem witness_PortMessages :
    passesC (planned .down) (.planWrite (msg 0x80) 63 7 0x803F000000000000) = true ∧ passesC (planned .down) (.planWrite (msg 0x80) 0 7 0) = true ∧
    passesC (planned .active) (.planWrite (msg 0x80) 63 7 0) = true ∧ bits (0x803F000000000000 : Word).toNat 55 48 = 63 ∧ bits (0x803F000000000000 : Word).toNat 62 56 = 0 ∧
    bits (0x803F000000000000 : Word).toNat 47 0 = 0 ∧ (((planned .down).taken (msg 0x80)).portAt 63).discovered = false ∧ (((planned .down).taken (msg 0x80)).partAt 0).pairs.getLsbD 31 = true ∧
    (((planned .down).taken (msg 0x80)).partAt 0).pairs.getLsbD 0 = false ∧ [Instr.planctlWrite (msg 0x81) 0, .planctlWrite (msg 0x81) 0x8FF3FFFF, .brouteWrite (msg 0x82) 7 0x8000000000000000,
      .portCntClear (msg 0x83) 0x8000000000000000, .portReset (msg 0x84) 0x8000000000000000, .portUnfence (msg 0x85) 0x8000000000000000, .portCntClear (msg 0x83) 1,
      .portReset (msg 0x84) 1, .portUnfence (msg 0x85) 1].all (passesC (planned .down)) = true ∧
    (bits (0x8FF3FFFF : Word).toNat 27 20 ≠ 0 ∧ bits (0x8FF3FFFF : Word).toNat 30 28 = 0 ∧ bits (0x8FF3FFFF : Word).toNat 19 18 = 0) ∧ maskPorts 0x8000000000000000 = [63] ∧
    ((planned .down).taken (msg 0x84)).litAt 63 = false ∧ (({ planned .down with laser := [(15, { lit0 := true, lit1 := true })] } : State).taken (msg 0x84)).litAt 63 = true := by
  decide +kernel

/-- A pack of one pattern, its signature record, a rotation of one rated segment of 0.5 s and a window of one. -/
def packBody (t : Nat) : List Byte :=
  if t = 1 then [1] else if t = 2 then [9, 0, 0, 0, 0, 0, 0, 0, 7, 0, 0, 0, 0, 0, 0, 0]
  else [9, 0, 0, 0, 0, 0] ++ natLe 2 (if t = 3 then 5000 else 8) ++ [0, 0, 0, 0] ++ natLe 4 64
def packOff (t : Nat) : Nat := if t = 1 then 256 else 256 + 16 * (t - 1)
def pack0 : List Byte :=
  [0x4B, 0x58, 0x53, 0x50] ++ natLe 2 1 ++ natLe 2 4 ++ natLe 4 7 ++ natLe 4 2 ++ natLe 4 320 ++ List.replicate 44 0 ++
    ([1, 2, 3, 4].flatMap fun t => [BitVec.ofNat 8 t, if t = 1 then 9 else 0, 0, 0] ++ natLe 4 (packOff t) ++ natLe 4 (packBody t).length ++ [0, 0, 0, 0] ++ hashBytes (sha256 (packBody t))) ++
    (packBody 1 ++ List.replicate 15 0) ++ packBody 2 ++ packBody 3 ++ packBody 4
def xfer0 (b : List Byte) : Xfer := { xfer := 7, len := b.length, hash := sha256 b, bytes := b, src := .port .A }
def packState (x : Option Xfer) : State := { up with fw := { up.fw with packXfer := x } }
theorem witness_PackTransfers :
    [none, some (xfer0 [])].all (fun x => passesC (packState x) (.packOffer (msg 0xB1) 7 320 0) && decide (((packState x).taken (msg 0xB1)).fw.transferring = x.isSome)) = true ∧
    passesC (packState (some (xfer0 []))) (.packChunk (msg 0xB2) 7 0 [1]) = true ∧ passesC (packState (some (xfer0 []))) (.packDone (msg 0xB4) 7) = true ∧
    ((packState (some (xfer0 []))).taken (msg 0xB2)).fw.packXfer = some (xfer0 []) ∧ (xfer0 []).xfer = 7 ∧ packFormatBad [] = true ∧
    up.fw.ready = true ∧ up.fw.handoff = false ∧ (msg 0xB1 0 .mgmt).src = .mgmt := by
  decide +kernel
theorem witness_PackSound {s : State} (hs : s.packSigned pack0 = true) (hm : s.packageMajor = some 0) (hv : s.fw.pack.ver = 1) : PackSound (xfer0 pack0) s := by
  refine ⟨by decide +kernel, by decide +kernel, by decide +kernel, hs, by simp only [xfer0], by decide +kernel, by decide +kernel, ?_, ?_, ?_⟩
  · rw [hv]; decide +kernel
  · have h : fld (xfer0 pack0).bytes 0x14 4 = 0 := by decide +kernel
    rw [h]; exact Nat.zero_le _
  · have h : fld (xfer0 pack0).bytes 0x18 2 = 0 := by decide +kernel
    rw [h, hm]; rfl

theorem witness_PackTimers : (packState (some (xfer0 []))).fw.packXfer = some (xfer0 []) ∧ (packState none).fw.packXfer = none ∧
    ({ (packState none).fw with imgXfer := some (xfer0 []) } : Fw).imgXfer = some (xfer0 []) := by
  decide +kernel

theorem witness_Nonces : (msg 0xA00).src = .port .A ∧ up.fw.ready = true ∧ (msg 0xA00).crc = crc32c (crcBytes (msg 0xA00) 0xA00) ∧ (msg 0xA00).length.toNat ≤ up.payloadLimit (.port .A) ∧
    (msg 0xA00).length.toNat = (msg 0xA00).payload.length := by
  decide +kernel
/-- A CHALLENGE of the management port needs no trailer. -/
theorem witness_Nonces_mgmt : Passes (msg 0xA00 0xFF .mgmt) 0xA00 .mgmtOnly up :=
  ⟨by decide +kernel, by decide +kernel, rfl, by decide +kernel, by decide +kernel, by decide +kernel, fun _ h => absurd h (by decide), by decide +kernel, fun h => nomatch h⟩

theorem witness_Measurements :
    [Instr.identity (msg 0xA01), .mrRead (msg 0xA02) false 0, .mrExtend (msg 0xA03) 7 0, .mrExtend (msg 0xA03) 8 0, .certRead (msg 0xA05) 15].all (passesC up) = true ∧
    (up.taken (msg 0xA05)).tooNarrow (msg 0xA05) = false := by
  decide +kernel

def signed (k : Option Word) (mode : Byte := 3) : State := { up with fw := { up.fw with lastSign := k, config := { up.fw.config with hostMode := mode } }, refTick := 100000000 }
theorem witness_Quotes :
    [signed none, signed (some 0), signed (some 1), signed none 2].all (fun s => passesC s (.attest (msg 0xA04) 0 255)) = true ∧ ((signed none 2).taken (msg 0xA04)).tooNarrow (msg 0xA04) = true ∧
    ((signed none).taken (msg 0xA04)).tooNarrow (msg 0xA04) = false ∧ (((signed (some 1)).taken (msg 0xA04)).refTick - 1).toNat < secondTicks ∧
    secondTicks ≤ (((signed (some 0)).taken (msg 0xA04)).refTick - 0).toNat ∧ ((signed none).taken (msg 0xA04)).fw.epoch < 16 ∧ ((signed none).taken (msg 0xA04)).fw.leafQ < epochLeaves := by
  decide +kernel

/-- A configuration block of 256 bytes with SEQ 5, every port unused, lease 100 and D 8. -/
def block0 : List Byte :=
  [0x4B, 0x58, 0x43, 0x42] ++ natLe 2 1 ++ [0, 0] ++ natLe 4 5 ++ natLe 4 256 ++ List.replicate 32 15 ++ [0, 3, 0, 0] ++ natLe 2 100 ++ natLe 2 8 ++ List.replicate 200 0
def confState (c0 : Option ConfBlock) (o : BitVec 16) (own : Option (BitVec 256)) : State :=
  { up with fw := { up.fw with copy0 := c0, owner := own, config := { up.fw.config with ownerOff := o, steward := 0 } } }
theorem witness_Keys :
    passesC (confState none 0 none) (.configWrite (msg 0xA06) block0) = true ∧ confFieldsOk block0 = true ∧ block0.length = 256 ∧ (confOf block0).seq = 5 ∧
    passesC (confState none 0xC4 none) (.enrollOwner (msg 0xA07)) = true ∧ passesC (confState none 0xC4 (some 1)) (.enrollOwner (msg 0xA07)) = true ∧
    passesC up (.keyRevoke (msg 0xA08) 3 0 [] [] []) = true ∧ (up.taken (msg 0xA08)).fw.revoked = 0 ∧ (up.taken (msg 0xA08)).fw.revoked ||| (1#4 <<< 3) ≠ 15 ∧
    ((confState (some { seq := 4 }) 0 none).taken (msg 0xA06)).fw.copy0 = some { seq := 4 } := by
  decide +kernel
theorem witness_Keys_signed {s : State} (hs : s.confSigned block0 = true) : s.confError block0 = 0 := by
  have h : confFieldsOk block0 = true := by decide +kernel
  have p : fld block0 0x38 2 = 0 := by decide +kernel
  simp only [State.confError, hs, h, p, Bool.not_true, Bool.false_eq_true, if_false, Nat.not_lt_zero]
theorem witness_Keys_unsigned {s : State} (hs : s.confSigned block0 = false) : s.confError block0 ≠ 0 := by
  simp only [State.confError, hs, Bool.not_false, if_true]
  decide
theorem witness_Keys_slot : sha256 (vendorPub 0) = vendorHash 0 := rfl

def emptyHash : List Byte := hashBytes (sha256 [])
/-- An image that is its header alone (Table 15-4): key slot 0, version 1.0, for every MAJOR, no section, no signature. -/
def imgBytes : List Byte :=
  [0x4B, 0x58, 0x46, 0x57, 1, 0, 0, 0, 1, 0, 0, 0, 1, 0, 0, 0, 0, 255, 0, 255] ++ List.replicate 12 0 ++ emptyHash ++ emptyHash ++ emptyHash ++ vendorPub 0 ++ List.replicate 68 0
def image0 : ImageInfo := imageOf imgBytes
theorem image0_pubKey : sha256 image0.pubKey = vendorHash image0.keySlot.toNat := by
  have h : image0.pubKey = vendorPub 0 := by rfl
  have k : image0.keySlot.toNat = 0 := by decide +kernel
  rw [h, k]
  rfl
theorem image0_fields : image0.magicOk = true ∧ image0.keySlot = 0 ∧ image0.svn = 0 ∧ image0.fwMajor = 1 ∧ image0.iodLo = 0 ∧ image0.iodHi = 255 ∧ image0.cdLo = 0 ∧ image0.cdHi = 255 ∧
    sha256 image0.firstStage = image0.fsHash ∧ sha256 image0.firmware = image0.mfHash ∧ sha256 image0.data = image0.dataHash := by
  decide +kernel
def imgState (x : Option Xfer) (b : Bool := false) : State := { up with fw := { up.fw with imgXfer := x, slot := b, stage := 3, imgA := { image := some image0, verified := true }, imgB := { image := some image0, verified := true } } }
theorem witness_ImageTransfers :
    [none, some (xfer0 [])].all (fun x => passesC (imgState x) (.imageOffer (msg 0xA10) 7 20971520 0) && decide (((imgState x).taken (msg 0xA10)).fw.transferring = x.isSome)) = true ∧
    passesC (imgState (some (xfer0 []))) (.imageChunk (msg 0xA11) 7 0 [1]) = true ∧ (20971520 : BitVec 32).toNat ≤ 20971520 ∧ ((imgState (some (xfer0 []))).taken (msg 0xA13)).fw.stage ≠ 4 ∧
    (xfer0 []).bytes.length = (xfer0 []).len ∧ (({ xfer0 [] with len := 1 } : Xfer).bytes.length ≠ 1) ∧ ((imgState none).fw.slot = false ∧ (imgState none true).fw.slot = true) := by
  decide +kernel
theorem witness_ImageTransfers_done : [[], imgBytes].all (fun b => passesC (imgState (some (xfer0 b))) (.imageDone (msg 0xA13) 7)) = true ∧ (∀ b, ((imgState (some (xfer0 b))).taken (msg 0xA13)).fw.imgXfer = some (xfer0 b)) ∧
    (∀ b, sha256 (xfer0 b).bytes = (xfer0 b).hash ∧ imageOf (xfer0 b).bytes = imageOf b) ∧ (imageOf (xfer0 []).bytes).magicOk = false :=
  ⟨by decide +kernel, fun _ => rfl, fun _ => ⟨rfl, rfl⟩, by decide +kernel⟩
theorem witness_ImageSound {s : State} (hs : hssVerify image0.pubKey image0.header image0.sig = true) (hr : s.fw.revoked = 0) (hb : s.fw.rb = 0) : ImageSound image0 s := by
  obtain ⟨m, k, -, -, lo, hi, -, -, f, w, d⟩ := image0_fields
  refine ⟨m, by rw [hr, k]; rfl, image0_pubKey, hs, by rw [hb]; exact Nat.zero_le _, ?_, ?_, f, w, d⟩
  · rw [lo]; exact BitVec.le_def.mpr (Nat.zero_le _)
  · rw [hi]; exact BitVec.le_def.mpr (by have := (Config.idRev 4).1.isLt; show _ ≤ 255; omega)

def handState : State := { imgState none with fw := { (imgState none).fw with handoff := true } }
theorem witness_LiveUpdates : passesC (imgState none) (.handoff (msg 0xA20)) = true ∧ ((imgState none).taken (msg 0xA20)).fw.image true = some image0 ∧
    ((imgState none).taken (msg 0xA20)).fw.image false = some image0 ∧ ((imgState none).taken (msg 0xA20)).fw.imgB.verified = true ∧ ((imgState none).taken (msg 0xA20)).safeState = false ∧
    handState.fw.handoff = true ∧ handState.fw.image true = some image0 ∧ handState.fw.image false = some image0 ∧ sha256 image0.firmware = image0.mfHash ∧
    ({ image0 with fwMajor := 2 } : ImageInfo).fwMajor ≠ image0.fwMajor ∧ handState.recordAccepted image0 image0 [] true = false ∧ (imgState none).fw.handoff = false :=
  ⟨by decide +kernel, rfl, rfl, rfl, by decide +kernel, rfl, rfl, rfl, image0_fields.2.2.2.2.2.2.2.2.2.1, by decide +kernel, by decide +kernel, rfl⟩
theorem witness_LiveUpdates_accepted (hs : hssVerify image0.pubKey image0.header image0.sig = true) :
    handState.imageError image0 false = 0 ∧ handState.recordAccepted image0 image0 [1, 2, 3, 4, 5, 6, 7, 8] true = true := by
  have lo : ¬((Config.idRev 4).1 < image0.iodLo ∨ image0.iodHi < (Config.idRev 4).1) := by
    rw [image0_fields.2.2.2.2.1, image0_fields.2.2.2.2.2.1]
    have h : ∀ b : Byte, ¬(b < 0 ∨ (255 : Byte) < b) := by decide +kernel
    exact h _
  have all : ∀ d, ImageInfo_serves image0 d = true := by
    intro d
    have h : ∀ b : Byte, decide ((0 : Byte) ≤ b ∧ b ≤ 255) = true := by decide +kernel
    rw [ImageInfo_serves, image0_fields.2.2.2.2.2.2.1, image0_fields.2.2.2.2.2.2.2.1]
    exact h _
  refine ⟨?_, ?_⟩
  · have h : sha256 image0.pubKey = vendorHash image0.keySlot.toNat ∧ hssVerify image0.pubKey image0.header image0.sig = true := ⟨image0_pubKey, hs⟩
    have n : ¬(sha256 image0.pubKey ≠ vendorHash image0.keySlot.toNat ∨ hssVerify image0.pubKey image0.header image0.sig = false) := by
      rintro (x | x)
      · exact x h.1
      · rw [h.2] at x; exact nomatch x
    simp only [State.imageError]
    rw [if_neg (by decide +kernel), if_neg (by decide +kernel), if_neg n, if_neg (by decide +kernel), if_neg lo, if_neg (by decide +kernel), if_neg (fun x => nomatch x.1)]
  · simp only [State.recordAccepted, all]
    decide +kernel

/-! ## Witnesses: host ports, crumbs, records, management, power states -/

def hostState (h : HPort) (s : State := base) : State := { s with host := [(0, h)] }
def lk : HPort := { linkUp := true, inReset := false }
theorem witness_Apertures :
    (hostState lk).hostAt HostPort.A.idx = lk ∧ lk.d3hot = false ∧
    ({ lk with apDie := 3 } : HPort).apBase.toNat * 2 ^ 23 + (0x123C : BitVec 23).toNat = 0x1000 + 4 * 143 ∧ 0x38000E0 = 0x3800000 + 0x20 * 7 ∧
    ({ lk with apDie := 4, apBase := 0 } : HPort).apBase.toNat * 2 ^ 23 + (0x3800E0 : BitVec 23).toNat = 0x380000 + 0x20 * 7 ∧
    ({ lk with apDie := 4, apBase := 2 } : HPort).apBase.toNat * 2 ^ 23 + (0x3F000 : BitVec 23).toNat = 0x1000000 + 0x1000 * 63 ∧
    ({ lk with apDie := 3 } : HPort).apBase.toNat * 2 ^ 23 + (0x28F010 : BitVec 23).toNat = 0x200000 + 0x1000 * 143 + 8 * 2 ∧ (base.tmapAt (144 * 3 + 143)).migrating = false ∧
    ({ lk with apDie := 0 } : HPort).apBase.toNat * 2 ^ 23 + (0x200FFF : BitVec 23).toNat = 0x200000 + 0x1000 * 0 + 0xFFF ∧ (migState.tmapAt 0).migrating = true ∧
    0x1041000 ≤ ({ lk with apDie := 4, apBase := 2 } : HPort).apBase.toNat * 2 ^ 23 + (0x41000 : BitVec 23).toNat ∧ 5 ≤ ({ lk with apDie := 15 } : HPort).apDie.toNat := by
  decide +kernel

def barState (l : List (Nat × Nat × Nat)) : State := { hostState { lk with bar2 := [(0, 0x8000000000000000)] } with locks := l }
theorem witness_Bar2Accesses :
    (0 : BitVec 39).toNat < ((barState []).hostAt 0).bar2Bytes ∧ (barState []).inDeep = false ∧ (barState []).bar2Ok .A 0 8 = true ∧ (barState []).bar2Waits (((barState []).hostAt 0).bar2Addr 0) 8 = false ∧
    (barState [(0, 0, 0)]).bar2Ok .A 0 8 = true ∧ (barState [(0, 0, 0)]).bar2Waits (((barState []).hostAt 0).bar2Addr 0) 8 = true ∧ (hostState lk).bar2Ok .A 0 8 = false ∧
    ((barState []).hostAt 0).bar2Addr 0 + 8 ≤ 0xF000000000 := by
  decide +kernel

theorem witness_ConfigSpace : ((hostState lk).hostAt 0).linkUp = true ∧ (hostState lk).fw.ready = false ∧ (hostState lk).fw.stage ≠ 4 ∧ (up (hostState lk)).fw.ready = true ∧ (3 : BitVec 12).toNat < 4 := by
  decide +kernel

theorem witness_PortResets :
    (∀ q, q < nParts → ((hostState lk { base with tile := [] }).partAt q).owner = .A → ((hostState lk { base with tile := [] }).partAt q).valid = true →
      (hostState lk { base with tile := [] }).runningOf q = [] ∧ ((hostState lk { base with tile := [] }).partAt q).state ≠ .orphan) ∧ ((hostState lk).hostAt 0).inReset = false ∧
    ((hostState { inReset := true }).hostAt 0).inReset = true ∧ (hostState { inReset := true }).side.chatter.getLsbD (perstIn .A).bit = false ∧ (99350 ≤ 100050 ∧ 100050 ≤ 100050) ∧
    ({ base.side with chatter := 4 } : Side).chatter.getLsbD (perstIn .A).bit = true ∧ ((hostState { inReset := false }).hostAt 0).linkUp = false ∧ (hostState {}).fw.rcOnly = false ∧ base.crumb.errQ.length < 64 := by
  decide +kernel

theorem witness_RegisterWrites :
    { up with fw := { up.fw with config := { up.fw.config with hostMode := 2 } } }.mailbox .A = false ∧ 1343 < 1344 ∧ sext 8 ((0xF0 : Word).toNat % 256) = -16 ∧ sext 8 ((9 : Word).toNat % 256) = 9 ∧
    (({ base with ptile := [(623, { state := .proving })] } : State).ptileAt (nPhys * 3 + 155)).state = .proving ∧ (base.ptileAt (nPhys * 0 + 0)).state = .active := by
  decide +kernel

def crumb0 (cls : Nat) : Crumb := { ctr := 0, cls := cls, syn := 5, unit := uPackage }
def rec0 (cls : Nat) (u : UnitId := uPackage) : ErrRec := { cls := cls, syn := 5, unit := u }
theorem witness_CrumbsQueued :
    base.crumb.flashQ.length < 256 ∧ (∃ x ∈ [(5, uPackage, 0, crumb0 0)], x.1 = 5 ∧ x.2.1 = uPackage) ∧ [(6, uPackage, 0, crumb0 0), (5, uPackage, 3, crumb0 0)] = [(6, uPackage, 0, crumb0 0)] ++ (5, uPackage, 3, crumb0 0) :: [] ∧
    (∀ x ∈ [(6, uPackage, 0, crumb0 0)], ¬(x.1 = 5 ∧ x.2.1 = uPackage)) ∧ (∀ x ∈ base.crumb.coalesce, ¬(x.1 = 5 ∧ x.2.1 = uPackage)) := by
  decide +kernel

def run3 (c : CrumbSt) : State := { base with fw := { base.fw with stage := 3 }, crumb := c }
theorem witness_CrumbsDelivered :
    (run3 { flashQ := [crumb0 0], held := [crumb0 2] }).fw.stage = 3 ∧ base.crumb.flashQ = [] ∧ (1 ≤ 256 ∧ base.fw.rcOnly = false) ∧ ({ base.fw with rcOnly := true } : Fw).rcOnly = true ∧
    ({ fifo := [crumb0 0] } : CrumbSt).fifo = crumb0 0 :: [] ∧ base.crumb.fifo = [] ∧ (({ base.i3c with ibiEn := true, dyn := some 9 } : I3c).ibiEn = true) := by
  decide +kernel

theorem witness_RecordsHandled :
    (run3 { errQ := [rec0 2 ⟨1, [0, 0, 0]⟩] }).crumb.errQ = rec0 2 ⟨1, [0, 0, 0]⟩ :: [] ∧ (run3 {}).fw.handoff = false ∧ (run3 {}).crumb.queueFull = false ∧
    (base.ptileAt (156 * 0 + 13 * 0 + 0)).state = .active ∧ (({ base with ptile := [(623, { state := .retiredField })] } : State).ptileAt (156 * 3 + 13 * 11 + 12)).state = .retiredField ∧
    (base.stackAt 11).fenced = false ∧ (base.engineAt (3 * 3 + 2)).fenced = false ∧ (rec0 3).cls = 3 ∧ (run3 { errQ := [rec0 3] }).safeState = false ∧
    ([rec0 2, rec0 0] = [rec0 2] ++ rec0 0 :: [] ∧ (∀ x ∈ [rec0 2], 2 ≤ x.cls) ∧ (rec0 0).cls < 2 ∧ rec0 0 ∉ [rec0 2]) ∧ base.fw.stage ≠ 2 ∧ base.fw.stage ≠ 3 := by
  decide +kernel

theorem witness_I3cTarget : base.i3c.dyn = none ∧ ({ base.i3c with dyn := some 9 } : I3c).dyn ≠ none ∧ ({ fifo := [crumb0 0] } : CrumbSt).fifo ≠ [] := by
  decide +kernel

theorem witness_Tap : base.side.chatter.getLsbD 4 = false ∧ ({ base.side with chatter := 16 } : Side).chatter.getLsbD 4 = true ∧ ({ st := .capDr, idcode := true } : Tap).idcode = true := by
  decide +kernel
theorem witness_Tap_boundary : ({ st := .upDr, idcode := false, ir := Config.tapSample } : Tap).boundary = true := by
  simp only [Tap.boundary, beq_self_eq_true, Bool.true_or, Bool.not_false, Bool.and_self]

theorem witness_EthernetUp : base.fw.rcOnly = false ∧ ({ base.fw with rcOnly := true } : Fw).rcOnly = true := by decide

def pwrState (p : PwrSt) (s : State := base) : State := { s with pwr := { s.pwr with state := p } }
def busyState : State := { base with ops := [{ id := 1, kind := 0, part := 0, step := 0 }] }
theorem witness_SleepEntered :
    base.pwr.state = .run ∧ base.fw.handoff = false ∧ base.safeState = false ∧ (∀ k ∈ base.stack, k.2.maint = false) ∧ (pwrState .sleepEntry).quiet = true ∧ (pwrState .sleepEntry busyState).quiet = false ∧
    (pwrState .sleep).pwr.state ≠ .run := by
  decide +kernel
theorem witness_Wakes : [PwrSt.sleepEntry, .sleep, .deepEntry, .deep, .deepExit, .safe].all (fun p => decide ((pwrState p).pwr.state = p)) = true := by decide +kernel

theorem witness_DeepSleep :
    (pwrState .deepEntry).quiet = true ∧ (pwrState .deepEntry busyState).quiet = false ∧ ((withPort 63 act0).portAt 63).state = .active ∧ (∀ n, n < 64 → (base.portAt n).state ≠ .active) ∧
    (pwrState .deepExit).pwr.warmPend = none ∧ (base.ptileAt (156 * 0 + 0)).state = .active ∧ ((withPort 63 { state := .dark, deepDark := true }).portAt 63).deepDark = true ∧
    ({ base.pwr with state := .deepExit, warmPend := some true } : Pwr).warmPend = some true := by
  decide +kernel

theorem witness_ClockGates : (base.gateEn 3 185).getLsbD 0 = true ∧ base.unitBusy 3 185 = false ∧ 185 < nGates 3 ∧ base.unitBusy 0 0 = true ∧ base.pwr.state = .run ∧ (base.gateEn 4 0).getLsbD 0 = false := by
  decide +kernel

/-! ## Witnesses: resets, boot, rails, clocks -/

def booted (x : Option ImageInfo) (y : Option ImageInfo) (st : Nat := 3) : State :=
  { base with fw := { base.fw with stage := st, imgA := { image := x, verified := true }, imgB := { image := y, verified := true } } }
theorem witness_WarmResets :
    (booted none none).fw.stage = 3 ∧ (booted none none).safeState = false ∧ (booted none none).fw.handoff = false ∧ (∀ b, (booted none none).fw.image b = none) ∧
    ((booted none (some image0)).fw.image (booted none (some image0)).fw.boot.preferred).isNone = true ∧ ({ base with safeState := true } : State).safeState = true ∧ base.fw.stage = 0 ∧
    (((upP fun p => { p with job := true, s0 := some 0, pctrl := 0x802 }).partAt 0).stepOpen = true) := by
  decide +kernel
theorem witness_WarmResets_slots : (booted (some image0) none).fw.image (booted (some image0) none).fw.boot.preferred = some image0 ∧
    (booted none (some image0)).fw.image (!(booted none (some image0)).fw.boot.preferred) = some image0 := ⟨rfl, rfl⟩
theorem witness_WarmResets_image (hs : hssVerify image0.pubKey image0.header image0.sig = true) (s : State) (hr : s.fw.revoked = 0) (hb : s.fw.rb = 0) : s.warmStarts image0 = true ∧ s.slotError false true = 7 := by
  have lo : ¬((Config.idRev 4).1 < image0.iodLo ∨ image0.iodHi < (Config.idRev 4).1) := by
    rw [image0_fields.2.2.2.2.1, image0_fields.2.2.2.2.2.1]
    have h : ∀ b : Byte, ¬(b < 0 ∨ (255 : Byte) < b) := by decide +kernel
    exact h _
  have n : ¬(sha256 image0.pubKey ≠ vendorHash image0.keySlot.toNat ∨ hssVerify image0.pubKey image0.header image0.sig = false) := by
    rintro (x | x)
    · exact x image0_pubKey
    · exact nomatch x.symm.trans hs
  have r : s.fw.revoked.getLsbD image0.keySlot.toNat = false := by rw [hr, image0_fields.2.1]; rfl
  have e : s.imageError image0 false = 0 := by
    simp only [State.imageError]
    rw [if_neg (by decide +kernel), r, if_neg (by decide), if_neg n, if_neg (by rw [hb]; decide +kernel), if_neg lo, if_neg (by decide +kernel), if_neg (fun x => nomatch x.1)]
  exact ⟨by rw [State.warmStarts, e]; decide +kernel, rfl⟩

/-- A journal slot at 0: VALID, one line at 0x40000, its first byte 9; with its CRC, and with another. -/
def jMem (flags : Byte) (crc : Bool) : Map Byte :=
  let body : List Byte := [0, 0, 4, 0, 0, 0, 0, 0, 9]
  let head : List Byte := [0, 0, 0, 0x20, 0, 0, 0, 0]
  let c := crc32c (head ++ body ++ List.replicate 63 0)
  (if flags = 0 then [] else [(0, flags)]) ++ [(11, 0x20)] ++ (if crc then [(16, c.extractLsb' 0 8), (17, c.extractLsb' 8 8), (18, c.extractLsb' 16 8), (19, c.extractLsb' 24 8)] else []) ++ [(66, 4), (72, 9)]
def jState (flags : Byte) (crc : Bool) : State := { base with mem := jMem flags crc, replayDue := true }
theorem witness_JournalsReplayed :
    (base.replayDue = false ∧ (jState 1 true).replayDue = true) ∧ (jState 1 true).journalReads [] 0 64 = true ∧ ((jState 1 true).journalHead 0).valid = true ∧ ((jState 1 true).journalHead 0).done = false ∧
    ((jState 9 true).journalHead 0).done = true ∧ ((jState 0 true).journalHead 0).valid = false ∧ (jState 0 true).journalBlank 0 = false ∧ ((jState 1 true).journalHead 0).lines = 1 ∧
    (jState 1 true).journalReads [] 64 8 = true ∧ (jState 1 true).journalReads [] 64 (((jState 1 true).journalHead 0).size - 64) = true ∧ (jState 1 true).journalCrcOk 0 ((jState 1 true).journalHead 0) = true ∧
    (jState 1 true).journalLines 0 ((jState 1 true).journalHead 0) = [0x40000] ∧ isLine 0x40000 = true ∧ (jState 1 false).journalCrcOk 0 ((jState 1 false).journalHead 0) = false ∧
    (jState 1 true).journalReads [0] 0 64 = false ∧ ((jState 1 true).journalHead 0).kind = 0 ∧ ((jState 1 true).journalHead 0).owner < 576 := by
  decide +kernel
theorem witness_JournalsReplayed_line : (∀ j, 0 < j → [0x40000][j]? ≠ some 0x40000) ∧ ∀ k b, k < 8 → place (jState 1 true).pkg (0 + k) = .mem b → b < 0x40000 ∨ 0x40000 + 64 ≤ b := by
  have h : ∀ k, k < 8 → place (jState 1 true).pkg (0 + k) = .mem k := by decide +kernel
  refine ⟨fun j hj => by cases j <;> simp at *, fun k b hk hb => Or.inl ?_⟩
  rw [h k hk] at hb
  injection hb with hb
  omega
theorem witness_JournalsReplayed_read : (jState 1 true).journalReads [0x40] 64 8 = false ∧ (jState 1 true).journalReads [0x40] 0 64 = true ∧
    (∀ p, p < 8 → ((upP id).partAt p).valid = false ∨ ((upP id).partAt p).jvalid = false) ∧ ((upP fun p => { p with jbase := 1 }).partAt 0).jvalid = true ∧
    (∀ k, k < 8 → k ≠ 0 → ((upP fun p => { p with jbase := 1 }).partAt k).valid = false) := by
  decide +kernel

def sideState (x : Side) : State := { base with side := x }
theorem witness_ColdResets :
    ({ sideState {} with fw := base.fw }.mayBoot = true) ∧ (({ thermtrip := true } : Side).thermtrip = true ∧ ({ thermtrip := true } : Side).vinOff = false) ∧
    (({ railsGood := false } : Side).railsGood = false ∧ ({ railsGood := false } : Side).sampled = false ∧ (({ railsGood := false } : Side).level ||| ({ railsGood := false } : Side).chatter).getLsbD 0 = false) ∧
    base.side.railsGood = true ∧ base.side.thermtrip = false := by
  decide +kernel

theorem witness_HardenedInputs :
    [HardIn.pkgRst, .throttle, .perstA, .perstB, .trst, .slot0, .slot1, .slot2].all (fun i => !base.side.chatter.getLsbD i.bit && ({ base.side with chatter := 255 } : Side).chatter.getLsbD i.bit &&
      !base.side.level.getLsbD i.bit) = true ∧ (booted none none).fw.stage = 3 ∧ ({ level := 1 } : Side).level.getLsbD 0 = true ∧ ({ level := 1 } : Side).chatter.getLsbD 0 = false ∧
    ({ level := 1, chatter := 1 } : Side).chatter.getLsbD 0 = true ∧ (({ sampled := true } : Side).sampled = true ∧ ({ sampled := true } : Side).level.getLsbD 0 = false) := by
  decide +kernel

def romState (x y : Option ImageInfo) (tries : Nat) : State :=
  { booted x y 0 with fw := { (booted x y 0).fw with boot := { tries := tries } }, clk := { xtalOk := true, iodLock := true } }
theorem witness_FirstStages :
    (romState none none 3).fw.stage = 0 ∧ (romState none none 3).mayBoot = true ∧ ((romState none none 3).clk.xtalOk = true ∧ (romState none none 3).clk.iodLock = true) ∧
    (romState none none 3).slotError false false ≠ 0 ∧ (romState none none 3).slotError true false ≠ 0 ∧ (romState none none 3).fw.boot.tries ≠ 0 ∧ (romState none none 0).fw.boot.tries = 0 ∧
    (romState none none 3).fw.mr = [] ∧ (romState none none 3).fw.rcOnly = false ∧ (booted none none).fw.stage ≠ 0 := by
  decide +kernel
theorem witness_FirstStages_image (hs : hssVerify image0.pubKey image0.header image0.sig = true) : (romState (some image0) none 3).fw.image false = some image0 ∧ (romState none (some image0) 0).fw.image true = some image0 ∧
    ImageSound image0 (romState (some image0) none 3) ∧ ImageSound image0 (romState none (some image0) 0) :=
  ⟨rfl, rfl, witness_ImageSound hs rfl rfl, witness_ImageSound hs rfl rfl⟩

theorem witness_FirmwareReady :
    (booted (some image0) none 2).fw.stage = 2 ∧ (booted (some image0) none 2).fw.rcOnly = false ∧ (booted (some image0) none 2).fw.fallback = false ∧ image0.svn ≤ 64 ∧ ((booted none none 2).fw.image (booted none none 2).fw.slot).isNone = true ∧ base.fw.stage ≠ 2 := by
  decide +kernel
theorem witness_FirmwareReady_slot : (booted (some image0) none 2).fw.image (booted (some image0) none 2).fw.slot = some image0 := rfl

theorem witness_RailFloors :
    ({ level := 2 } : Side).level.getLsbD 1 = true ∧ base.side.level.getLsbD 1 = false ∧ base.side.vinLow = false ∧ ({ vinLow := true } : Side).vinLow = true ∧ base.firmwareRuns = false ∧
    (booted none none).firmwareRuns = true ∧ (booted none none).crumb.coalesce = [] ∧ (sideState { level := 2 }).throttled = true ∧ ({ overHold := true } : Pwr).overHold = true := by
  decide +kernel

/-- The power limit is that of the configuration, 400 W, or the grade's if lower. -/
theorem witness_PowerLoop : base.throttled = false ∧ base.side.vinLow = false ∧ base.pwr.overHold = false ∧ ({ paceTicks := 500000001 } : Pwr).paceTicks > 500000000 ∧ base.pwr.paceTicks ≤ 500000000 ∧
    ({ lowTicks := 9, offset := 3 } : Pwr).lowTicks = 9 := by
  decide +kernel
theorem witness_PowerLoop_limit : base.pwr.offset ≤ ratedSet ∧ 97 * base.limitW < 100 * 2401 ∧ (100 * 0 < 94 * base.limitW ∧ 100 * 0 ≤ 105 * base.limitW) ∧
    (94 * base.limitW ≤ 100 * (if Config.gradeL then 2300 else 1700) ∧ 100 * (if Config.gradeL then 2300 else 1700) ≤ 97 * base.limitW) ∧ (({ offset := 1 } : Pwr).offset < ratedSet) := by
  have h : base.limitW = gradeLimit := rfl
  rw [h]
  simp only [gradeLimit, ratedSet]
  cases Config.gradeL <;> decide

def hot (p : PTile) : State := { booted none none with ptile := [(623, p)] }
theorem witness_ThermalPacing :
    156 * 3 + 155 = 623 ∧ ((hot { state := .active }).ptileAt 623).state = .active ∧ ((hot { state := .active, lowering := true }).ptileAt 623).lowering = true ∧ -16 < ((hot { state := .active }).ptileAt 623).vtrim ∧
    ((hot { state := .active, vtrim := -16 }).ptileAt 623).vtrim ≤ -16 ∧ ((hot { state := .bench }).ptileAt 623).state ≠ .active ∧ (hot {}).railTherm 3 12 = 0 ∧ (hot {}).firmwareRuns = true ∧
    (hot {}).crumb.coalesce = [] ∧ (({ hot {} with die := [(3, { railTherm := [(12, 2)] })] } : State).railTherm 3 12 = 2) ∧ (∀ x ∈ [(155, 98)], x.1 < 156 ∧ x.1 % 13 = 12) ∧
    ([(155, 98)].Pairwise fun x y => x.1 ≠ y.1) ∧ ((hot { state := .active, vtrim := -3, trimBase := some 0 }).ptileAt 623).trimBase = some 0 := by
  decide +kernel
theorem witness_ThermalPacing_rail : 0 < ((hot { state := .active }).railSet 3 12 : Int) + 2 * ((hot { state := .active }).ptileAt 623).vtrim ∧ (hot {}).railSet 3 12 ≠ 0 := by
  have h : (hot { state := .active }).railSet 3 12 = ratedSet ∧ (hot {}).railSet 3 12 = ratedSet := ⟨rfl, rfl⟩
  rw [h.1, h.2]
  have v : ((hot { state := .active }).ptileAt 623).vtrim = 0 := by decide +kernel
  rw [v, ratedSet]
  cases Config.gradeL <;> decide

theorem witness_SensorsRead : 98 ≤ 98 ∧ base.side.thermtrip = false ∧ ({ thermtrip := true } : Side).thermtrip = true ∧ 85 ≤ 85 ∧ base.firmwareRuns = false := by decide +kernel

theorem witness_LaserInputs :
    (160 : Int) ≤ 160 ∧ (149 : Int) < 150 ∧ ((withPort 63 { state := .down, reason := 1 } (booted none none)).portAt 63).state = .down ∧ 63 = 4 * 15 + 2 * 1 + 1 ∧
    (withPort 63 { state := .down, reason := 1 } (booted none none)).firmwareRuns = true ∧ ((withPort 63 { state := .dark } base).portAt 63).state = .dark ∧ ((withPort 63 act0).portAt 63).state ≠ .disabled := by
  decide +kernel

def clkState (c : Clk) (s : State := base) : State := { s with clk := c }
theorem witness_CrystalJudged : base.clk.xtalOk = false ∧ base.fw.rcOnly = false ∧ base.clk.rcCount < 20000000 ∧ 20000000 ≤ ({ rcCount := 20000000 } : Clk).rcCount ∧ ({ xtalOk := true } : Clk).xtalOk = true := by
  decide +kernel
theorem witness_PllEvents :
    (clkState { xtalOk := true, iodLock := true }).clk.iodLock = true ∧ (base.dieAt 3).heldReset = false ∧ base.pwr.state ≠ .deep ∧ base.pwr.state ≠ .deepExit ∧ base.clk.xtalOk = false ∧ base.clk.iodLock = false ∧
    ({ hold := true } : Clk).hold = true ∧ base.clk.fabref = 0 ∧ ((withPort 63 act0).portAt 63).trained = true ∧ ({ hold := true, fabref := 1 } : Clk).fabref ≠ 0 ∧
    (((withPort 0 { act0 with anchor := true }).portAt 0).anchor = true ∧ ((withPort 0 { act0 with anchor := true }).portAt 0).state = .active) ∧ base.clk.hold = false ∧
    (({ base with die := [(0, { pllLock := true })] } : State).dieAt 0).pllLock = true ∧ (base.dieAt 0).pllLock = false ∧ (base.physOf (144 * 0 + 0)).isSome = true := by
  decide +kernel
theorem witness_Ticks :
    (base.physOf 0 ≠ none ∧ base.physOf 143 = none ∧ (base.tileAt 0).array = [] ∧ ((withT fun t => { t with array := [mma0 0] }).tileAt 0).array ≠ [] ∧ ((withT fun t => { t with array := [mma0 0] }).tileAt 0).held = none) ∧
    ((pwrState .sleep (clkState { iodLock := true })).pwr.state = .sleep) ∧ ((99999 : Word) + 1).toNat % 100000 = 0 ∧ ((0 : Word) + 1).toNat % 100000 ≠ 0 ∧
    (({ base with die := [(3, { heldReset := true })] } : State).dieAt 3).heldReset = true := by
  decide +kernel

theorem witness_CommandsComplete : (Instr.referenceTick 4).wf = true ∧ (Instr.nop { tile := 575, stream := .U, word := {} }).wf = true := by decide +kernel
theorem witness_MemoryCanonical : base.memoryWf ∧ step base = .next base := ⟨by decide +kernel, rfl⟩

/-! ## Witnesses: further cases of the statements

Each theorem meets the hypotheses of a clause that the witnesses above do not reach. -/

/-- An MMA whose operands are all zeros. -/
def noOps : MmaFill := { stat := [], statSc := [], strm := [], strmSc := [] }
def mmaZ : Mma := { mma0 127 with fill := some noOps }
def zeroVal : Val := .fin false 0 (-9)
theorem aux_zeroVal (r c : Nat) : valAt (rdOf #[]) (rdOf #[]) 3 false r c = zeroVal := by
  have h : rdOf (#[] : Array Byte) = fun _ => 0 := rfl
  have z : ∀ e, elemAt (fun _ => 0) 3 e = 0 := fun e => by
    have k : fmtWidth 3 * e % 8 = 0 := Nat.mul_mod_right 8 e
    simp only [elemAt, k]
    decide +kernel
  rw [h, valAt, z]
  decide +kernel
theorem aux_products (wv : Nat) : mmaZ.products noOps wv = (List.range 128).map fun _ => (List.range 128).map fun _ => zeroVal.mul zeroVal := by
  have s : mmaZ.streamed noOps wv = fun _ => zeroVal := funext fun c => aux_zeroVal wv c
  have w : ∀ o c, mmaZ.weight noOps o c = zeroVal := fun o c => aux_zeroVal c o
  simp only [Mma.products, s, w]
  rfl
theorem aux_expected (wv : Nat) : mmaZ.expected noOps wv = 0 := by
  have s : mmaZ.streamed noOps wv = fun _ => zeroVal := funext fun c => aux_zeroVal wv c
  have w : ∀ o c, mmaZ.weight noOps o c = zeroVal := fun o c => aux_zeroVal c o
  simp only [Mma.expected, Mma.checkLine, s, w]
  decide +kernel
/-- A wave of zeros whose check agrees, and one with an error of one unit in one output. -/
theorem witness_WaveCommits : ((mmaState [] [mmaZ]).tileAt 0).array = [mmaZ] ∧ ((mmaState [] [mmaZ]).tileAt 0).held = none ∧ (mmaState [] [mmaZ]).physOf 0 = some 0 ∧
    mmaZ.passes ((mmaState [] [mmaZ]).tileAt 0) mmaZ.wave (withErrors (mmaZ.wave_ ((mmaState [] [mmaZ]).tileAt 0) mmaZ.wave) []) 0 = true ∧
    mmaZ.passes ((mmaState [] [mmaZ]).tileAt 0) mmaZ.wave (withErrors (mmaZ.wave_ ((mmaState [] [mmaZ]).tileAt 0) mmaZ.wave) [(0, 1)]) 0 = false := by
  have p := aux_products 127
  have e := aux_expected 127
  have o : mmaZ.operands ((mmaState [] [mmaZ]).tileAt 0) = noOps := rfl
  have w : mmaZ.wave = 127 := rfl
  refine ⟨by decide +kernel, by decide +kernel, by decide +kernel, ?_, ?_⟩ <;>
    · simp only [Mma.passes, Mma.drained, Mma.wave_, w, o, p, e]
      decide +kernel

/-- A brew of tile 0 in whose read set the fetch finds room, and none; a word of local store it has staged. -/
def readsState (n : Nat) : State := withF fun x => { x with fetchBuf := [], brew := { phase := .open_, depth := 1, extReads := (List.range n).map fun k => 2 ^ 20 + 64 * k } }
theorem witness_FetchAhead : [base, withF fun x => { x with fetchBuf := [] }].all (fun s => s.due 0 .F && !s.fetchOver 0 .F && decide ((s.streamAt 0 .F).fetchBuf.length ≤ 8)) = true ∧
    (withF fun x => { x with fetchBuf := [] }).missing 0 .F = [0, 1, 2] := by
  decide +kernel

/-- SST over a bad word of a granule not yet staged; a fifth fault code. -/
def badWordState : State := withF (fun x => { x with brew := { phase := .open_, depth := 1 } }) (withT fun t => { t with lsBad := [(1, true)] })
theorem witness_IssueOutcomes_check : verdictIs badWordState (.sst (at0 { srca := 0, srcb := 0 })) .check = true := by
  decide +kernel

/-- A brew whose write set SST would overfill, and that also meets LS_RANGE. -/
def fullBrew : State := withF fun x => { x with brew := { phase := .open_, depth := 1, lsGran := List.range 4096 } }
theorem witness_LowestFault_full :
    verdict (at0 { srca := 0, srcb := 0, imm := 0x180000 }) { needsSst (at0 { srca := 0, srcb := 0, imm := 0x180000 }) fullBrew with faults := [] } fullBrew = .spill 2 ∧
    (needsSst (at0 { srca := 0, srcb := 0, imm := 0x180000 }) fullBrew).faults ≠ [] ∧ (needsSst (at0 { srca := 0, srcb := 0, imm := 0x180000 }) fullBrew).spill = none ∧
    (fullBrew.fetch (at0 {})).fetchOver 0 .F = false := by
  decide +kernel

/-- A held array, a migrating tile, a table that waits. -/
theorem witness_ArrayGrants_held :
    ((withT fun t => { t with held := some { mma := mma0 0, wave := 0, errs := [], chkErr := 0 } }).tileAt 0).held ≠ none ∧ (migState.tmapAt 0).migrating = true ∧
    ((withT (fun t => { t with braidPend := [(.F, 5)] }) (mmaState [mma0 0] [])).tileAt 0).applyBraid.choose = some (mma0 0) ∧
    ((withT (fun t => { t with braidPend := [(.F, 5)] }) (mmaState [mma0 0] [])).tileAt 0).held = none := by
  decide +kernel

/-- The last MMA of an ended program of stream F, which leaves its bank. -/
theorem witness_MmaCompletes_leaving :
    let s := withT (fun t => { t with bank := [(0, { owner := some .F, leaving := true })] }) (mmaState [] [mma0 128])
    (s.tileAt 0).array = [mma0 128] ∧ (s.tileAt 0).acqs = [] ∧ ((s.tileAt 0).bankAt 0).owner = some .F ∧ ((s.tileAt 0).bankAt 0).leaving = true ∧ (s.tileAt 0).mmaQ = [] ∧ (s.tileAt 0).held = none := by
  decide +kernel

theorem witness_CopyDue : [CopyDir.in_, .out, .tt].all (fun d => (copyState d).copyReady 0 (copy0 d) && !(copyState d).countStalls 0 (copy0 d) && !(copyState d).stagedBad 0 (copy0 d) {} &&
      ((copyState d).copyBadWord 0 (copy0 d) {}).isNone && ((copyState d).eccRead {} ((copyState d).copyReads 0 (copy0 d))).2.isNone) = true ∧
    (copyState .out).copyBadWord 0 (copy0 .out) { lsUncorr := [2047] } = some 2047 ∧ (copyState .out).stagedBad 0 (copy0 .out) { lsUncorr := [2047] } = false ∧ (copy0 .out).inBrew = false := by
  decide +kernel

/-- A copy asked for in an open brew that has room for it. -/
theorem witness_CopyDue_brew :
    let c := { copy0 .out with inBrew := true }
    let s := withF (fun x => { x with brew := { phase := .open_, depth := 1 } }) (withT fun t => { t with copyQ := [c] })
    s.copyReady 0 c = true ∧ s.countStalls 0 c = false ∧ s.stagedBad 0 c {} = false ∧ s.brewOver 0 .F (c.stages 0) = false ∧ (s.streamAt 0 .F).brew.phase = .open_ := by
  decide +kernel

theorem witness_GathersComplete_lines : [gather0 none, gather0 (some (7, 0, 0))].all (fun o => !({ base with ops := [o] } : State).linesWait [(o.addr + 0x38, 8)]) = true ∧
    (let o := gather0 none
     let w := ((o.joiners.find? fun j => decide (j.rank = 0)).getD (o.joiners.headD { tile := 0, rank := 0, pc := 0, addr := 0, sigen := false, k := 0 })).word
     let c := gaCopy w { id := 1, joiners := o.joiners, part := o.part, stream := o.stream, step := o.step, lane := 0 }
     let s : State := { base with ops := [o] }
     s.gaHeld o w c = false ∧ (o.gaSlices (c.real s c.mfmt)).length = c.count ∧ gaExt w = false ∧ o.joiners.all (fun j => !gaCheck j.word) = true) := by
  decide +kernel

/-- The slice of `sliceState` on its way home from engine 0's journal slot 3. -/
theorem witness_BrewWritesBack_engine :
    let w : WriteBack := { serial := 1, lines := [64], bytes := List.replicate 64 1, slot := 0x100000 }
    (({ base with upe := [(0, { wbs := [(3, w)] })] } : State).engineAt 0).wbs.find? (fun x => decide (x.1 = 3)) = some (3, w) ∧ w.lines.all (fun l => l % 64 == 0) = true ∧
    w.bytes.length = 64 * w.lines.length ∧ base.ops = [] ∧ (0x100000 : Nat) % 64 = 0 := by
  decide +kernel

theorem witness_SlicesRetry :
    [{ brew0 with spilled := true, retries := 15 }, { brew0 with spilled := true, retries := 16 }].all (fun b =>
      decide (((sliceState b).engineAt 0).cur = some { dir := 0, op := 1, slice := 1, brews := [b] }) && (((sliceState b).dirAt 0 0).readLines 0 0).all fun x => !(sliceState b).locked x && !(sliceState b).lineHeld x) = true ∧
    (((sliceState brew0).dirAt 0 0).readLines 0 0).any ({ sliceState { brew0 with spilled := true } with locks := [(0x100000, 0, 0)] } : State).locked = true := by
  decide +kernel

/-- An update of a pinned shard that its recipe has wait (FLAGS 0). -/
theorem witness_ShardsStart_pins : fld (jobState.pkgRead 0x400 256) 0xC 4 % 2 = 0 ∧ ({ (upState .idle []).dirAt 0 0 with pins := 1 } : DirEntry).pins ≠ 0 ∧ ((upState .idle []).dirAt 0 0).pins = 0 := by
  decide +kernel

/-- A message of 40 bytes stands first on VC 0 of port 0, whose pair is partition 0's; an ABORT on VC 5; port 0 fenced. -/
def inboxState (m : CollMsg) (v : Nat) (fence : BitVec 64 := 0) (ops : List Op := [{ id := 1, kind := 0, part := 0, step := 0, lane := 0 }]) : State :=
  { (jobState.modPart 0 fun p => { p with pairs := 1, fence := fence }) with ops := ops, port := [(0, { act0 with inbox := [(v, collHead m)], rxBuf := [(v, 1)] })] }
theorem witness_CollectiveMessages_here :
    [inboxState cmsg 0, inboxState cmsg 0 0 [], inboxState cmsg 0 1].all (fun s => (s.arrived 0 0 (collHead cmsg ++ cmsg.data)).isSome && decide ((s.partAt 0).job = true)) = true ∧
    ((inboxState { cmsg with op := 15 } 5).arrived 0 0 (collHead { cmsg with op := 15 } ++ cmsg.data)).isSome = true ∧ ((inboxState { cmsg with op := 15 } 5 1).arrived 0 0 (collHead { cmsg with op := 15 } ++ cmsg.data)).isSome = true ∧
    ((inboxState cmsg 1).partAt 0).s0 = none ∧ ((inboxState cmsg 0).partAt 0).tagFor 0 = cmsg.tag ∧ ({ id := 1, kind := 0, part := 0, step := 0, lane := 0 } : Op).shape = cmsg.shape ∧
    ((inboxState { cmsg with tag := 2 } 0).arrived 0 0 (collHead { cmsg with tag := 2 })).isSome = true ∧ (base.arrived 0 0 (collHead cmsg)).isSome = false ∧
    (((inboxState cmsg 0).portAt 0).front 0).isSome = true := by
  decide +kernel

theorem witness_CollectivesComplete_lines : [clOp none, clOp (some (1, 2, 3))].all (fun o => !(collState [o]).linesWait ((collState [o]).clWrites o)) = true ∧
    ({ jobState with ops := [kneadOp] } : State).linesWait [(((movesOf kneadOp.desc).map (·.daddr)).headD 0, chunk)] = false := by
  decide +kernel

/-- With no bench tile, a proving tile serves, but none that must still prove its repaired geometry; a copied bank whose tally is wrong. -/
theorem witness_TilesMove_proving :
    let s (must : Bool) : State := { base with ptile := [(0, { state := .fenced, logical := 0 }), (1, { state := .proving, mustProve := must, run := some {} })] }
    (s false).oldestBench 0 = none ∧ ((s false).physIn 0 .proving).filter (fun b => !((s false).ptileAt b).mustProve && !(s false).reserved b) = [1] ∧
    ((s true).physIn 0 .proving).filter (fun b => !((s true).ptileAt b).mustProve && !(s true).reserved b) = [] ∧ (migState.tileAt 0).copyBad = false := by
  decide +kernel

theorem witness_ProvingSegments_runs : [seg0 0 0 0, seg0 1 0xFF 0, seg0 1 0 15].all (fun g => decide (({ pack := provPack g } : ProvRun).done = false ∧ ({ pack := provPack g } : ProvRun).paused = false ∧
    ({ pack := provPack g } : ProvRun).ovenReady = false)) = true := by
  decide +kernel

/-- Fuse record 0 being programmed: a row skip of a fenced tile, and a retirement. -/
theorem witness_Repairs_fuse : [fuseWord 2 5 1, fuseWord 1 0xFF 1].all (fun w =>
      let s : State := { base with ptile := [(1, { state := .fenced })], die := [(0, { fusing := [0], ffuse := [(0, w)] })] }
      (s.dieAt 0).fusing.contains 0 && decide (nPhys * 0 + (bits w.toNat 15 8 * 13 + bits w.toNat 7 0) = 1 ∧ (s.ptileAt 1).state = .fenced)) = true ∧ 130 ≤ 130 := by
  decide +kernel

/-- Tile 2 is the first of die 0 that may serve: tile 1's new geometry is not proved. -/
theorem witness_DiesStart_release :
    let s : State := { base with die := [(0, { tested := true })], ptile := [(1, { state := .untested, mustProve := true }), (2, { state := .untested }), (0, { state := .fenced })] }
    (s.dieAt 0).tested = true ∧ (s.dieAt 0).released = false ∧ ((s.physIn 0 .untested).filter fun m => !(s.ptileAt m).mustProve)[0]? = some 2 ∧ (base.dieAt 0).heldReset = false := by
  decide +kernel

/-- Row 0 due for repair with a resource, without one, and under repair. -/
def rowState2 (left : Nat) (rep : Option Nat) : State := { base with stack := [(0, { rowsDue := [0], pprLeft := left, repair := rep })] }
theorem witness_StacksMaintained_rows :
    ((rowState2 1 none).stackAt 0).rowsDue.contains 0 = true ∧ ((rowState2 0 none).stackAt 0).pprLeft = 0 ∧ ((rowState2 1 (some 0)).stackAt 0).repair = some 0 ∧ (base.stackAt 0).rowsDue.contains 0 = false ∧
    ((scrubState 0 0 0).stackAt 0).pos < stackLines ∧ ((scrubState 0 0 0).stackAt 0).maint = false ∧ (scrubState 0 0 0).bankHeld 0 = false := by
  decide +kernel

/-- A board request, and a response, first on its VC. -/
def boardIn (v : Nat) (bs : List Byte) (s : State) : State := { s with port := [(7, { act0 with inbox := [(v, bs)] })] }
theorem witness_BoardLines_front (r : BoardReq) (data : List Byte) :
    ((boardIn 3 (Config.boardPayload r.tag r.addr r.write) jobState).portAt 7).front 3 = some (Config.boardPayload r.tag r.addr r.write) ∧
    ((boardIn 4 (Config.boardReply false data) (boardState false)).portAt 7).front 4 = some (Config.boardReply false data) ∧ (base.portAt 7).front 3 ≠ some (Config.boardPayload r.tag r.addr r.write) :=
  ⟨rfl, rfl, fun h => nomatch h⟩
theorem witness_BoardLines_poisoned : ({ jobState with poison := [(64, true)] } : State).poisoned 64 = true ∧ jobState.lineHeld 64 = false := by decide +kernel

/-- A port in RETRAIN with a HELLO due, and one in TRAIN with none; room in the replay buffer. -/
theorem witness_FlitSlots_untrained :
    ({ state := .retrain, helloDue := true } : Port).trained = false ∧ ({ state := .retrain, helloDue := true } : Port).greets = true ∧ ({ state := .train } : Port).helloDue = false ∧ base.pwr.state ≠ .deep ∧
    (slotAt 3).held.length < 3072 := by
  decide +kernel

/-- The storm of the sixteenth rewind: first, and within a second of the return. -/
theorem witness_FlitArrivals_storm :
    [({ act0 with rewinds := 15 } : Port), { act0 with rewinds := 15, stormAt := some 0 }].all (fun q => q.trained && !q.fails (arrAt 5) && decide (q.rewinds = 15)) = true ∧
    hdrAckv (arrAt 5).hdr = false ∧ ((0 : Word) - 0).toNat ≤ secondTicks ∧ secondTicks < ((200000000 : Word) - 0).toNat ∧ ({ act0 with rewinds := 14 } : Port).rewinds < 15 := by
  decide +kernel

theorem witness_LinkResumes_before : resumePort.before = .active ∧ ({ resumePort with before := .standby } : Port).before ≠ .active ∧
    ((withPort 0 act0 (withPort 63 { resumePort with lport := 0 })).portAt 0).state = .active ∧ ((withPort 0 act0 (withPort 63 resumePort)).portAt 0).lport = 0 := by
  decide +kernel

theorem witness_PortTraining_lanes :
    (({ state := .train, lanesOk := 15 } : Port).lanesOk &&& 7 ≠ 0) ∧ (({ state := .train, lanesOk := 8 } : Port).lanesOk &&& 7 = 0) ∧ ({ state := .train, lanesOk := 15 } : Port).darkKept = false ∧
    ({ state := .train, fullTrain := true, attempts := 1 } : Port).attempts < 2 := by
  decide +kernel
theorem witness_PortRetraining :
    [({ act0 with state := .retrain } : Port), { act0 with state := .retrain, holding := true }, { act0 with state := .retrain, holding := true, fullTrain := true }].all
      (fun q => decide (q.state = .retrain ∧ q.resume = false ∧ (if q.holding && q.fullTrain then (3 : BitVec 4) else q.lanesOk &&& 3) ≠ 0)) = true ∧
    ((withPort 0 act0 (withPort 63 { act0 with state := .retrain })).portAt 0).lport = ({ act0 with state := .retrain } : Port).lport := by
  decide +kernel

/-- A window with a lost lane 3. -/
theorem witness_LanesAndLosses_window :
    act0.lanesOk &&& unhealthy (List.replicate 3 { bitErrs := 0, symbols := 10 ^ 9, lostLock := false } ++ [{ bitErrs := 0, symbols := 10 ^ 9, lostLock := true }]) [] ≠ 0 ∧
    ({ act0 with lanesOk := 8 } : Port).lanesOk &&& ~~~(1#4 <<< 3) = 0 ∧ ({ state := .down } : Port).trained = false ∧ base.clk.anchorWait = false := by
  decide +kernel

/-- Five degraded modules of neighbour link 1 of die 3. -/
theorem witness_ModulesRetrain_neighbour :
    let s : State := { base with d2d := [(92, { retired := true }), (93, { retired := true }), (94, { retired := true }), (88, { retired := true })] }
    s.linkDegraded 3 1 < 5 ∧ (match exec (.d2dRetrain 3 23 (List.range 64) []) s with | .next t => decide (5 ≤ t.linkDegraded 3 1) | _ => false) = true := by
  decide +kernel

def relState : State := up { base with die := [(0, { released := true })] }
theorem witness_ProgramsStart_released :
    passesC relState (.start (msg 0x10) 0x8000 .U 0 7) = true ∧ (relState.taken (msg 0x10)).allReleased [0] = true ∧ (up.taken (msg 0x10)).allReleased [0] = false ∧ (relState.taken (msg 0x10)).loafTiles 0x8000 = [0] ∧
    (relState.taken (msg 0x10)).ownsLoaf 0 0x8000 = true ∧ (relState.taken (msg 0x10)).refDegraded 0x8000 = false ∧ ((relState.taken (msg 0x10)).streamAt 0 .U).run = false := by
  decide +kernel

theorem witness_Bar2Accesses_poisoned : ({ barState [] with poison := [(0, true)] } : State).bar2Ok .A 0 8 = true ∧
    (({ barState [] with poison := [(0, true)] } : State).linesOf [(((barState []).hostAt 0).bar2Addr 0, 8)]).any ({ barState [] with poison := [(0, true)] } : State).poisoned = true := by
  decide +kernel

theorem witness_DeepSleep_lit : base.deepLit ∧ (withPort 63 { state := .dark, deepDark := true }).litAt 63 = false ∧ (litState { state := .dark, deepDark := true }).litAt 63 = true := by
  refine ⟨?_, by decide +kernel⟩
  intro n _ h
  have e : base.portAt n = {} := rfl
  rw [e] at h
  exact nomatch h

theorem witness_WarmResets_migrating :
    (∀ n, (base.tmapAt n).migrating = false) ∧ migState.physOf 0 = some 0 ∧ (migState.tmapAt 0).migrating = true ∧ (migState.tmapAt 0).dest = some 155 ∧
    ((provState {}).ptileAt 1).run = some {} ∧ ((provState {}).dieAt (1 / 156)).released = false := by
  refine ⟨?_, by decide +kernel⟩
  intro n
  simp only [State.tmapAt, base, Map.get]
  split <;> rfl

/-- Stack 11 fails training; stack 0 has a soft repair. -/
theorem witness_FirstStages_stacks : (11 : Nat) ∈ [11] ∧ (0 : Nat) ∉ [11] ∧ ((rowState2 1 none).stackAt 0).fenced = false ∧ (base.fw.config.portMap.getD 31 0xF).toNat % 16 = 15 := by
  decide +kernel

theorem witness_FirmwareReady_released :
    (∀ d, d < 4 → (({ booted none none 2 with die := [(0, { released := true }), (1, { released := true }), (2, { heldReset := true }), (3, { released := true })] } : State).dieAt d).released = true ∨
      (({ booted none none 2 with die := [(0, { released := true }), (1, { released := true }), (2, { heldReset := true }), (3, { released := true })] } : State).dieAt d).heldReset = true) ∧
    ((booted none none 2).dieAt 3).released = false ∧ ((booted none none 2).dieAt 3).heldReset = false := by
  decide +kernel

theorem witness_LaserInputs_reason : ((withPort 63 { state := .down, reason := 8 } (booted none none)).portAt 63).reason = 8 := by decide +kernel

/-- An array whose one MMA has taken all its waves in. -/
theorem witness_Ticks_entered : (∀ m ∈ [{ mma0 128 with entered := true }], m.entered = true) ∧ (∃ m ∈ [mma0 0], m.entered = false) ∧ (base.tileAt 0).held = none := by decide +kernel

/-! ### Messages and events -/

def wrongCrc : MsgHdr := { msg 0x12 with crc := 0 }
def withCrc (ty : BitVec 16) (h : MsgHdr) : MsgHdr := { h with crc := crc32c (crcBytes h ty) }
def badHeads : List MsgHdr := [withCrc 0x12 { src := .port .A, major := 2 }, wrongCrc, withCrc 0x12 { src := .port .A, length := 0xFFFFFF }, withCrc 0x12 { src := .port .A, length := 1 },
  msg 0x12 0 (.port .B), msg 0x12 0 .mgmt]
theorem witness_MessageChecks :
    messageOf (.park wrongCrc) = some (wrongCrc, 0x12, .owner) ∧ base.requestsWait = true ∧ up.requestsWait = false ∧
    (badHeads.map fun h => decide (h.major = 1)) = [false, true, true, true, true, true] ∧
    (badHeads.map fun h => decide (h.crc = crc32c (crcBytes h 0x12))) = [true, false, true, true, true, true] ∧
    (badHeads.map fun h => decide (h.length.toNat ≤ up.payloadLimit h.src ∧ h.length.toNat = h.payload.length)) = [true, true, false, false, true, true] ∧
    (up.taken (msg 0x12 0 (.port .B))).permits (msg 0x12 0 (.port .B)) .owner = false ∧ needsTrailer 0x12 .owner = true ∧ up.trailerOk (msg 0x12 0 .mgmt) 0x12 = false ∧
    (0xFFFF : BitVec 16).toNat ∉ requestTypes ∧ (msg 0xFFFF).crc = crc32c (crcBytes (msg 0xFFFF) 0xFFFF) := by
  decide +kernel

def evtState (mode : Byte) (mask : Word) : State :=
  { up with fw := { up.fw with config := { up.fw.config with hostMode := mode } }, host := [(0, { d2h := [(7, some (8, .orphan 0 .A 0))], evtQ := [(9, .orphan 0 .A 1)], msix := [(9, (0, mask))] })] }
theorem witness_EventsDelivered :
    [evtState 3 0, evtState 3 0x100000000].all (fun s => s.mailbox .A && (Map.get none (s.hostAt 0).d2h 7).isSome && decide ((s.hostAt 0).evtQ = [(9, .orphan 0 .A 1)])) = true ∧
    (Map.get ((0, 0x100000000) : Word × Word) ((evtState 3 0).hostAt 0).msix 9).2.getLsbD 32 = false ∧ (Map.get ((0, 0x100000000) : Word × Word) ((evtState 3 0x100000000).hostAt 0).msix 9).2.getLsbD 32 = true ∧
    (evtState 2 0).mailbox .A = false ∧ (evtState 2 0).fw.handoff = false ∧ (base.hostAt 1).evtQ = [] := by
  decide +kernel

/-! ## Instruction words (Tables 07-1, 07-2), each written out from its fields

A word is EXT [127:64], IMM [63:40], SRCB, SRCA, DST, then FUNC [15:12] with GNEG and GUARD [11:8], then OPCODE. -/
def dec (w : BitVec 128) : Option Instr := decodeWord 3 .B {} w
theorem test_decode_words :
    dec 0x0000000000000000000000FFFFFFA000 = some (.nop { tile := 3, stream := .B, word := { guard := 2, gneg := true } }) ∧
    dec 0x00000000000000050000120201031405 = some (.salu { tile := 3, stream := .B, word := { func := 4, guard := 1, dst := 3, srca := 1, srcb := 2, imm := 0x12, ext := 5 } }) ∧
    dec 0x000000000000000000051FFFFFFF0010 = some (.wait { tile := 3, stream := .B, word := { imm := 0x51F } }) ∧
    dec 0x0340000000080001000000FFFFC00120 = some (.mmaF { tile := 3, stream := .B, word := { func := 1, dst := 0xC0, ext := 0x0340000000080001 } }) ∧
    dec 0x0000000000000000000000BF81800230 = some (.vfp { tile := 3, stream := .B, word := { func := 2, dst := 0x80, srca := 0x81, srcb := 0xBF } }) ∧
    dec 0x0000000019802000000000FF01FF0060 = some (.copyIn { tile := 3, stream := .B, word := { srca := 1, ext := 0x19802000 } }) ∧
    dec 0x0000000000000000FFFFFEFFFF0B0070 = some (.brewOpen { tile := 3, stream := .B, word := { dst := 11, imm := 0xFFFFFE } }) ∧
    dec 0x0000000000000000000000FF02FF0880 = some (.clIssue { tile := 3, stream := .B, word := { func := 8, srca := 2 } }) ∧
    dec 0x0000000000000000000000FF02FF0090 = some (.upIssue { tile := 3, stream := .B, word := { srca := 2 } }) ∧
    dec 0x0000000000000000000000FFFFFF0040 = none ∧ wordBytes 0x0F0E0D0C0B0A09080706050403020100 = (List.range 16).map (BitVec.ofNat 8) := by
  decide +kernel

/-! ## Ill-formed commands are refused -/

/-- One command of each kind of unit with an index beyond its last. -/
def illFormed : List Instr :=
  [.nop { tile := 576, stream := .F, word := {} }, .mmaComplete 576, .stepClose 8, .pinWait 4 0, .pinWait 0 3, .clStall 64 0 0, .clStall 0 0 8, .benchMove 4 0, .benchMove 0 156,
    .rotationMigration 4, .fuseWritten 0 64, .scrubLine 12 0, .pitchApply 0 80, .ackTimer 64, .laneLossOfLock 0 4, .d2dNakReceive 0 24 0, .thermalWithdrawStep 0 13 [], .oeHot 16 0,
    .laserLit 0 2 0, .pllLock 5, .clockGate 0 186, .clockGate 4 86, .deviceSlotReturn .A 8, .park { src := .port .A, slot := 8 }]
theorem test_wf_refuses : illFormed.all (fun c => !c.wf) = true := by decide +kernel
/-- The same commands with the last index are well-formed. -/
theorem test_wf_takes :
    [Instr.nop { tile := 575, stream := .F, word := {} }, .mmaComplete 575, .stepClose 7, .pinWait 3 2, .clStall 63 0 7, .benchMove 3 155, .rotationMigration 3, .fuseWritten 3 63, .scrubLine 11 0,
      .pitchApply 11 79, .ackTimer 63, .laneLossOfLock 63 3, .d2dNakReceive 3 23 0, .thermalWithdrawStep 3 12 [], .oeHot 15 0, .laserLit 15 1 0, .pllLock 4, .clockGate 3 185, .clockGate 4 85,
      .deviceSlotReturn .B 7, .park { src := .port .A, slot := 7 }].all Instr.wf = true := by decide +kernel
/-- No row of the command table has bits, so no word spells a command. -/
theorem test_no_word : decodeTableWord 128 0 = none ∧ State.withFetchWord base 128 0 = base := ⟨rfl, rfl⟩

/-! ## Results worked out in the spec's own examples -/

/-- Table 04-5: the generator at element indices 0 and 1 of an all-zero key. -/
theorem test_generator : gen 0 0 0 0 = 0 ∧ gen 0 0 0 1 = 0x712235C47FE321CD := by decide +kernel
/-- Chapter 04, worked example of SR: 0x3F80C000 to BF16 with r >> 48 = 0x7122, and with 0, is 0x3F81. -/
theorem test_sr_bf16 : (convElem 1 .sr false 0x7122 (f32 0x3F80C000)).1 = 0x3F81 ∧ (convElem 1 .sr false 0 (f32 0x3F80C000)).1 = 0x3F81 := by decide +kernel
/-- Chapter 04, first worked example of the window: E5M2 products at anchor −32 and the outputs of A = 1. -/
theorem test_window_exact :
    waveOutput (-32) [(decodeElem 4 0x7B).mul (decodeElem 4 0x7B), (decodeElem 4 1).mul (decodeElem 4 1)] = (0xC400000000000001, 0) ∧
    waveOutput (-32) [(decodeElem 4 0xFB).mul (decodeElem 4 0x7B)] = (-0xC400000000000000, 0) ∧
    convElem 0 .rne false 0 (.ofInt 1 (-32)) = (0x2F800000, []) ∧ convElem 3 .rne false 0 (.ofInt 1 (-32)) = (0, [hZero, hUnder]) := by decide +kernel
/-- Chapter 04, second worked example: three BF16 products at anchor −77; A = 9 × 2⁷⁵ − 1 is 0x4010 by RNE and 0x400F by RTZ. -/
theorem test_window_loss :
    waveOutput (-77) [(decodeElem 1 0x4040).mul (decodeElem 1 0x3F40), (decodeElem 1 0x2B80).mul (decodeElem 1 0x2BC0), (decodeElem 1 0xACA0).mul (decodeElem 1 0x2C00)] = (9 * 2 ^ 75 - 1, markL) ∧
    (convElem 1 .rne false 0 (.ofInt (9 * 2 ^ 75 - 1) (-77))).1 = 0x4010 ∧ (convElem 1 .rtz false 0 (.ofInt (9 * 2 ^ 75 - 1) (-77))).1 = 0x400F := by decide +kernel
/-- Chapter 04, third worked example: EXPSCAN's anchor, the BF16 output, and the MXFP4 block of 54.5 and 0.5. -/
theorem test_mxfp4 :
    scanAnchor (some 5) (some 0) 0 = -72 ∧ (convElem 1 .rne false 0 (.ofInt (109 * 2 ^ 71) (-72))).1 = 0x425A ∧
    convBlock 9 .rne [0, 0] [.ofInt 109 (-1), .ofInt 1 (-1)] = (0x82, [7, 0], [[hSat], [hZero, hUnder]]) := by decide +kernel
/-- R53: ρ(2⁴⁰) and ρ(3 × 2⁻⁵). -/
theorem test_residue : residue 1 40 = 512 ∧ residue 3 (-5) = 201326592 := by decide +kernel
/-- Chapter 08, worked example: slice (5, 37) at PITCH 6 stands on channel 10, and a column walk covers all 32. -/
theorem test_channels : channelOf 6 357 = 10 ∧ ((List.range 32).map fun i => channelOf 6 (64 * i + 37)) = (List.range 32).map fun i => (i + 5) % 32 := by decide +kernel
/-- Chapter 02, worked example: descriptor 40 of members 12, CD1.0.0 and 13 has 13 tiles, CD1.0.5 at rank 10 in member 2, and 40 slices fall 4, 3, … 3. -/
def loaf40 : State :=
  { base with loaf := [(12, { valid := true, kind := 1, dieMask := 1, rowHi := 1, colHi := 3 }), (13, { valid := true, kind := 1, dieMask := 2, colLo := 4, colHi := 7 }),
      (40, { valid := true, members := [12, 0xA000, 13] })] }
theorem test_ranks :
    (loaf40.loafTiles 40).length = 13 ∧ (loaf40.loafTiles 40).findIdx (· == 149) = 10 ∧ loaf40.memberIndex 40 149 = 2 ∧ seatOf 40 13 3 = (0, 3) ∧ seatOf 40 13 4 = (1, 0) ∧ seatOf 40 13 39 = (12, 2) := by
  decide +kernel
/-- Chapter 05, worked example: step 100 widens the row (reason 2, PEND_STEP 102); from HOLD_CNT 2, step 115 narrows it (reason 3, PEND_STEP 117). -/
def exRow (cnt cur : Nat) : BlendRow :=
  { word := BitVec.ofNat 256 (cur + 4 * cur + cnt * 2 ^ 48 + 2 ^ 35 + 2 ^ 40 + 3 * 2 ^ 96 + 500 * 2 ^ 112 + 2000 * 2 ^ 132 + 500 * 2 ^ 152 + 2000 * 2 ^ 172 + 65536 * 2 ^ 192), decided := true }
theorem test_blend :
    (let r := (exRow 0 0).decide_ { cnt := [50331648, 0, 0, 0, 0, 0, 150000, 0] } 100 2; (r.2, rowCur r.1.word, rowPendStep r.1.word)) = (2, 1, 102) ∧
    (let r := (exRow 2 1).decide_ { cnt := [50331648, 0, 0, 0, 0, 0, 9000, 0] } 115 2; (r.2, rowCur r.1.word, rowPendStep r.1.word)) = (3, 0, 117) ∧
    (let r := (exRow 2 1).decide_ { cnt := [50331648, 0, 0, 0, 0, 0, 30000, 0] } 112 2; rowHoldCnt r.1.word) = 0 := by decide +kernel
/-- CRC-32C (R225, R264): the published check value of the nine digits. -/
theorem test_crc32c : crc32c [0x31, 0x32, 0x33, 0x34, 0x35, 0x36, 0x37, 0x38, 0x39] = 0xE3069283 := by decide +kernel

/-! ## Instructions, by hand -/

def withS (r : Nat) (v : Word) : State := withF fun x => x.writeS r v
def sAfter (c : Instr) (s : State) (r : Nat) : Word := match exec c s with | .next t => (t.streamAt 0 .F).readS r | _ => 0xDEAD
def pAfter (c : Instr) (s : State) (r : Nat) : Bool := match exec c s with | .next t => (t.streamAt 0 .F).readP r | _ => false
def pcAfter (c : Instr) (s : State) : BitVec 48 := match exec c s with | .next t => (t.streamAt 0 .F).pc | _ => 0xDEAD
/-- Table 07-8: an addition wraps at 64 bits; the destination may be its source. -/
theorem test_salu_wraps : sAfter (.salu (at0 { func := 0, dst := 1, srca := 1, imm := 1 })) (withS 1 (-1)) 1 = 0 := by decide +kernel
/-- Table 07-8, R151: −1 < 0 signed and not unsigned. -/
theorem test_scmp : pAfter (.scmp (at0 { func := 2, dst := 0x41, srca := 1, imm := 0 })) (withS 1 (-1)) 1 = true ∧
    pAfter (.scmp (at0 { func := 4, dst := 0x41, srca := 1, imm := 0 })) (withS 1 (-1)) 1 = false := by decide +kernel
/-- BRDEC branches by IMM × 16 from itself while the register is not 0. -/
theorem test_brdec : pcAfter (.brdec (at0 { dst := 1, imm := 2 })) (withS 1 2) = 32 ∧ pcAfter (.brdec (at0 { dst := 1, imm := 2 })) (withS 1 1) = 16 := by decide +kernel
/-- LDI sign-extends its immediate. -/
theorem test_ldi : sAfter (.ldi (at0 { func := 0, dst := 1, ext := 0x8000000000000001 })) base 1 = 0x8000000000000001 := by decide +kernel
/-- SALU FUNC 14 is undefined (Table 07-8): no register is written. -/
theorem test_salu_illegal : sAfter (.salu (at0 { func := 14, dst := 1, srca := 1, imm := 1 })) (withS 1 5) 1 = 5 := by decide +kernel


/-- Tables 14-5, 15-5: at reset MBX_STATUS shows mailbox mode on both ports, port A the steward, firmware not ready. -/
theorem test_mbxStatus : State.reset.mbxStatus .A = 12 ∧ State.reset.mbxStatus .B = 4 := by decide +kernel

/-! ## Witnesses: the turns of training, suspended segments, fences and hours -/

theorem witness_PortTraining_turn :
    base.trainTurn 5 = true ∧ ({ base with fw := { base.fw with handoff := true } } : State).trainTurn 5 = false ∧
    (let s := withPort 9 { state := .retrain, holding := true } { base with fw := { base.fw with trainFirst := [9] } }
     s.trainTurn 9 = true ∧ s.trainTurn 5 = false) := by
  decide +kernel
theorem witness_LanesAndLosses_anchor : act0.anchor = false ∧ ({ act0 with anchor := true } : Port).anchor = true ∧
    (({ act0 with crcFail := 7, crcHour := 5, rxFlits := 10 ^ 9 } : Port).hour = (2, 10 ^ 9)) ∧ act0.hour = (0, 0) := by
  decide +kernel
theorem witness_GuardsAndDigests_start : digestState.mayStart 0 = true := by decide +kernel
theorem witness_LostMessages_noPort : (lostState []).otherPort lost0 = none ∧ (lostState [(63, { state := .active, dir := 0 })]).otherPort lost0 = some 63 := by
  decide +kernel
/-- A port whose logical number is fenced for the partition, and one that is not. -/
theorem witness_BoardLines_fence : (let s := withPort 7 { act0 with lport := 63 } { jobState with part := [(0, { jobState.partAt 0 with fence := 1#64 <<< 63 })] }
    s.fencedAt 0 7 = true ∧ s.fencedAt 0 6 = false) ∧
    (∀ o ∈ (boardState false).board, (boardState false).boardFenced 7 o = false) ∧
    (∀ o ∈ (boardState false).board, ({ (boardState false) with part := [(0, { (boardState false).partAt 0 with fence := 1 })] } : State).boardFenced 0 o = true) := by
  decide +kernel
/-- A margin segment under a lowered rail; a rated segment is never suspended. -/
def lowRail (n : Nat) : State := { (provState {}) with pwr := { base.pwr with offset := n } }
theorem witness_ProvingSegments_suspended :
    (lowRail 1).suspended 1 (seg0 1 0 0) = true ∧ (lowRail 0).suspended 1 (seg0 1 0 0) = false ∧ (lowRail 1).suspended 1 (seg0 0 0 0) = false := by
  have h : (lowRail 1).suspended 1 (seg0 1 0 0) = decide (ratedSet - 1 - 0 < ratedSet) ∧ (lowRail 0).suspended 1 (seg0 1 0 0) = decide (ratedSet - 0 - 0 < ratedSet) := ⟨rfl, rfl⟩
  refine ⟨?_, ?_, rfl⟩
  · rw [h.1, ratedSet]; cases Config.gradeL <;> decide
  · rw [h.2]; simp
theorem witness_ProvingOutcomes_window : windowState.safeState = false ∧ (windowState.fromNext 0).head? = some 0 := by decide +kernel

end Sys2Proof.Tests
end

section
/-! What a fetch leaves alone (R152), and what the command of an instruction makes of its issue. -/

namespace Sys2Proof.Proofs

open Sys2Proof.Machine Sys2Proof.Laws

/-! ## The frame of a fetch -/

/-- A stream without what a fetch writes: its fetch buffer, the lines of it that failed, the read set of its brew (R152, R209). -/
def Stream.noFetch (x : Stream) : Stream := { x with fetchBuf := [], fetchBad := [], brew := { x.brew with extReads := [] } }

/-- From `s` to `t` the stream of `i` has fetched: its stream is as before but for the fetch buffer and the brew's read set, its tile but for the
streams, the package but for tiles, error counts of stacks and poison (R203); counters of physical tiles are left open (R59). -/
structure FetchKeeps (i : Issue) (s t : State) : Prop where
  rest   : { t with tile := [], ptile := [], stack := [], poison := [] } = { s with tile := [], ptile := [], stack := [], poison := [] }
  tile   : { t.tileAt i.tile with str := [] } = { s.tileAt i.tile with str := [] }
  stream : Stream.noFetch (t.streamAt i.tile i.stream) = Stream.noFetch (s.streamAt i.tile i.stream)

section Fetch
variable {i : Issue} {s t u : State}

theorem FetchKeeps.refl : FetchKeeps i s s := ⟨rfl, rfl, rfl⟩

theorem FetchKeeps.trans (h : FetchKeeps i s t) (h' : FetchKeeps i t u) : FetchKeeps i s u :=
  ⟨h'.rest.trans h.rest, h'.tile.trans h.tile, h'.stream.trans h.stream⟩

theorem FetchKeeps.foldl {α : Type} {f : State → α → State} (h : ∀ s a, FetchKeeps i s (f s a)) (xs : List α) : FetchKeeps i s (xs.foldl f s) :=
  List.foldlRecOn xs f .refl fun _ hb _ _ => hb.trans (h _ _)

theorem fetchKeeps_modStream {f : Stream → Stream} (h : ∀ x, Stream.noFetch (f x) = Stream.noFetch x) :
    FetchKeeps i s (s.modStream i.tile i.stream f) where
  rest := rfl
  tile := by simp only [State.modStream, tileAt_modTile_same]; rfl
  stream := by rw [streamAt_modStream_same, h]

/-- A read through the ECC changes error counts of stacks and poison alone (R203). -/
theorem eccRead_eq (s : State) (hw : Hw) (ls : List Nat) : ∃ k p, (s.eccRead hw ls).1 = { s with stack := k, poison := p } := by
  have hc : ∃ k, (ls.filter hw.memCorr.contains).foldl State.lineCorrected s = { s with stack := k } :=
    List.foldlRecOn (motive := fun t : State => ∃ k, t = { s with stack := k }) _ _ ⟨s.stack, rfl⟩ fun _ ⟨k, hk⟩ _ _ => by subst hk; exact ⟨_, rfl⟩
  obtain ⟨k, hk⟩ := hc
  unfold State.eccRead
  rw [hk]
  dsimp only
  split
  · exact ⟨k, s.poison, rfl⟩
  · exact ⟨_, _, rfl⟩

theorem fetchKeeps_fetchLine (s : State) (l : Nat) : FetchKeeps i s (State.fetchLine i.tile i.stream i.hw s l) := by
  obtain ⟨k, p, h⟩ := eccRead_eq s i.hw [l]
  unfold State.fetchLine
  dsimp only
  rw [h]
  refine FetchKeeps.trans (t := { s with stack := k, poison := p }) ?_ ?_
  · exact ⟨rfl, rfl, rfl⟩
  refine fetchKeeps_modStream fun x => ?_
  unfold Stream.noFetch
  dsimp only
  split <;> rfl

theorem fetchKeeps_fetchBlock (s : State) (b : Nat) : FetchKeeps i s (State.fetchBlock i s b) :=
  (FetchKeeps.foldl fetchKeeps_fetchLine _).trans (fetchKeeps_modStream fun _ => rfl)

/-- The frame of a fetch. -/
theorem fetch_keeps (i : Issue) (s : State) : FetchKeeps i s (s.fetch i) := by
  unfold State.fetch
  split
  · exact .refl
  · split
    · exact .refl
    · have touched := fetchKeeps_modStream (i := i) (s := s)
        (f := fun x => { x with fetchBuf := touchFetch x.fetchBuf x.pc.toNat }) fun _ => rfl
      exact touched.trans (.foldl fetchKeeps_fetchBlock _)

/-- So it is where counters of physical tiles have changed before. -/
theorem fetch_ptile_keeps (i : Issue) (s : State) (p : Map PTile) : FetchKeeps i s (State.fetch { s with ptile := p } i) := by
  refine FetchKeeps.trans (t := { s with ptile := p }) ?_ (fetch_keeps i _)
  exact ⟨rfl, rfl, rfl⟩

variable (h : FetchKeeps i s t)
include h

theorem FetchKeeps.run : (t.streamAt i.tile i.stream).run = (s.streamAt i.tile i.stream).run := (congrArg Stream.run h.stream :)
theorem FetchKeeps.pc : (t.streamAt i.tile i.stream).pc = (s.streamAt i.tile i.stream).pc := (congrArg Stream.pc h.stream :)
theorem FetchKeeps.step : (t.streamAt i.tile i.stream).step = (s.streamAt i.tile i.stream).step := (congrArg Stream.step h.stream :)
theorem FetchKeeps.sreg : (t.streamAt i.tile i.stream).sreg = (s.streamAt i.tile i.stream).sreg := (congrArg Stream.sreg h.stream :)
theorem FetchKeeps.halt : (t.streamAt i.tile i.stream).halt = (s.streamAt i.tile i.stream).halt := (congrArg Stream.halt h.stream :)
theorem FetchKeeps.brew :
    { (t.streamAt i.tile i.stream).brew with extReads := [] } = { (s.streamAt i.tile i.stream).brew with extReads := [] } :=
  (congrArg Stream.brew h.stream :)
theorem FetchKeeps.phase : (t.streamAt i.tile i.stream).brew.phase = (s.streamAt i.tile i.stream).brew.phase := (congrArg Brew.phase h.brew :)
theorem FetchKeeps.statusReg : (t.streamAt i.tile i.stream).brew.statusReg = (s.streamAt i.tile i.stream).brew.statusReg :=
  (congrArg Brew.statusReg h.brew :)
theorem FetchKeeps.resume : (t.streamAt i.tile i.stream).brew.resume = (s.streamAt i.tile i.stream).brew.resume := (congrArg Brew.resume h.brew :)
theorem FetchKeeps.openPc : (t.streamAt i.tile i.stream).brew.openPc = (s.streamAt i.tile i.stream).brew.openPc := (congrArg Brew.openPc h.brew :)
theorem FetchKeeps.readS (r : Nat) : (t.streamAt i.tile i.stream).readS r = (s.streamAt i.tile i.stream).readS r := by
  unfold Stream.readS; rw [h.sreg]
theorem FetchKeeps.ls : (t.tileAt i.tile).ls = (s.tileAt i.tile).ls := (congrArg Tile.ls h.tile :)
theorem FetchKeeps.brwCnt : (t.tileAt i.tile).brwCnt = (s.tileAt i.tile).brwCnt := (congrArg Tile.brwCnt h.tile :)
theorem FetchKeeps.mem : t.mem = s.mem := (congrArg State.mem h.rest :)
theorem FetchKeeps.part : t.part = s.part := (congrArg State.part h.rest :)
theorem FetchKeeps.ops : t.ops = s.ops := (congrArg State.ops h.rest :)
theorem FetchKeeps.upe : t.upe = s.upe := (congrArg State.upe h.rest :)

end Fetch

/-! ## Counters of physical tiles play no part in issue -/

section PTile
variable (i : Issue) (g : Needs) (s : State) (p : Map PTile)

theorem eccRead_ptile (hw : Hw) (ls : List Nat) :
    State.eccRead { s with ptile := p } hw ls = ({ (s.eccRead hw ls).1 with ptile := p }, (s.eccRead hw ls).2) := by
  have hc := List.foldl_hom (fun s : State => { s with ptile := p }) (g₁ := State.lineCorrected) (g₂ := State.lineCorrected)
    (l := ls.filter hw.memCorr.contains) (init := s) fun _ _ => rfl
  unfold State.eccRead
  rw [hc]
  dsimp only [State.poisoned]
  split <;> rfl

theorem fetchLine_ptile (n : Nat) (st : StreamId) (hw : Hw) (l : Nat) :
    State.fetchLine n st hw { s with ptile := p } l = { State.fetchLine n st hw s l with ptile := p } := by
  unfold State.fetchLine
  rw [eccRead_ptile]
  rfl

theorem fetchBlock_ptile (b : Nat) : State.fetchBlock i { s with ptile := p } b = { State.fetchBlock i s b with ptile := p } := by
  have hl : (s.blockLines b).foldl (State.fetchLine i.tile i.stream i.hw) { s with ptile := p } =
      { (s.blockLines b).foldl (State.fetchLine i.tile i.stream i.hw) s with ptile := p } :=
    List.foldl_hom (fun s : State => { s with ptile := p }) fun s l => fetchLine_ptile s p _ _ _ l
  exact congrArg (fun s : State => s.modStream i.tile i.stream fun x => x.putBlock b) hl

theorem foldl_fetchBlock_ptile (bs : List Nat) :
    bs.foldl (State.fetchBlock i) { s with ptile := p } = { bs.foldl (State.fetchBlock i) s with ptile := p } :=
  List.foldl_hom (fun s : State => { s with ptile := p }) fun s b => fetchBlock_ptile i s p b

theorem missing_ptile (n : Nat) (st : StreamId) : State.missing { s with ptile := p } n st = s.missing n st := rfl
theorem due_ptile (n : Nat) (st : StreamId) : State.due { s with ptile := p } n st = s.due n st := rfl
theorem fetchOver_ptile (n : Nat) (st : StreamId) : State.fetchOver { s with ptile := p } n st = s.fetchOver n st := rfl

theorem fetch_ptile : State.fetch { s with ptile := p } i = { s.fetch i with ptile := p } := by
  unfold State.fetch
  rw [missing_ptile, due_ptile, fetchOver_ptile]
  cases s.missing i.tile i.stream with
  | nil => rfl
  | cons b bs =>
    dsimp only
    split
    · rfl
    · exact foldl_fetchBlock_ptile i (s.modStream i.tile i.stream _) p (b :: bs)

theorem verdict_ptile : verdict i g { s with ptile := p } = verdict i g s := by
  unfold verdict
  rw [fetch_ptile]
  rfl

end PTile

/-! ## Commands and issues -/

/-- ACC.OUT counts a tally mismatch at its physical tile before it issues (R59). -/
theorem execAccOut_eq (i : Issue) (s : State) : ∃ p, execAccOut i s = issue i (needsAccOut i s) (effAccOut i) { s with ptile := p } := by
  unfold execAccOut State.modPhysOf
  dsimp only
  split
  · split
    · exact ⟨_, rfl⟩
    · exact ⟨s.ptile, rfl⟩
  · exact ⟨s.ptile, rfl⟩

/-- The command of an instruction issues it, with an effect of its own; no more than counters of physical tiles change before that. -/
theorem exec_issueOf {c : Instr} {s : State} {i : Issue} {g : Needs} (h : issueOf s c = some (i, g)) :
    ∃ eff p, exec c s = issue i g eff { s with ptile := p } := by
  cases c with
  | accOut j =>
    cases h
    exact ⟨_, execAccOut_eq _ s⟩
  | _ => cases h <;> unfold exec <;> exact ⟨_, s.ptile, rfl⟩

end Sys2Proof.Proofs
end

section
/-! The verdict of an issue, said once: what holds an instruction back before its operands are looked at, and what decides afterwards. -/

namespace Sys2Proof.Proofs

open Sys2Proof.Machine Sys2Proof.Laws

section Verdict
variable {i : Issue} {g g' : Needs} {s : State}

/-- Nothing holds the instruction back before its operands are looked at: its brew is not in conflict and has room for the fetch, its line is owned,
fetched and sound, it is legal, its guard is known and true, and it is no fence in an open brew. -/
structure Unheld (i : Issue) (g : Needs) (s : State) : Prop where
  calm  : (((s.tileAt i.tile).streamAt i.stream).brew.phase == .open_ && ((s.tileAt i.tile).streamAt i.stream).brew.conflict) = false
  room  : (((s.tileAt i.tile).streamAt i.stream).brew.phase == .open_ && s.fetchOver i.tile i.stream) = false
  line  : ∃ l, s.lineOf ((s.tileAt i.tile).streamAt i.stream).pc.toNat = some l ∧ s.owns ((s.tileAt i.tile).streamAt i.stream).part l = true ∧
    ((s.tileAt i.tile).streamAt i.stream).fetchBad.contains l = false
  block : ((s.tileAt i.tile).streamAt i.stream).fetchBuf.contains (((s.tileAt i.tile).streamAt i.stream).pc.toNat / 1024) = true
  legal : lowestBit g.ill = none
  known : ((s.tileAt i.tile).blockers i.stream [.p i.word.guard.toNat] [] false).isEmpty = true
  guard : ((s.tileAt i.tile).streamAt i.stream).readP i.word.guard.toNat ≠ i.word.gneg
  fence : (((s.tileAt i.tile).streamAt i.stream).brew.phase == .open_ && g.fence) = false

/-- What can become of an instruction that is due, its block fetched (R149, R150, R152, R155, R156, R175, R209, R211, R214, R218). -/
inductive Fate (i : Issue) (g : Needs) (s : State) : Verdict → Prop
  | wait (c : Cause) : Fate i g s (.wait c)
  | conflict : Fate i g s (.spill 1)
  | fetchRange (d : Word) : Fate i g s (.fault 0x05 d)
  | readSet (h : s.fetchOver i.tile i.stream = true) : Fate i g s (.spill 2)
  | badLine (d : Word) : Fate i g s (.fault 0x22 d)
  | illegal (d : Word) : Fate i g s (.fault 0x01 d)
  | skip : Fate i g s .skip
  | fence : Fate i g s (.spill 4)
  | ownSpill (c : Nat) (hu : Unheld i g s) (hs : g.spill = some c) : Fate i g s (.spill c)
  | fault (k : Nat) (d : Word) (hu : Unheld i g s) (hw : waitsFor i g s = []) (hs : g.spill = none) (hf : faultsOf i g s = some (k, d)) :
      Fate i g s (.fault k d)
  | sound (v : Verdict) (hu : Unheld i g s) (hw : waitsFor i g s = []) (hs : g.spill = none) (hf : faultsOf i g s = none)
      (hv : v = .spill 2 ∨ v = .check ∨ v = .run) : Fate i g s v

theorem verdictOf_fate : Fate i g s (verdictOf i g s) := by
  unfold verdictOf
  dsimp only
  cases hl : s.lineOf ((s.tileAt i.tile).streamAt i.stream).pc.toNat with
  | none => exact iteInduction (fun _ => .conflict) fun _ => .fetchRange _
  | some l =>
    refine iteInduction (fun _ => .conflict) fun calm => ?_
    refine iteInduction (fun _ => .fetchRange _) fun owned => ?_
    refine iteInduction (fun full => .readSet (Bool.and_eq_true_iff.mp full).2) fun room => ?_
    refine iteInduction (fun _ => .wait _) fun block => ?_
    refine iteInduction (fun _ => .badLine _) fun sound => ?_
    cases legal : lowestBit g.ill with
    | some b => exact .illegal _
    | none =>
      refine iteInduction (fun _ => .wait _) fun known => ?_
      refine iteInduction (fun _ => .skip) fun guard => ?_
      refine iteInduction (fun _ => .fence) fun fence => ?_
      have hu : Unheld i g s :=
        ⟨by simpa using calm, by simpa using room, ⟨l, hl, by simpa using owned, by simpa using sound⟩, by simpa using block, legal,
          by simpa using known, guard, by simpa using fence⟩
      cases hw : waitsFor i g s with
      | cons c cs => exact .wait _
      | nil =>
        cases hs : g.spill with
        | some c => exact .ownSpill c hu hs
        | none =>
          cases hf : faultsOf i g s with
          | some f => exact .fault f.1 f.2 hu hw hs hf
          | none =>
            exact iteInduction (fun _ => .sound _ hu hw hs hf (.inl rfl)) fun _ =>
              iteInduction (fun _ => .sound _ hu hw hs hf (.inr (.inl rfl))) fun _ => .sound _ hu hw hs hf (.inr (.inr rfl))

/-- Only an instruction's fields and its being a fence decide whether it is held back before its operands are looked at. -/
theorem Unheld.of_eq (h : Unheld i g s) (hi : g'.ill = g.ill) (hf : g'.fence = g.fence) : Unheld i g' s :=
  { h with legal := hi ▸ h.legal, fence := hf ▸ h.fence }

theorem Unheld.verdictOf_wait (h : Unheld i g s) {c : Cause} {cs : List Cause} (hw : waitsFor i g s = c :: cs) :
    verdictOf i g s = .wait (firstCause (c :: cs)) := by
  obtain ⟨l, hl, owned, sound⟩ := h.line
  unfold verdictOf
  dsimp only
  simp only [h.calm, h.room, hl, owned, sound, h.block, h.legal, h.known, h.guard, h.fence, hw, Bool.not_true, Bool.false_eq_true, if_false]

theorem Unheld.verdictOf_fault (h : Unheld i g s) (hw : waitsFor i g s = []) (hs : g.spill = none) {f : Nat × Word} (hf : faultsOf i g s = some f) :
    verdictOf i g s = .fault f.1 f.2 := by
  obtain ⟨l, hl, owned, sound⟩ := h.line
  unfold verdictOf
  dsimp only
  simp only [h.calm, h.room, hl, owned, sound, h.block, h.legal, h.known, h.guard, h.fence, hw, hs, hf, Bool.not_true, Bool.false_eq_true, if_false]

/-- An instruction that is due meets its fate once its block is fetched, whatever its needs. -/
theorem verdict_due (hi : verdict i g s ≠ .idle) (hb : verdict i g s ≠ .wait .bench) :
    (s.streamAt i.tile i.stream).run = true ∧ ∀ g', verdict i g' s = verdictOf i g' (s.fetch i) := by
  unfold verdict at hi hb
  dsimp only at hi hb
  split at hi
  · exact absurd rfl hi
  next hrun =>
  rw [if_neg hrun] at hb
  split at hb
  · exact absurd rfl hb
  next hbench =>
  rw [if_neg hbench] at hi
  split at hi
  · exact absurd rfl hi
  next hdue =>
  obtain ⟨running, -⟩ : (s.streamAt i.tile i.stream).run = true ∧ (s.tileAt i.tile).absent = false := by
    simpa [streamAt_tile] using hrun
  refine ⟨running, fun g' => ?_⟩
  unfold verdict
  rw [if_neg hrun, if_neg hbench, if_neg hdue]

/-! ## Faults met together (R156) -/

/-- The fault of an uncorrectable word of local store, where the instruction reads one (R186). -/
def wordFaults (i : Issue) (g : Needs) (s : State) : List (Nat × Word) :=
  match (s.tileAt i.tile).badRead i g with
  | some w => [(0x21, BitVec.ofNat 64 (8 * w))]
  | none => []

theorem faultsOf_eq : faultsOf i g s = lowestFault (g.faults ++ wordFaults i g s) := rfl

theorem lowestFault_eq_none {fs : List (Nat × Word)} : lowestFault fs = none ↔ fs = [] := by
  cases fs with
  | nil => simp [lowestFault]
  | cons f fs =>
    simp only [lowestFault, reduceCtorEq, iff_false]
    cases lowestFault fs with
    | none => exact Option.some_ne_none _
    | some d => dsimp only; split <;> exact Option.some_ne_none _

/-- Of several faults the one with the lowest code is chosen. -/
theorem lowestFault_lowest {fs : List (Nat × Word)} {f : Nat × Word} (h : lowestFault fs = some f) : f ∈ fs ∧ ∀ x ∈ fs, f.1 ≤ x.1 := by
  induction fs generalizing f with
  | nil => cases h
  | cons e fs ih =>
    rw [lowestFault] at h
    cases hl : lowestFault fs with
    | none =>
      rw [hl] at h
      cases h
      simp [lowestFault_eq_none.mp hl]
    | some d =>
      obtain ⟨hd, hle⟩ := ih hl
      rw [hl] at h
      dsimp only at h
      split at h <;> cases h
      · next hlt => exact ⟨List.mem_cons_of_mem _ hd, List.forall_mem_cons.mpr ⟨Nat.le_of_lt hlt, hle⟩⟩
      · next hge => exact ⟨List.mem_cons_self, List.forall_mem_cons.mpr ⟨Nat.le_refl _, fun x hx => Nat.le_trans (Nat.le_of_not_lt hge) (hle x hx)⟩⟩

theorem wordFaults_eq_of_lowest {f : Nat × Word} (h : lowestFault (wordFaults i g s) = some f) : wordFaults i g s = [f] := by
  revert h
  unfold wordFaults
  split
  · intro h; cases h; rfl
  · intro h; cases h

/-! ## A stall of the instruction's own -/

/-- An instruction that waits for nothing else waits for its own stall alone. -/
theorem waitsFor_stall {c : Cause} (h : waitsFor i { g with stall := none } s = []) (hs : g.stall = some c) : waitsFor i g s = [c] := by
  unfold waitsFor at h ⊢
  dsimp only at h ⊢
  split at h
  · next hne => exact absurd (List.append_eq_nil_iff.mp h).1 (by simpa using hne)
  · next he =>
    rw [if_neg he]
    simp only [Option.toList_none, List.append_nil, List.append_eq_nil_iff] at h
    obtain ⟨⟨⟨⟨⟨hd, hb⟩, hr⟩, hh⟩, hl⟩, hp⟩ := h
    unfold Needs.allReads Needs.allWrites at *
    dsimp only at *
    rw [hd, hb, hr, hh, hl, hp, hs]
    rfl

end Verdict

end Sys2Proof.Proofs
end

section
/-! What a spill delivers to its stream (R174, R214), and what a halting fault leaves in its stream (R155). -/

namespace Sys2Proof.Proofs

open Sys2Proof.Machine Sys2Proof.Laws

/-! ## Spills -/

/-- The status word, the resume point and BRW_TSTAT of a brew that has spilled. -/
def Stream.deliver (b : Brew) (code user : Nat) (x : Stream) : Stream :=
  { (x.writeS b.statusReg (BitVec.ofNat 64 (256 * user + code))) with
    pc := b.resume, waiting := false
    tstat := { x.tstat with openPc := b.openPc, user := BitVec.ofNat 8 user, code := BitVec.ofNat 8 code } }

/-- A stream whose brew has spilled: nothing staged is left, the spill is delivered. -/
def Stream.afterSpill (code user : Nat) (x : Stream) : Stream :=
  Stream.deliver x.brew code user { x with brew := { spilled := decide (code ≠ 3) } }

section Spill
variable {s : State} {n : Nat} {st : StreamId} {code user : Nat}

theorem dropWaits_streamAt (t : Tile) (a : StreamId) : (t.dropWaits st).streamAt a = t.streamAt a := rfl
theorem unlock_tileAt (m : Nat) : (s.unlock n st).tileAt m = s.tileAt m := rfl
theorem unlock_streamAt (m : Nat) (a : StreamId) : (s.unlock n st).streamAt m a = s.streamAt m a := rfl

theorem modStream_tileAt_same (f : Stream → Stream) : (s.modStream n st f).tileAt n = (s.tileAt n).modStream st f := tileAt_modTile_same _ _ _

theorem dropBrew_streamAt (t : Tile) (b : Bool) : (t.dropBrew st b).streamAt st = { t.streamAt st with brew := { spilled := b } } :=
  Tile.streamAt_modStream_same t st fun x => { x with brew := { spilled := b } }

theorem countBrew_streamAt (t : Tile) (c : Nat) (a : StreamId) : (t.countBrew st c).streamAt a = t.streamAt a := rfl

theorem spillBrew_idle (h : (s.streamAt n st).brew.phase = .idle) : s.spillBrew n st code user = s := by
  unfold State.spillBrew
  dsimp only
  rw [if_pos (by simp [h])]

theorem spillBrew_eq (h : (s.streamAt n st).brew.phase ≠ .idle) : s.spillBrew n st code user =
    (((s.modTile n fun t => (t.dropBrew st (decide (code ≠ 3))).countBrew st code).modStream n st
      (Stream.deliver (s.streamAt n st).brew code user)).unlock n st) := by
  unfold State.spillBrew
  dsimp only
  rw [if_neg (by simpa using h)]
  rfl

theorem spillBrew_streamAt (h : (s.streamAt n st).brew.phase ≠ .idle) :
    (s.spillBrew n st code user).streamAt n st = Stream.afterSpill code user (s.streamAt n st) := by
  rw [spillBrew_eq h, unlock_streamAt, streamAt_modStream_same, streamAt_tile (s.modTile n _), tileAt_modTile_same, countBrew_streamAt, dropBrew_streamAt]
  rfl

theorem spillBrew_ls (h : (s.streamAt n st).brew.phase ≠ .idle) : ((s.spillBrew n st code user).tileAt n).ls = (s.tileAt n).ls := by
  rw [spillBrew_eq h, unlock_tileAt, modStream_tileAt_same, tileAt_modTile_same]
  rfl

theorem spillBrew_brwCnt (h : (s.streamAt n st).brew.phase ≠ .idle) : ((s.spillBrew n st code user).tileAt n).brwCnt =
    Map.upd 0 (s.tileAt n).brwCnt (8 * st.code + code) (satAdd max48 ·) := by
  rw [spillBrew_eq h, unlock_tileAt, modStream_tileAt_same, tileAt_modTile_same]
  rfl

/-- A spill changes the tile of the brew and the locks of its pour, nothing else. -/
theorem spillBrew_outside (h : (s.streamAt n st).brew.phase ≠ .idle) : ∃ x,
    s.spillBrew n st code user = { s with tile := x, locks := s.locks.filter fun l => !decide (l.2 = (n, st.code)) } := by
  rw [spillBrew_eq h]
  generalize hu : (State.modStream _ n st _) = u
  obtain ⟨x, hx⟩ : ∃ x, u = { s with tile := x } := ⟨u.tile, by rw [← hu]; rfl⟩
  exact ⟨x, by rw [hx]; rfl⟩

theorem afterSpill_brew (x : Stream) : (Stream.afterSpill code user x).brew = { spilled := decide (code ≠ 3) } :=
  writeS_brew _ _ _

theorem writeS_run (x : Stream) (r : Nat) (v : Word) : (x.writeS r v).run = x.run := by unfold Stream.writeS; split <;> rfl
theorem writeS_step (x : Stream) (r : Nat) (v : Word) : (x.writeS r v).step = x.step := by unfold Stream.writeS; split <;> rfl

theorem afterSpill_run (x : Stream) : (Stream.afterSpill code user x).run = x.run := writeS_run _ _ _
theorem afterSpill_step (x : Stream) : (Stream.afterSpill code user x).step = x.step := writeS_step _ _ _
theorem afterSpill_halt (x : Stream) : (Stream.afterSpill code user x).halt = x.halt := writeS_halt _ _ _

theorem afterSpill_readS (x : Stream) (r : Nat) : (Stream.afterSpill code user x).readS r =
    if r = 0 then 0 else if r = x.brew.statusReg ∧ x.brew.statusReg < 12 then BitVec.ofNat 64 (256 * user + code) else x.readS r :=
  readS_writeS { x with brew := _ } x.brew.statusReg r (BitVec.ofNat 64 (256 * user + code))

theorem spillBrew_run : ((s.spillBrew n st code user).streamAt n st).run = (s.streamAt n st).run := by
  by_cases h : (s.streamAt n st).brew.phase = .idle
  · rw [spillBrew_idle h]
  · rw [spillBrew_streamAt h, afterSpill_run]

/-- A spill is delivered: the whole of what R174 and R214 say of it. -/
theorem spillBrew_spilled (h : (s.streamAt n st).brew.phase ≠ .idle) : Spilled n st code user s (s.spillBrew n st code user) := by
  obtain ⟨x, hx⟩ := spillBrew_outside (code := code) (user := user) h
  unfold Spilled
  dsimp only
  rw [spillBrew_streamAt h, spillBrew_ls h, spillBrew_brwCnt h, hx, afterSpill_brew]
  refine ⟨rfl, rfl, rfl, rfl, rfl, rfl, rfl, ?_, ?_, rfl, rfl, rfl, rfl, ?_, Map.get_upd_same _ _ _⟩
  · intro h1 h11
    rw [afterSpill_readS, if_neg (by omega), if_pos ⟨rfl, by omega⟩]
  · intro r hr
    rw [afterSpill_readS]
    split
    · next h0 => simp [h0, Stream.readS]
    · rw [if_neg fun hc => hr hc.1]
  · intro l hl
    simpa using (List.mem_filter.mp hl).2

end Spill

/-! ## The end of a program -/

/-- What a program's end leaves for others to read: whether it runs, and its fault. -/
def Stream.outcome (x : Stream) : Bool × FaultReg := (x.run, x.fault)

section End
variable (t : Tile) (s : State) (n : Nat) (st a : StreamId)

theorem grantAcqs_outcome : Stream.outcome (t.grantAcqs.streamAt a) = Stream.outcome (t.streamAt a) := by
  refine List.foldlRecOn (motive := fun u : Tile => Stream.outcome (u.streamAt a) = Stream.outcome (t.streamAt a)) t.acqs _ rfl fun u hu x _ => ?_
  dsimp only
  split
  · change Stream.outcome (((u.modBank x.1 _).modStream x.2 Stream.advance).streamAt a) = _
    rw [Tile.streamAt_modStream]
    split
    · next h => subst h; exact hu
    · exact hu
  · exact hu

theorem freeLeaving_outcome : Stream.outcome (t.freeLeaving.streamAt a) = Stream.outcome (t.streamAt a) := by
  unfold Tile.freeLeaving
  rw [grantAcqs_outcome]
  refine List.foldlRecOn (motive := fun u : Tile => Stream.outcome (u.streamAt a) = Stream.outcome (t.streamAt a)) _ _ rfl fun u hu x _ => ?_
  split
  · split <;> exact hu
  · exact hu

theorem releaseBanks_outcome : Stream.outcome ((t.releaseBanks st).streamAt a) = Stream.outcome (t.streamAt a) := by
  unfold Tile.releaseBanks
  rw [freeLeaving_outcome]
  refine List.foldlRecOn (motive := fun u : Tile => Stream.outcome (u.streamAt a) = Stream.outcome (t.streamAt a)) _ _ rfl fun u hu x _ => ?_
  split <;> exact hu

theorem applyIdleClear_str : t.applyIdleClear.str = t.str := by
  unfold Tile.applyIdleClear
  dsimp only
  split <;> rfl

theorem passBoundary_str (now : BitVec 64) (before : Option Nat) : (t.passBoundary now before).str = t.str := applyIdleClear_str _

theorem raiseVector_tile (p : HostPort) (v : Nat) : (s.raiseVector p v).tile = s.tile := by
  unfold State.raiseVector
  dsimp only
  split <;> rfl

theorem fillSlot_tile (p : HostPort) : (s.fillSlot p).tile = s.tile := by
  unfold State.fillSlot
  dsimp only
  split
  · exact raiseVector_tile _ _ _
  · rfl

theorem event_tile (p : HostPort) (q : Option Nat) (e : Ev) : (s.event p q e).tile = s.tile := by
  unfold State.event
  dsimp only
  exact iteInduction (motive := fun u : State => u.tile = s.tile) (fun _ => fillSlot_tile _ _) fun _ => rfl

theorem endMember_tile (l : BitVec 16) (k : BitVec 32) (r : Nat) : (s.endMember n st l k r).tile = s.tile := by
  unfold State.endMember
  dsimp only
  split
  · rfl
  · split
    · exact event_tile _ _ _ _
    · rfl

theorem checkParked_tile (p : Nat) : (s.checkParked p).tile = s.tile := by
  unfold State.checkParked
  dsimp only
  split
  · exact event_tile _ _ _ _
  · rfl

/-- Streams are read from the tiles alone. -/
theorem streamAt_of_tile {s u : State} (h : u.tile = s.tile) : u.streamAt n a = s.streamAt n a := by
  unfold State.streamAt State.tileAt; rw [h]

theorem crumbOut_tile (cls syn : Nat) (u : UnitId) (keys : List (Nat × Cb)) : (s.crumbOut cls syn u keys).tile = s.tile := by
  obtain ⟨q, b, h⟩ := crumbOut_eq s cls syn u keys
  rw [h]

/-- A running program ends: it runs no more, its fault register stands. -/
theorem endStream_outcome {s : State} {f : FaultReg} (h : Stream.outcome (s.streamAt n st) = (true, f)) (reason : Nat) :
    Stream.outcome ((s.endStream n st reason).streamAt n st) = (false, f) := by
  obtain ⟨hrun, hfault⟩ := Prod.mk.inj h
  unfold State.endStream
  dsimp only
  rw [if_neg (by simp [hrun]), streamAt_of_tile n st ((checkParked_tile _ _).trans (endMember_tile _ _ _ _ _ _)), streamAt_tile,
    tileAt_modTile_same, releaseBanks_outcome, tileAt_modTile_same, Tile.streamAt_congr (passBoundary_str _ _ _), dropWaits_streamAt,
    Tile.streamAt_modStream_same]
  exact congrArg (false, ·) hfault

/-- A halting fault of a running stream is recorded in its fault register, and its program ends. -/
theorem faultStream_outcome {s : State} (h : (s.streamAt n st).run = true) (pc : BitVec 48) (code : Nat) (d : Word) :
    Stream.outcome ((s.faultStream n st pc code d).streamAt n st) = (false, { valid := true, code := BitVec.ofNat 8 code, pc := pc, detail := d }) := by
  unfold State.faultStream State.haltStream
  dsimp only
  rw [if_neg (by simp [h])]
  generalize hu : ((s.spillBrew n st 6 0xFF).modStream n st fun x =>
    { x with fault := { valid := true, code := BitVec.ofNat 8 code, pc := pc, detail := d } }) = u
  have recorded : Stream.outcome (u.streamAt n st) = (true, { valid := true, code := BitVec.ofNat 8 code, pc := pc, detail := d }) := by
    rw [← hu, streamAt_modStream_same]
    exact congrArg (·, _) (spillBrew_run.trans h)
  refine endStream_outcome n st ((congrArg Stream.outcome (streamAt_of_tile n st ?_)).trans recorded) 4
  have told := event_tile u (u.partAt (s.streamAt n st).part).owner
  exact iteInduction (motive := fun v : State => v.tile = u.tile) (fun _ => told _ _) fun _ =>
    iteInduction (motive := fun v : State => v.tile = u.tile) (fun _ => (crumbOut_tile _ _ _ _ _).trans (told _ _)) fun _ => told _ _

end End

end Sys2Proof.Proofs
end

section
/-! The statements of chapter 07: the lowest fault code (R156), fence instructions in an open brew (R175), STEP on an open step (R121). -/

namespace Sys2Proof.Proofs

open Sys2Proof.Machine Sys2Proof.Laws

/-! ## An issue by its verdict -/

section Issue
variable {c : Instr} {i : Issue} {g : Needs} {s : State} {eff : BitVec 48 → State → State}

theorem issue_of_wait (hn : i.tile < nTiles) {w : Cause} (hv : verdict i g s = .wait w) :
    issue i g eff s = .next ((s.fetch i).modStream i.tile i.stream fun x => { (x.stall w) with ninth := g.ninth }) := by
  unfold issue
  rw [if_neg (Nat.not_le.mpr hn)]
  simp only [hv]

theorem issue_of_fault (hn : i.tile < nTiles) {k : Nat} {d : Word} (hv : verdict i g s = .fault k d) :
    issue i g eff s = .next ((s.fetch i).faultStream i.tile i.stream (s.streamAt i.tile i.stream).pc k d) := by
  unfold issue
  rw [if_neg (Nat.not_le.mpr hn)]
  simp only [hv]

theorem issue_of_spill (hn : i.tile < nTiles) {k : Nat} (hv : verdict i g s = .spill k) :
    issue i g eff s = .next (((s.fetch i).spillBrew i.tile i.stream k 0).tryHalt i.tile i.stream) := by
  unfold issue
  rw [if_neg (Nat.not_le.mpr hn)]
  simp only [hv]

/-- An instruction that runs without its stall waits for that stall alone. -/
theorem verdict_of_stall {w : Cause} (hv : verdict i { g with stall := none } s = .run) (hs : g.stall = some w) :
    verdict i g s = .wait (firstCause [w]) := by
  obtain ⟨-, due⟩ := verdict_due (i := i) (g := { g with stall := none }) (s := s) (by rw [hv]; nofun) (by rw [hv]; nofun)
  have fate : Fate i { g with stall := none } (s.fetch i) .run := hv ▸ due _ ▸ verdictOf_fate
  cases fate with
  | sound _ hu hw => exact (due g).trans ((hu.of_eq (g' := g) rfl rfl).verdictOf_wait (waitsFor_stall hw hs))

/-- An instruction that runs meets no fault. -/
theorem faults_of_run (hv : verdict i g s = .run) : g.faults = [] := by
  obtain ⟨-, due⟩ := verdict_due (i := i) (g := g) (s := s) (by rw [hv]; nofun) (by rw [hv]; nofun)
  have fate : Fate i g (s.fetch i) .run := hv ▸ due _ ▸ verdictOf_fate
  cases fate with
  | sound _ _ _ _ hf => exact (List.append_eq_nil_iff.mp (lowestFault_eq_none.mp hf)).1

/-- A spill after a fetch is the spill of the state before it. -/
theorem spilled_of_fetch {f t : State} {code user : Nat} (keep : FetchKeeps i s f) (h : Spilled i.tile i.stream code user f t) :
    Spilled i.tile i.stream code user s t := by
  unfold Spilled at h ⊢
  dsimp only at h ⊢
  simpa only [keep.resume, keep.statusReg, keep.openPc, keep.readS, keep.ls, keep.mem, keep.brwCnt] using h

variable (hc : issueOf s c = some (i, g)) (hn : i.tile < nTiles)
include hc hn

/-- An instruction that waits leaves its stream at it, with the cause. -/
theorem exec_of_wait {w : Cause} (hv : verdict i g s = .wait w) : ∃ t, exec c s = .next t ∧
    (t.streamAt i.tile i.stream).pc = (s.streamAt i.tile i.stream).pc ∧ (t.streamAt i.tile i.stream).step = (s.streamAt i.tile i.stream).step ∧
    (t.streamAt i.tile i.stream).waiting = true ∧ (t.streamAt i.tile i.stream).cause = w ∧ t.part = s.part ∧ t.mem = s.mem := by
  obtain ⟨eff, p, he⟩ := exec_issueOf hc
  have keep := fetch_ptile_keeps i s p
  refine ⟨_, he.trans (issue_of_wait hn ((verdict_ptile i g s p).trans hv)), ?_⟩
  rw [streamAt_modStream_same]
  exact ⟨keep.pc, keep.step, rfl, rfl, keep.part, keep.mem⟩

/-- An instruction that faults records its fault and halts its stream. -/
theorem exec_of_fault {k : Nat} {d : Word} (hr : (s.streamAt i.tile i.stream).run = true) (hv : verdict i g s = .fault k d) :
    ∃ t, exec c s = .next t ∧ Stream.outcome (t.streamAt i.tile i.stream) =
      (false, { valid := true, code := BitVec.ofNat 8 k, pc := (s.streamAt i.tile i.stream).pc, detail := d }) := by
  obtain ⟨eff, p, he⟩ := exec_issueOf hc
  have keep := fetch_ptile_keeps i s p
  exact ⟨_, he.trans (issue_of_fault hn ((verdict_ptile i g s p).trans hv)), faultStream_outcome _ _ (keep.run.trans hr) _ _ _⟩

/-- An instruction that spills an open brew at issue, in a stream with no stop due, delivers the spill and does nothing else. -/
theorem exec_of_spill {k : Nat} (ho : (s.streamAt i.tile i.stream).brew.phase = .open_) (hh : (s.streamAt i.tile i.stream).halt = none)
    (hv : verdict i g s = .spill k) : ∃ t, exec c s = .next t ∧ Spilled i.tile i.stream k 0 s t ∧
      (t.streamAt i.tile i.stream).run = (s.streamAt i.tile i.stream).run ∧ (t.streamAt i.tile i.stream).step = (s.streamAt i.tile i.stream).step ∧
      t.upe = s.upe ∧ t.part = s.part ∧ t.ops = s.ops := by
  obtain ⟨eff, p, he⟩ := exec_issueOf hc
  have keep := fetch_ptile_keeps i s p
  have busy : ((State.fetch { s with ptile := p } i).streamAt i.tile i.stream).brew.phase ≠ .idle := by
    rw [keep.phase, ho]; decide
  have goes := tryHalt_none (s := (State.fetch { s with ptile := p } i).spillBrew i.tile i.stream k 0) (n := i.tile) (st := i.stream)
    (by rw [spillBrew_streamAt busy, afterSpill_halt, keep.halt, hh])
  refine ⟨_, he.trans ((issue_of_spill hn ((verdict_ptile i g s p).trans hv)).trans (congrArg _ goes)),
    spilled_of_fetch keep (spillBrew_spilled busy), ?_⟩
  obtain ⟨x, outside⟩ := spillBrew_outside (code := k) (user := 0) busy
  rw [spillBrew_streamAt busy, afterSpill_run, afterSpill_step, outside]
  exact ⟨keep.run, keep.step, keep.upe, keep.part, keep.ops⟩

end Issue

/-! ## Fences and STEP (R175, R121) -/

/-- The fence instructions say so in their needs. -/
theorem fence_of_isFenceInstr {c : Instr} {s : State} {i : Issue} {g : Needs} (hc : issueOf s c = some (i, g)) (hf : isFenceInstr c = true) :
    g.fence = true := by
  cases c with
  | step j | fence j | pin j | unpin j | gather j | clIssue j | upIssue j | end_ j => cases hc; rfl
  | _ => cases hf

theorem fencesSpill : Claim.FencesSpill := by
  intro c s i g hc hf hn ho hh
  by_cases hi : verdict i g s = .idle
  · exact .inl hi
  by_cases hb : verdict i g s = .wait .bench
  · exact .inr (.inl ⟨_, hb⟩)
  obtain ⟨hrun, due⟩ := verdict_due hi hb
  have held : ¬ Unheld i g (s.fetch i) := fun hu => by
    have passed := hu.fence
    rw [← streamAt_tile, (fetch_keeps i s).phase, ho, fence_of_isFenceInstr hc hf] at passed
    cases passed
  have fate : Fate i g (s.fetch i) (verdict i g s) := due g ▸ verdictOf_fate
  generalize hv : verdict i g s = v at fate
  cases fate with
  | wait w => exact .inr (.inl ⟨w, rfl⟩)
  | fetchRange d => exact .inr (.inr (.inl ⟨_, d, rfl, .inr (.inl rfl)⟩))
  | badLine d => exact .inr (.inr (.inl ⟨_, d, rfl, .inr (.inr rfl)⟩))
  | illegal d => exact .inr (.inr (.inl ⟨_, d, rfl, .inl rfl⟩))
  | skip => exact .inr (.inr (.inr (.inl rfl)))
  | conflict => exact .inr (.inr (.inr (.inr (.inl rfl))))
  | readSet full => exact .inr (.inr (.inr (.inr (.inr (.inl ⟨rfl, full⟩)))))
  | fence =>
    obtain ⟨t, ht, spilled, run, step, upe, part, ops⟩ := exec_of_spill hc hn ho hh hv
    refine .inr (.inr (.inr (.inr (.inr (.inr ⟨t, ht, spilled, run.trans hrun, step, fun e d => ?_, part, ops⟩)))))
    unfold State.dirAt State.engineAt
    rw [upe]
  | ownSpill _ hu => exact absurd hu held
  | fault _ _ hu => exact absurd hu held
  | sound _ hu => exact absurd hu held

theorem needs_stall_none {g : Needs} (h : g.stall = none) : { g with stall := none } = g := by
  rw [← h]

/-- STEP stalls while the step before its stream's own is open, short of the last step there is. -/
theorem needsStep_stall (i : Issue) (s : State) : (needsStep i s).stall =
    if (s.partAt (s.streamAt i.tile i.stream).part).s0.isSome &&
        decide ((s.partAt (s.streamAt i.tile i.stream).part).oldest + 2 ≤ (s.streamAt i.tile i.stream).step.toNat + 1) &&
        decide ((s.streamAt i.tile i.stream).step.toNat + 1 < 2 ^ 32)
      then some .dep else none := rfl

/-- A STEP that meets no fault is not at the last step there is (Table 07-5). -/
theorem step_lt_of_faultless {i : Issue} {s : State} (h : (needsStep i s).faults = []) : (s.streamAt i.tile i.stream).step.toNat + 1 < 2 ^ 32 := by
  have hne : (s.streamAt i.tile i.stream).step ≠ 0xFFFFFFFF := fun he => by simp [needsStep, he] at h
  bv_omega

theorem stepStalls : Claim.StepStalls := by
  intro i s hn hv
  dsimp only
  constructor
  · intro hopen hstep
    have hfaults : (needsStep i s).faults = [] := faults_of_run (g := { needsStep i s with stall := none }) hv
    have hlast := step_lt_of_faultless hfaults
    have hstall : (needsStep i s).stall = some .dep := by
      rw [needsStep_stall, if_pos]
      simp only [Bool.and_eq_true, decide_eq_true_eq]
      exact ⟨⟨hopen, by omega⟩, hlast⟩
    exact exec_of_wait (c := .step i) rfl hn (verdict_of_stall hv hstall)
  · intro hclosed
    have hstall : (needsStep i s).stall = none := by
      rw [needsStep_stall, if_neg]
      simp only [Bool.and_eq_true, decide_eq_true_eq]
      rintro ⟨⟨hopen, hold⟩, -⟩
      rcases hclosed with hnone | hlt
      · simp [hnone] at hopen
      · omega
    rw [needs_stall_none hstall] at hv
    exact hv

/-- Settles O9: a fence in an open brew passes no check that lets it take effect, so it is held back or spills the brew; STEP's own stall is the only
difference its open step makes. -/
theorem fenceAndStepRules : Obligations.FenceAndStepRules := ⟨fencesSpill, stepStalls⟩

/-! ## The lowest fault code (R156) -/

/-- The uncorrectable word of local store a verdict names. -/
def namedWord : Verdict → List (Nat × Word)
  | .fault 0x21 d => [(0x21, d)]
  | _ => []

/-- What an instruction meets that, its own faults apart, issue holds back for nothing: no wait, no spill of its own, and of faults the word of local
store that verdict names. -/
theorem unheld_of_faultless {i : Issue} {g : Needs} {s : State} {v : Verdict} (fate : Fate i { g with faults := [] } s v)
    (hv : v = .run ∨ v = .check ∨ (∃ d, v = .fault 0x21 d) ∨ (v = .spill 2 ∧ g.spill = none ∧ s.fetchOver i.tile i.stream = false)) :
    Unheld i g s ∧ waitsFor i g s = [] ∧ g.spill = none ∧ wordFaults i g s = namedWord v := by
  have noWord : faultsOf i { g with faults := [] } s = none → wordFaults i g s = [] := lowestFault_eq_none.mp
  obtain rfl | rfl | ⟨d, rfl⟩ | ⟨rfl, hspill, hroom⟩ := hv
  · cases fate with
    | sound _ hu hw hs hf => exact ⟨hu.of_eq rfl rfl, hw, hs, noWord hf⟩
  · cases fate with
    | sound _ hu hw hs hf => exact ⟨hu.of_eq rfl rfl, hw, hs, noWord hf⟩
  · cases fate with
    | fault _ _ hu hw hs hf => exact ⟨hu.of_eq rfl rfl, hw, hs, wordFaults_eq_of_lowest hf⟩
    | sound _ hu hw hs hf hv => simp at hv
  · cases fate with
    | readSet full => simp [hroom] at full
    | ownSpill _ hu hs => simp [hspill] at hs
    | sound _ hu hw hs hf => exact ⟨hu.of_eq rfl rfl, hw, hs, noWord hf⟩

/-- Settles O8: what the instruction meets is the list whose lowest code the verdict takes, and a fault's halt records it. -/
theorem lowestFault : Obligations.LowestFault := by
  intro c s i g hc hn v all hv hall
  have reached : v ≠ .idle ∧ v ≠ .wait .bench := by
    rcases hv with h | h | ⟨d, h⟩ | ⟨h, -⟩ <;> rw [h] <;> exact ⟨nofun, nofun⟩
  obtain ⟨hrun, due⟩ := verdict_due reached.1 reached.2
  have fate : Fate i { g with faults := [] } (s.fetch i) (verdict i { g with faults := [] } s) := due _ ▸ verdictOf_fate
  obtain ⟨hu, hw, hs, hword⟩ := unheld_of_faultless fate hv
  have met : faultsOf i g (s.fetch i) = Machine.lowestFault all := by rw [faultsOf_eq, hword]; rfl
  obtain ⟨f, hf⟩ := Option.ne_none_iff_exists'.mp (mt lowestFault_eq_none.mp hall)
  obtain ⟨hmem, hle⟩ := lowestFault_lowest hf
  have hverdict : verdict i g s = .fault f.1 f.2 := (due g).trans (hu.verdictOf_fault hw hs (met.trans hf))
  obtain ⟨t, ht, outcome⟩ := exec_of_fault hc hn hrun hverdict
  obtain ⟨run, fault⟩ := Prod.mk.inj outcome
  exact ⟨f, hmem, hle, hverdict, t, ht, congrArg FaultReg.valid fault, congrArg FaultReg.code fault,
    congrArg FaultReg.detail fault, congrArg FaultReg.pc fault, run⟩

end Sys2Proof.Proofs
end
